-- ==== Sys2Proof/Word.lean ====
section
/-!
DEFINITION. Word.lean: the word types of the machine and their plainest arithmetic (00 R12).
-/

namespace Sys2Proof

/-- A byte (00 R12). -/
abbrev Byte := BitVec 8

/-- A memory word (00 R12). -/
abbrev Word := BitVec 32

/-- A register value (00 R12). -/
abbrev Dword := BitVec 64

/-- The low word of a register value. -/
def loWord (x : Dword) : Word := x.setWidth 32

/-- The high word of a register value. -/
def hiWord (x : Dword) : Word := (x >>> 32).setWidth 32

/-- A register value from its high and low words (the joiner of 00 R11). -/
def joinWords (hi lo : Word) : Dword := hi ++ lo

/-- All ones or all zeros. -/
def ofBool32 (b : Bool) : Word := if b then 1 else 0

/-- One as a register value when the condition holds, else zero. -/
def ofBool64 (b : Bool) : Dword := if b then 1 else 0

end Sys2Proof
end

