-- ==== Sys2Proof/Syntax.lean ====
section
/-!
DEFINITION. Syntax.lean: every operation of spec/opcode_table.json. The encoded instructions stand first, with their
fields turned into registers, immediates and modes (14 R293 to R299), those with operands before those without; the operations
and events without an encoding stand after them. What such an event acts on is the machine's event operand
(`Sys2Proof.Machine.EvArgs` in Machine/State.lean).
-/

namespace Sys2Proof

/-- A long source specifier (14 R293). -/
inductive Src where
  | q (i : Fin 16)
  | n (i : Fin 16)
  | e (i : Fin 48)
  | k (i : Fin 32)
  | zero
  | lane
  | slot
  | quad
  | grp
  | team
  | coh
  | tid
  | dq (i : Fin 8)
  deriving DecidableEq, Repr

/-- A short source specifier (14 R293). -/
inductive SSrc where
  | q (i : Fin 16)
  | n (i : Fin 16)
  deriving DecidableEq, Repr

/-- A named register (07 R153). -/
inductive DReg where
  | n (i : Fin 16)
  | e (i : Fin 48)
  deriving DecidableEq, Repr

/-- A destination: the W bit and DST (14 R294). -/
inductive Dst where
  | none
  | reg (r : DReg)
  deriving DecidableEq, Repr

/-- The RM field (14 R298). `bad6` and `bad7` are its two reserved values. -/
inductive Rm where
  | dyn | rn | rz | ru | rd | sr | bad6 | bad7
  deriving DecidableEq, Repr

/-- The RM2 field (14 R297). -/
inductive Rm2 where
  | dyn | rz | ru | rd
  deriving DecidableEq, Repr

/-- A type code (14 R299). `bad` holds the reserved codes 15 and 28 to 31, as 0 to 4. -/
inductive Ty where
  | i8 | i16 | i32 | i64 | w8 | w16 | w32 | w64 | i4 | w4 | h4 | f64 | f32 | f16 | bf16
  | x8 (k : Fin 4)
  | x6 (k : Fin 4)
  | x4 (k : Fin 4)
  | bad (k : Fin 5)
  deriving DecidableEq, Repr

/-- The operations of spec/opcode_table.json. -/
inductive Instr where
  | bra (slot : Fin 4) (off : BitVec 16)
  | brp (p : Fin 8) (neg : Bool) (slot : Fin 4) (off : BitVec 16)
  | call (slot : Fin 4) (off : BitVec 16)
  | brx (sa : Src)
  | callx (sa : Src)
  | ret (sa : Src)
  | trapi (imm : BitVec 15)
  | movi (imm : BitVec 16) (d : Dst)
  | movh1 (imm : BitVec 16) (d : Dst)
  | movh2 (imm : BitVec 16) (d : Dst)
  | movh3 (imm : BitVec 16) (d : Dst)
  | put (sa : Src) (d : Dst)
  | sel (sa : Src) (sb : SSrc) (p : Fin 8) (d : Dst)
  | xacq (k : Fin 8)
  | xrel (k : Fin 8)
  | iadd (sa : Src) (sb : Src) (d : Dst)
  | isub (sa : Src) (sb : Src) (d : Dst)
  | imul (sa : Src) (sb : Src) (d : Dst)
  | imulhI64 (sa : Src) (sb : Src) (d : Dst)
  | imulhW64 (sa : Src) (sb : Src) (d : Dst)
  | imad (sa : Src) (sb : Src) (d : DReg)
  | idivI64 (sa : Src) (sb : Src) (d : Dst)
  | idivW64 (sa : Src) (sb : Src) (d : Dst)
  | iremI64 (sa : Src) (sb : Src) (d : Dst)
  | iremW64 (sa : Src) (sb : Src) (d : Dst)
  | iminI64 (sa : Src) (sb : Src) (d : Dst)
  | iminW64 (sa : Src) (sb : Src) (d : Dst)
  | imaxI64 (sa : Src) (sb : Src) (d : Dst)
  | imaxW64 (sa : Src) (sb : Src) (d : Dst)
  | iabs (sa : Src) (d : Dst)
  | ilogAnd (sa : Src) (sb : Src) (d : Dst)
  | ilogOr (sa : Src) (sb : Src) (d : Dst)
  | ilogXor (sa : Src) (sb : Src) (d : Dst)
  | ilogAndn (sa : Src) (sb : Src) (d : Dst)
  | ishfShl (sa : Src) (sb : Src) (d : Dst)
  | ishfShr (sa : Src) (sb : Src) (d : Dst)
  | ishfSar (sa : Src) (sb : Src) (d : Dst)
  | ishfRol (sa : Src) (sb : Src) (d : Dst)
  | lea (sa : Src) (sb : Src) (d : Dst)
  | ibitPopc (sa : Src) (d : Dst)
  | ibitClz (sa : Src) (d : Dst)
  | ibitCtz (sa : Src) (d : Dst)
  | ibitBrev (sa : Src) (d : Dst)
  | bfxI64 (sa : Src) (sb : Src) (d : Dst)
  | bfxW64 (sa : Src) (sb : Src) (d : Dst)
  | bfi (sa : Src) (sb : Src) (d : DReg)
  | iaddi (sa : Src) (imm : BitVec 8) (d : Dst)
  | ilogiAnd (sa : Src) (imm : BitVec 8) (d : Dst)
  | ilogiOr (sa : Src) (imm : BitVec 8) (d : Dst)
  | ilogiXor (sa : Src) (imm : BitVec 8) (d : Dst)
  | ilogiAndn (sa : Src) (imm : BitVec 8) (d : Dst)
  | ishfiShl (sa : Src) (imm : BitVec 6) (d : Dst)
  | ishfiShr (sa : Src) (imm : BitVec 6) (d : Dst)
  | ishfiSar (sa : Src) (imm : BitVec 6) (d : Dst)
  | ishfiRol (sa : Src) (imm : BitVec 6) (d : Dst)
  | iext (sa : Src) (imm : BitVec 8) (d : Dst)
  | icmpEq (sa : Src) (sb : Src) (ps : Fin 8) (pd : Fin 8)
  | icmpNe (sa : Src) (sb : Src) (ps : Fin 8) (pd : Fin 8)
  | icmpLtI64 (sa : Src) (sb : Src) (ps : Fin 8) (pd : Fin 8)
  | icmpLeI64 (sa : Src) (sb : Src) (ps : Fin 8) (pd : Fin 8)
  | icmpLtW64 (sa : Src) (sb : Src) (ps : Fin 8) (pd : Fin 8)
  | icmpLeW64 (sa : Src) (sb : Src) (ps : Fin 8) (pd : Fin 8)
  | fcmpEqF32 (sa : Src) (sb : Src) (ps : Fin 8) (pd : Fin 8)
  | fcmpNeF32 (sa : Src) (sb : Src) (ps : Fin 8) (pd : Fin 8)
  | fcmpLtF32 (sa : Src) (sb : Src) (ps : Fin 8) (pd : Fin 8)
  | fcmpLeF32 (sa : Src) (sb : Src) (ps : Fin 8) (pd : Fin 8)
  | fcmpUnF32 (sa : Src) (sb : Src) (ps : Fin 8) (pd : Fin 8)
  | fcmpEqF64 (sa : Src) (sb : Src) (ps : Fin 8) (pd : Fin 8)
  | fcmpNeF64 (sa : Src) (sb : Src) (ps : Fin 8) (pd : Fin 8)
  | fcmpLtF64 (sa : Src) (sb : Src) (ps : Fin 8) (pd : Fin 8)
  | fcmpLeF64 (sa : Src) (sb : Src) (ps : Fin 8) (pd : Fin 8)
  | fcmpUnF64 (sa : Src) (sb : Src) (ps : Fin 8) (pd : Fin 8)
  | plogAnd (pa : Fin 8) (ps : Fin 8) (pd : Fin 8)
  | plogOr (pa : Fin 8) (ps : Fin 8) (pd : Fin 8)
  | plogXor (pa : Fin 8) (ps : Fin 8) (pd : Fin 8)
  | plogAndn (pa : Fin 8) (ps : Fin 8) (pd : Fin 8)
  | voteAny (sa : Src) (ps : Fin 8) (pd : Fin 8)
  | voteAll (sa : Src) (ps : Fin 8) (pd : Fin 8)
  | voteBallot (sa : Src) (ps : Fin 8)
  | pmovRp (sa : Src) (ps : Fin 8) (pd : Fin 8)
  | fadd (sa : Src) (sb : SSrc) (rm : Rm) (d : Dst)
  | fsub (sa : Src) (sb : SSrc) (rm : Rm) (d : Dst)
  | fmul (sa : Src) (sb : SSrc) (rm : Rm) (d : Dst)
  | fmin (sa : Src) (sb : SSrc) (d : Dst)
  | fmax (sa : Src) (sb : SSrc) (d : Dst)
  | fsgnCp (sa : Src) (sb : SSrc) (d : Dst)
  | fsgnCpn (sa : Src) (sb : SSrc) (d : Dst)
  | fsgnX (sa : Src) (sb : SSrc) (d : Dst)
  | frnd (sa : Src) (rm : Rm) (d : Dst)
  | hadd2F16 (sa : Src) (sb : SSrc) (rm : Rm) (d : Dst)
  | hadd2Bf16 (sa : Src) (sb : SSrc) (rm : Rm) (d : Dst)
  | hmul2F16 (sa : Src) (sb : SSrc) (rm : Rm) (d : Dst)
  | hmul2Bf16 (sa : Src) (sb : SSrc) (rm : Rm) (d : Dst)
  | fpctl (sa : Src) (d : Dst)
  | ffma (sa : SSrc) (sb : SSrc) (sc : SSrc) (rm : Rm2) (d : Dst)
  | hfma2F16 (sa : SSrc) (sb : SSrc) (sc : SSrc) (rm : Rm2) (d : Dst)
  | hfma2Bf16 (sa : SSrc) (sb : SSrc) (sc : SSrc) (rm : Rm2) (d : Dst)
  | dfma (sa : SSrc) (sb : SSrc) (sc : SSrc) (rm : Rm2) (d : Dst)
  | dadd (sa : SSrc) (sb : SSrc) (rm : Rm2) (d : Dst)
  | dmul (sa : SSrc) (sb : SSrc) (rm : Rm2) (d : Dst)
  | frcp (sa : Src) (rm : Rm) (d : Dst)
  | frsq (sa : Src) (rm : Rm) (d : Dst)
  | fsqrt (sa : Src) (rm : Rm) (d : Dst)
  | fex2 (sa : Src) (rm : Rm) (d : Dst)
  | flg2 (sa : Src) (rm : Rm) (d : Dst)
  | fsin (sa : Src) (rm : Rm) (d : Dst)
  | fcos (sa : Src) (rm : Rm) (d : Dst)
  | ftanh (sa : Src) (rm : Rm) (d : Dst)
  | cvt (dty : Ty) (sty : Ty) (sa : SSrc) (rm : Rm) (d : Dst)
  | qpack (ty : Ty) (sa : Src) (rm : Rm) (d : Dst)
  | qunpk (ty : Ty) (sa : Src) (rm : Rm) (d : Dst)
  | amax (ty : Ty) (sa : Src) (d : DReg)
  | dot4 (ty : Ty) (sa : Src) (rm : Rm) (d : DReg)
  | dot4Sc (ty : Ty) (sa : Src) (rm : Rm) (d : DReg)
  | fmtw (fr : Fin 4) (sa : Src)
  | fmtr (fr : Fin 4) (d : Dst)
  | seed (sa : Src)
  | qswp1 (sa : Src) (d : Dst)
  | qswp2 (sa : Src) (d : Dst)
  | qswp3 (sa : Src) (d : Dst)
  | qbc (sa : Src) (sb : Src) (d : Dst)
  | qredAddI64 (sa : Src) (d : Dst)
  | qredAddF32 (sa : Src) (d : Dst)
  | qredMinI64 (sa : Src) (d : Dst)
  | qredMaxI64 (sa : Src) (d : Dst)
  | qredMinF32 (sa : Src) (d : Dst)
  | qredMaxF32 (sa : Src) (d : Dst)
  | qredAnd (sa : Src) (d : Dst)
  | qredOr (sa : Src) (d : Dst)
  | shflIdx (sa : Src) (sb : Src) (d : Dst)
  | shflUp (sa : Src) (sb : Src) (d : Dst)
  | shflDn (sa : Src) (sb : Src) (d : Dst)
  | shflXor (sa : Src) (sb : Src) (d : Dst)
  | gredAddI64 (sa : Src) (d : Dst)
  | gredAddF32 (sa : Src) (d : Dst)
  | gredMinI64 (sa : Src) (d : Dst)
  | gredMaxI64 (sa : Src) (d : Dst)
  | gredMinF32 (sa : Src) (d : Dst)
  | gredMaxF32 (sa : Src) (d : Dst)
  | gredAnd (sa : Src) (d : Dst)
  | gredOr (sa : Src) (d : Dst)
  | gscanAddI64 (sa : Src) (d : Dst)
  | gscanAddF32 (sa : Src) (d : Dst)
  | gscanMaxI64 (sa : Src) (d : Dst)
  | gscanMaxF32 (sa : Src) (d : Dst)
  | ldI8 (m : Fin 8) (fs : Bool) (sa : Src) (off : BitVec 4) (d : Dst)
  | ldI16 (m : Fin 8) (fs : Bool) (sa : Src) (off : BitVec 4) (d : Dst)
  | ldI32 (m : Fin 8) (fs : Bool) (sa : Src) (off : BitVec 4) (d : Dst)
  | ldW8 (m : Fin 8) (fs : Bool) (sa : Src) (off : BitVec 4) (d : Dst)
  | ldW16 (m : Fin 8) (fs : Bool) (sa : Src) (off : BitVec 4) (d : Dst)
  | ldW32 (m : Fin 8) (fs : Bool) (sa : Src) (off : BitVec 4) (d : Dst)
  | ldB64 (m : Fin 8) (fs : Bool) (sa : Src) (off : BitVec 4) (d : Dst)
  | pref (m : Fin 8) (fs : Bool) (sa : Src) (off : BitVec 4)
  | stB8 (m : Fin 8) (fs : Bool) (sa : Src) (sb : Src) (off : BitVec 4)
  | stB16 (m : Fin 8) (fs : Bool) (sa : Src) (sb : Src) (off : BitVec 4)
  | stB32 (m : Fin 8) (fs : Bool) (sa : Src) (sb : Src) (off : BitVec 4)
  | stB64 (m : Fin 8) (fs : Bool) (sa : Src) (sb : Src) (off : BitVec 4)
  | stB128 (m : Fin 8) (fs : Bool) (sa : Src) (sb : Src) (off : BitVec 4)
  | atomAdd (m : Fin 8) (fs : Bool) (sa : Src) (sb : Src)
  | atomAnd (m : Fin 8) (fs : Bool) (sa : Src) (sb : Src)
  | atomOr (m : Fin 8) (fs : Bool) (sa : Src) (sb : Src)
  | atomXor (m : Fin 8) (fs : Bool) (sa : Src) (sb : Src)
  | atomMinI32 (m : Fin 8) (fs : Bool) (sa : Src) (sb : Src)
  | atomMaxI32 (m : Fin 8) (fs : Bool) (sa : Src) (sb : Src)
  | atomMinW32 (m : Fin 8) (fs : Bool) (sa : Src) (sb : Src)
  | atomMaxW32 (m : Fin 8) (fs : Bool) (sa : Src) (sb : Src)
  | atomMinF32 (m : Fin 8) (fs : Bool) (sa : Src) (sb : Src)
  | atomMaxF32 (m : Fin 8) (fs : Bool) (sa : Src) (sb : Src)
  | atomAddF32 (m : Fin 8) (fs : Bool) (sa : Src) (sb : Src)
  | atomExch (m : Fin 8) (fs : Bool) (sa : Src) (sb : Src)
  | cas (m : Fin 8) (fs : Bool) (sa : Src) (sb : Src) (qc : Fin 8)
  | redAdd (m : Fin 8) (fs : Bool) (sa : Src) (sb : Src)
  | redAnd (m : Fin 8) (fs : Bool) (sa : Src) (sb : Src)
  | redOr (m : Fin 8) (fs : Bool) (sa : Src) (sb : Src)
  | redXor (m : Fin 8) (fs : Bool) (sa : Src) (sb : Src)
  | redMinI32 (m : Fin 8) (fs : Bool) (sa : Src) (sb : Src)
  | redMaxI32 (m : Fin 8) (fs : Bool) (sa : Src) (sb : Src)
  | redMinW32 (m : Fin 8) (fs : Bool) (sa : Src) (sb : Src)
  | redMaxW32 (m : Fin 8) (fs : Bool) (sa : Src) (sb : Src)
  | redMinF32 (m : Fin 8) (fs : Bool) (sa : Src) (sb : Src)
  | redMaxF32 (m : Fin 8) (fs : Bool) (sa : Src) (sb : Src)
  | redAddF32 (m : Fin 8) (fs : Bool) (sa : Src) (sb : Src)
  | wld (m : Fin 8) (fs : Bool) (sa : Src)
  | wlds (m : Fin 8) (fs : Bool) (sa : Src) (sb : Src)
  | wst (m : Fin 8) (fs : Bool) (sa : Src) (sb : Src)
  | watom (m : Fin 8) (fs : Bool) (sa : Src) (sb : Src) (aop : Fin 32)
  | fence (m : Fin 8) (fs : Bool)
  | mpol (m : Fin 8) (fs : Bool) (sa : Src)
  | cctl (m : Fin 8) (fs : Bool) (sa : Src) (sb : Src)
  | mcst (m : Fin 8) (fs : Bool) (sa : Src) (sb : Src)
  | pchk (m : Fin 8) (fs : Bool) (sa : Src)
  | binit (b : Fin 16) (sa : Src)
  | barv (b : Fin 16)
  | barw (b : Fin 16)
  | bdrop (b : Fin 16)
  | bwait (b : Fin 16) (sa : Src)
  | btest (b : Fin 16) (sa : Src)
  | bphase (b : Fin 16)
  | cpld (h : Fin 32) (bar : Fin 16) (ben : Bool) (fs : Bool) (m : Fin 8) (sa : Src)
  | cpst (h : Fin 32) (bar : Fin 16) (ben : Bool) (fs : Bool) (m : Fin 8) (sa : Src)
  | cpfill (bar : Fin 16) (ben : Bool) (fs : Bool) (m : Fin 8) (sa : Src)
  | tmma (z : Fin 16) (fs : Bool) (acc : Fin 32) (hs : Fin 4) (cl : Fin 8)
  | tmmaSc (z : Fin 16) (fs : Bool) (acc : Fin 32) (hs : Fin 4) (cl : Fin 8) (imm : BitVec 6)
  | tmms (z : Fin 16) (fs : Bool) (acc : Fin 32) (hs : Fin 4) (cl : Fin 8) (nsel : Fin 4)
  | tzero (z : Fin 16) (fs : Bool) (acc : Fin 32)
  | tlda (z : Fin 16) (fs : Bool) (acc : Fin 32) (hs : Fin 4)
  | tdrain (z : Fin 16) (fs : Bool) (acc : Fin 32) (hs : Fin 4) (cl : Fin 8)
  | tshape (z : Fin 16) (fs : Bool)
  | zset (za : Fin 16) (fs : Bool) (sa : Src)
  | zlog (k : Fin 16) (za : Fin 16) (zb : Fin 16) (op : Fin 4) (fs : Bool)
  | ztst (za : Fin 16) (fs : Bool)
  | hld (k : Fin 32) (fs : Bool) (sa : Src)
  | hset (k : Fin 32) (za : Fin 16) (fs : Bool) (sa : Src)
  | hrd (k : Fin 32) (za : Fin 16) (fs : Bool)
  | apgo (fs : Bool) (sa : Src) (sb : Src)
  | gath (dq : Fin 8) (m : Fin 8) (fs : Bool) (sa : Src) (sb : Src) (sz : Bool) (md : Bool)
  | scat (dq : Fin 8) (m : Fin 8) (fs : Bool) (sa : Src) (sb : Src) (md : Bool)
  | dqsend (dq : Fin 8) (fs : Bool) (sa : Src) (sb : Src)
  | dqcnt (dq : Fin 8) (fs : Bool)
  | gvalid (dq : Fin 8) (fs : Bool)
  | apwait (fs : Bool)
  | chrun (z : Fin 16) (fs : Bool) (acc : Fin 32) (hs : Fin 4) (cl : Fin 8)
  | chpre (fs : Bool) (hs : Fin 4) (cl : Fin 8)
  | chinv (fs : Bool) (hs : Fin 4) (imm : BitVec 8)
  | chrd (fs : Bool) (hs : Fin 4) (cl : Fin 8)
  | coll (m : Fin 8) (fs : Bool) (sa : Src)
  | collst (m : Fin 8) (fs : Bool) (sa : Src)
  | plc (m : Fin 8) (fs : Bool) (sa : Src)
  | plfence (fs : Bool)
  | launch (sa : Src)
  | launchw (sa : Src)
  | lstat (sa : Src) (imm : BitVec 15)
  | errq (sa : Src)
  | sysrd (imm : BitVec 15)
  | syswr (sa : Src) (imm : BitVec 15)
  | tlbinv (sa : Src) (imm : BitVec 15)
  | trapret (imm : BitVec 15)
  | wearrd (imm : BitVec 15)
  | join
  | conv
  | yield
  | exit
  | nop
  | pmovPr
  | cbar
  | gbar
  | castb
  | castc
  | castq
  | halt
  | registerWrite
  | powerUp
  | powerDown
  | powerUpStepDone
  | powerUpStepLimit
  | powerDownStepDone
  | junctionOvertemp
  | flowLowExpiry
  | startStepComplete
  | patinaSample
  | lifetimeTableWrite
  | pwearIdxWrite
  | pwearEvtRead
  | flitReceive
  | portLockLoss
  | rdw
  | rdo
  | wrw
  | atw
  | evw
  | invMsg
  | mcw
  | dataMsg
  | doneMsg
  | invack
  | wbk
  | peerdn
  | armIdent
  | linkUp
  | linkDown
  | linkTrainStepDone
  | linkTrainStepLimit
  | alnkErrRead
  | agrpRetryRead
  | memoryPart
  | burstCycleIssue
  | rowIdleClose
  | refresh
  | refreshWindow
  | rowSwap
  | patrolBurst
  | scrubWriteback
  | homeReadShared
  | homeReadForModification
  | homeWrite
  | homeAtomic
  | homeWriteBack
  | l2Invalidation
  | performAtDie
  | writeApply
  | mtrCalibration
  | mtrCaTraining
  | mtrReadDeskew
  | mtrWriteDeskew
  | mtrPatternTest
  | mtrInitialise
  | mtrPhaseEnd
  | mtrPhaseLimit
  | plnErrRead
  | plnFqHiRead
  | hostMemRead
  | hostMemWrite
  | hostSnoop
  | birsp
  | ident
  | attest
  | getlog
  | getrec
  | clralt
  | setfab
  | fwwrite
  | raisesvn
  | ctxrep
  | mbxEvtHiRead
  | cqSubmit
  | cqNop
  | ctxCreate
  | ctxDestroy
  | ctxRestore
  | castPoint
  | castPageCopy
  | dependencePoll
  | placementDecision
  | reserving
  | preemptSave
  | bundleFormation
  | launchEnd
  | teamEnd
  | memoryReply
  | pfHiRead
  | pfRespReplay
  | pfRespFail
  | launchAbort
  | rollback
  | copyComplete
  | tileSlabComplete
  | drainCaptureEnd
  | drainComplete
  | chiselCompileEnd
  | gatherComplete
  | apBranchResolve
  | plinthWordApply
  | collectiveMatch
  | collectiveComplete
  | auxiliaryPowerOn
  | powerLoss
  deriving DecidableEq, Repr

end Sys2Proof
end

