-- ==== Sys2Proof/WellFormed.lean ====
section
/-!
DEFINITION. WellFormed.lean: the field rules of 14 R294 to R300 and 15 R311 to R321 that the types of Syntax.lean do not
already hold, each under a name. The operations without an encoding have no fields, and break no rule.
-/

namespace Sys2Proof

/-- Why a word, or an instruction, is not well formed. Every one of them is an encoding that 15 R321 calls reserved. -/
inductive Reject where
  | reservedMajor      -- a major opcode that 15 R310 does not assign
  | reservedFunction   -- a function value that 15 R310 to R320 do not assign
  | unusedField        -- a non-zero field that the function does not use (14 R295)
  | destination        -- W = 0 with DST not 0 (14 R294)
  | noDestination      -- W = 0 where the entry requires W = 1 (15 R312)
  | slotZero           -- SLOT 0 of BR (14 R297)
  | blockNumber        -- a block number of XACQ or XREL above 2 (15 R311)
  | rounding           -- a reserved RM value (14 R298)
  | typeCode           -- a reserved type code, or one the entry does not take (15 R313, R315, R316)
  | storePair          -- an SB of ST.b128 outside the list (15 R318)
  | atomicOperation    -- a reserved AOP (15 R319)
  | barrierField       -- BAR not 0 with BEN 0 (14 R297)
  | integerClass       -- CL bits 9:8 not 0 with bit 10 at 0 (14 R297)
  | selector           -- a byte selector of TMMA.sc above 5 (11 R221)
  | immediate          -- an immediate that the entry reserves
  deriving DecidableEq, Repr

/-- A narrow type code: 0, 4, 8 to 10, 16 to 27 (15 R315). -/
def Ty.isNarrow : Ty → Bool
  | .i8 | .w8 | .i4 | .w4 | .h4 | .x8 _ | .x6 _ | .x4 _ => true
  | _ => false

/-- A reserved type code (14 R299). -/
def Ty.isBad : Ty → Bool
  | .bad _ => true
  | _ => false

/-- An integer type of width 16 or more (15 R316). -/
def Ty.isWideInt : Ty → Bool
  | .i16 | .i32 | .i64 | .w16 | .w32 | .w64 => true
  | _ => false

/-- A float type: codes 11 to 27 that are assigned (15 R316). -/
def Ty.isFloat : Ty → Bool
  | .f64 | .f32 | .f16 | .bf16 | .x8 _ | .x6 _ | .x4 _ => true
  | _ => false

/-- The storage width of a type in bits (10 R206, R220). -/
def Ty.bits : Ty → Nat
  | .i8 | .w8 => 8
  | .i16 | .w16 | .f16 | .bf16 => 16
  | .i32 | .w32 | .f32 => 32
  | .i64 | .w64 | .f64 => 64
  | .i4 | .w4 | .h4 => 4
  | .x8 _ => 8
  | .x6 _ => 6
  | .x4 _ => 4
  | .bad _ => 0

/-- A rounding of the instructions that are no narrowing conversion: neither .sr nor a reserved value (14 R298). -/
def Rm.isPlain : Rm → Bool
  | .dyn | .rn | .rz | .ru | .rd => true
  | .sr | .bad6 | .bad7 => false

/-- A rounding of a narrowing conversion: not a reserved value (14 R298). -/
def Rm.isGiven : Rm → Bool
  | .bad6 | .bad7 => false
  | _ => true

/-- The rule `ok`, broken under the name `r`. -/
def need (ok : Bool) (r : Reject) : Option Reject := if ok then none else some r

/-- The first of two rules that is broken. -/
def first2 (a b : Option Reject) : Option Reject := a.or b

/-- 15 R316 for CVT: the types, then the rounding. -/
def checkCvt (dty sty : Ty) (rm : Rm) : Option Reject :=
  first2
    (need (!dty.isBad && !sty.isBad && dty != sty && !(dty.isWideInt && sty.isWideInt)) .typeCode)
    (need (rm.isPlain || (rm == .sr && sty.isFloat && decide (dty.bits < sty.bits))) .rounding)

/-- 15 R318: the registers that ST.b128 may store from. -/
def Src.isPairBase : Src → Bool
  | .n i => i.val ≤ 14
  | .e i => i.val ≤ 46
  | _ => false

/-- 15 R319: the operations of WATOM. -/
def aopAssigned (a : Nat) : Bool := a ≤ 11 || (16 ≤ a && a ≤ 26)

/-- 14 R297: CL bits 9:8 are zero when bit 10 is. -/
def clOk (cl : Nat) : Bool := 4 ≤ cl || cl == 0

/-- 20 R441: the system registers that SYSRD may name. -/
def sysReadable (i : Nat) : Bool :=
  [0x00, 0x01, 0x02, 0x03, 0x04, 0x08, 0x09, 0x0A, 0x10, 0x11, 0x20, 0x21].contains i

/-- 20 R442: the system registers that SYSWR may name. -/
def sysWritable (i : Nat) : Bool := [0x03, 0x20].contains i

/-- The first rule that an instruction breaks, or none when it is well formed.
DEDUCED, unsafe: notes/assumptions/42.md. -/
def check : Instr → Option Reject
  | .bra slot _ => need (slot != 0) .slotZero
  | .brp _ _ slot _ => need (slot != 0) .slotZero
  | .call slot _ => need (slot != 0) .slotZero
  | .xacq k => need (decide (k.val ≤ 2)) .blockNumber
  | .xrel k => need (decide (k.val ≤ 2)) .blockNumber
  | .iext _ imm _ => need ([0, 1, 2, 4, 5, 6].contains imm.toNat) .immediate
  | .fadd _ _ rm _ => need rm.isPlain .rounding
  | .fsub _ _ rm _ => need rm.isPlain .rounding
  | .fmul _ _ rm _ => need rm.isPlain .rounding
  | .frnd _ rm _ => need rm.isPlain .rounding
  | .hadd2F16 _ _ rm _ => need rm.isPlain .rounding
  | .hadd2Bf16 _ _ rm _ => need rm.isPlain .rounding
  | .hmul2F16 _ _ rm _ => need rm.isPlain .rounding
  | .hmul2Bf16 _ _ rm _ => need rm.isPlain .rounding
  | .frcp _ rm _ => need rm.isPlain .rounding
  | .frsq _ rm _ => need rm.isPlain .rounding
  | .fsqrt _ rm _ => need rm.isPlain .rounding
  | .fex2 _ rm _ => need rm.isPlain .rounding
  | .flg2 _ rm _ => need rm.isPlain .rounding
  | .fsin _ rm _ => need rm.isPlain .rounding
  | .fcos _ rm _ => need rm.isPlain .rounding
  | .ftanh _ rm _ => need rm.isPlain .rounding
  | .cvt dty sty _ rm _ => checkCvt dty sty rm
  | .qpack ty _ rm _ => first2 (need ty.isNarrow .typeCode) (need rm.isGiven .rounding)
  | .qunpk ty _ rm _ => first2 (need ty.isNarrow .typeCode) (need rm.isPlain .rounding)
  | .amax ty _ _ => need (ty == .f32 || ty == .f16 || ty == .bf16) .typeCode
  | .dot4 ty _ rm _ => first2 (need ty.isNarrow .typeCode) (need rm.isPlain .rounding)
  | .dot4Sc ty _ rm _ => first2 (need ty.isNarrow .typeCode) (need rm.isPlain .rounding)
  | .stB128 _ _ _ sb _ => need sb.isPairBase .storePair
  | .watom _ _ _ _ aop => need (aopAssigned aop.val) .atomicOperation
  | .cpld _ bar ben _ _ _ => need (ben || bar == 0) .barrierField
  | .cpst _ bar ben _ _ _ => need (ben || bar == 0) .barrierField
  | .cpfill bar ben _ _ _ => need (ben || bar == 0) .barrierField
  | .tmma _ _ _ _ cl => need (clOk cl.val) .integerClass
  | .tmmaSc _ _ _ _ cl imm =>
      first2 (need (clOk cl.val) .integerClass)
        (need (decide (imm.toNat % 8 ≤ 5) && decide (imm.toNat / 8 ≤ 5)) .selector)
  | .tmms _ _ _ _ cl _ => need (clOk cl.val) .integerClass
  | .tdrain _ _ _ _ cl => need (clOk cl.val) .integerClass
  | .chrun _ _ _ _ cl => need (clOk cl.val) .integerClass
  | .chpre _ _ cl => need (clOk cl.val) .integerClass
  | .chrd _ _ cl => need (clOk cl.val) .integerClass
  | .chinv _ _ imm => need (decide (imm.toNat ≤ 2)) .immediate
  | .lstat sa imm => need (imm == 0 || (imm == 1 && sa == .q 0)) .immediate
  | .sysrd imm => need (sysReadable imm.toNat) .immediate
  | .syswr _ imm => need (sysWritable imm.toNat) .immediate
  | .tlbinv _ imm => need (decide (imm.toNat ≤ 1)) .immediate
  | .trapret imm => need (decide (imm.toNat ≤ 1)) .immediate
  | .wearrd imm => need (decide (imm.toNat ≤ 1)) .immediate
  | _ => none

/-- An instruction that breaks no rule. -/
def Instr.wf (i : Instr) : Bool := (check i).isNone

end Sys2Proof
end

