-- ==== Sys2Proof/Decode.lean ====
section
/-!
DEFINITION. Decode.lean: the words of the instruction set (14 R293 to R300; 15 R310 to R322), read by `decode` and written
by `encode`. Fields are taken with division and remainder, so a word is any natural number; only its low 31 bits are read,
because bit 31 is the chain bit, which belongs to the packet and not to the instruction (14 R291).
-/

namespace Sys2Proof

/-- The field of `n` bits at bit `lo` of a word. -/
def fld (w lo n : Nat) : Nat := w / 2 ^ lo % 2 ^ n

/-- The long source specifier with a code of 7 bits (14 R293). -/
def Src.ofCode (c : Nat) : Src :=
  if c < 16 then .q (Fin.ofNat 16 c)
  else if c < 32 then .n (Fin.ofNat 16 (c - 16))
  else if c < 80 then .e (Fin.ofNat 48 (c - 32))
  else if c < 112 then .k (Fin.ofNat 32 (c - 80))
  else if c = 112 then .zero
  else if c = 113 then .lane
  else if c = 114 then .slot
  else if c = 115 then .quad
  else if c = 116 then .grp
  else if c = 117 then .team
  else if c = 118 then .coh
  else if c = 119 then .tid
  else .dq (Fin.ofNat 8 (c - 120))

/-- The code of a long source specifier (14 R293). -/
def Src.code : Src → Nat
  | .q i => i.val
  | .n i => 16 + i.val
  | .e i => 32 + i.val
  | .k i => 80 + i.val
  | .zero => 112
  | .lane => 113
  | .slot => 114
  | .quad => 115
  | .grp => 116
  | .team => 117
  | .coh => 118
  | .tid => 119
  | .dq i => 120 + i.val

/-- The short source specifier with a code of 5 bits (14 R293). -/
def SSrc.ofCode (c : Nat) : SSrc :=
  if c < 16 then .q (Fin.ofNat 16 c) else .n (Fin.ofNat 16 (c - 16))

/-- The code of a short source specifier. -/
def SSrc.code : SSrc → Nat
  | .q i => i.val
  | .n i => 16 + i.val

/-- The named register of DST (14 R294). -/
def DReg.ofCode (c : Nat) : DReg :=
  if c < 16 then .n (Fin.ofNat 16 c) else .e (Fin.ofNat 48 (c - 16))

/-- The DST value of a named register. -/
def DReg.code : DReg → Nat
  | .n i => i.val
  | .e i => 16 + i.val

/-- The destination of W and DST together, W above DST (14 R294). -/
def Dst.ofCode (c : Nat) : Dst :=
  if c < 64 then .none else .reg (.ofCode (c - 64))

/-- The W and DST bits of a destination. -/
def Dst.code : Dst → Nat
  | .none => 0
  | .reg r => 64 + r.code

/-- A short specifier as a long one (14 R293). -/
def SSrc.long : SSrc → Src
  | .q i => .q i
  | .n i => .n i

/-- A named register as a source (14 R294; 15 R312). -/
def DReg.src : DReg → Src
  | .n i => .n i
  | .e i => .e i

/-- The RM field (14 R298). -/
def Rm.ofCode : Nat → Rm
  | 0 => .dyn
  | 1 => .rn
  | 2 => .rz
  | 3 => .ru
  | 4 => .rd
  | 5 => .sr
  | 6 => .bad6
  | _ => .bad7

/-- The code of an RM value. -/
def Rm.code : Rm → Nat
  | .dyn => 0
  | .rn => 1
  | .rz => 2
  | .ru => 3
  | .rd => 4
  | .sr => 5
  | .bad6 => 6
  | .bad7 => 7

/-- The RM2 field (14 R297). -/
def Rm2.ofCode : Nat → Rm2
  | 0 => .dyn
  | 1 => .rz
  | 2 => .ru
  | _ => .rd

/-- The code of an RM2 value. -/
def Rm2.code : Rm2 → Nat
  | .dyn => 0
  | .rz => 1
  | .ru => 2
  | .rd => 3

/-- The type of a 5-bit code (14 R299). -/
def Ty.ofCode (c : Nat) : Ty :=
  match c with
  | 0 => .i8
  | 1 => .i16
  | 2 => .i32
  | 3 => .i64
  | 4 => .w8
  | 5 => .w16
  | 6 => .w32
  | 7 => .w64
  | 8 => .i4
  | 9 => .w4
  | 10 => .h4
  | 11 => .f64
  | 12 => .f32
  | 13 => .f16
  | 14 => .bf16
  | 15 => .bad 0
  | c =>
    if c < 20 then .x8 (Fin.ofNat 4 (c - 16))
    else if c < 24 then .x6 (Fin.ofNat 4 (c - 20))
    else if c < 28 then .x4 (Fin.ofNat 4 (c - 24))
    else .bad (Fin.ofNat 5 (c - 27))

/-- The code of a type (14 R299). -/
def Ty.code : Ty → Nat
  | .i8 => 0
  | .i16 => 1
  | .i32 => 2
  | .i64 => 3
  | .w8 => 4
  | .w16 => 5
  | .w32 => 6
  | .w64 => 7
  | .i4 => 8
  | .w4 => 9
  | .h4 => 10
  | .f64 => 11
  | .f32 => 12
  | .f16 => 13
  | .bf16 => 14
  | .x8 k => 16 + k.val
  | .x6 k => 20 + k.val
  | .x4 k => 24 + k.val
  | .bad k => if k.val = 0 then 15 else 27 + k.val

/-- The instruction, when the fields it does not use are zero (14 R295). -/
def unused (ok : Bool) (i : Instr) : Except Reject Instr := if ok then .ok i else .error .unusedField

/-- The instruction, when W = 0 comes with DST = 0 (14 R294). -/
def dest (w : Nat) (r : Except Reject Instr) : Except Reject Instr :=
  if fld w 6 1 == 1 || fld w 0 6 == 0 then r else .error .destination

/-- The instruction, when W = 1, as an entry that reads or needs its destination requires (15 R312). -/
def destE (w : Nat) (r : Except Reject Instr) : Except Reject Instr :=
  if fld w 6 1 == 1 then r else .error .noDestination

/-- Major 0x01 (15 R310). -/
def decMaj01 (w : Nat) : Except Reject Instr :=
  match fld w 22 4 with
  | 0 => unused (fld w 18 4 == 0) (.bra (Fin.ofNat 4 (fld w 16 2)) (BitVec.ofNat 16 (fld w 0 16)))
  | 1 => .ok (.brp (Fin.ofNat 8 (fld w 19 3)) (fld w 18 1 == 1) (Fin.ofNat 4 (fld w 16 2)) (BitVec.ofNat 16 (fld w 0 16)))
  | 2 => unused (fld w 18 4 == 0) (.call (Fin.ofNat 4 (fld w 16 2)) (BitVec.ofNat 16 (fld w 0 16)))
  | 3 => unused (fld w 0 15 == 0) (.brx (.ofCode (fld w 15 7)))
  | 4 => unused (fld w 0 15 == 0) (.callx (.ofCode (fld w 15 7)))
  | 5 => unused (fld w 0 15 == 0) (.ret (.ofCode (fld w 15 7)))
  | 6 => unused (fld w 0 22 == 0) (.join)
  | 7 => unused (fld w 0 22 == 0) (.conv)
  | 8 => unused (fld w 0 22 == 0) (.yield)
  | 9 => unused (fld w 0 22 == 0) (.exit)
  | 10 => unused (fld w 15 7 == 0) (.trapi (BitVec.ofNat 15 (fld w 0 15)))
  | 11 => unused (fld w 0 22 == 0) (.nop)
  | _ => .error .reservedFunction

/-- Major 0x02 (15 R310). -/
def decMaj02 (w : Nat) : Except Reject Instr :=
  match fld w 23 3 with
  | 0 => dest w (.ok (.movi (BitVec.ofNat 16 (fld w 7 16)) (.ofCode (fld w 0 7))))
  | 1 => dest w (.ok (.movh1 (BitVec.ofNat 16 (fld w 7 16)) (.ofCode (fld w 0 7))))
  | 2 => dest w (.ok (.movh2 (BitVec.ofNat 16 (fld w 7 16)) (.ofCode (fld w 0 7))))
  | 3 => dest w (.ok (.movh3 (BitVec.ofNat 16 (fld w 7 16)) (.ofCode (fld w 0 7))))
  | 4 => dest w (unused (fld w 7 9 == 0) (.put (.ofCode (fld w 16 7)) (.ofCode (fld w 0 7))))
  | 5 => dest w (unused (fld w 7 1 == 0) (.sel (.ofCode (fld w 16 7)) (.ofCode (fld w 11 5)) (Fin.ofNat 8 (fld w 8 3)) (.ofCode (fld w 0 7))))
  | 6 => unused (fld w 0 8 == 0 && fld w 11 12 == 0) (.xacq (Fin.ofNat 8 (fld w 8 3)))
  | _ => unused (fld w 0 8 == 0 && fld w 11 12 == 0) (.xrel (Fin.ofNat 8 (fld w 8 3)))

/-- Major 0x03 (15 R310). -/
def decMaj03 (w : Nat) : Except Reject Instr :=
  match fld w 21 5 with
  | 0 => dest w (.ok (.iadd (.ofCode (fld w 14 7)) (.ofCode (fld w 7 7)) (.ofCode (fld w 0 7))))
  | 1 => dest w (.ok (.isub (.ofCode (fld w 14 7)) (.ofCode (fld w 7 7)) (.ofCode (fld w 0 7))))
  | 2 => dest w (.ok (.imul (.ofCode (fld w 14 7)) (.ofCode (fld w 7 7)) (.ofCode (fld w 0 7))))
  | 3 => dest w (.ok (.imulhI64 (.ofCode (fld w 14 7)) (.ofCode (fld w 7 7)) (.ofCode (fld w 0 7))))
  | 4 => dest w (.ok (.imulhW64 (.ofCode (fld w 14 7)) (.ofCode (fld w 7 7)) (.ofCode (fld w 0 7))))
  | 5 => destE w (.ok (.imad (.ofCode (fld w 14 7)) (.ofCode (fld w 7 7)) (.ofCode (fld w 0 6))))
  | 6 => dest w (.ok (.idivI64 (.ofCode (fld w 14 7)) (.ofCode (fld w 7 7)) (.ofCode (fld w 0 7))))
  | 7 => dest w (.ok (.idivW64 (.ofCode (fld w 14 7)) (.ofCode (fld w 7 7)) (.ofCode (fld w 0 7))))
  | 8 => dest w (.ok (.iremI64 (.ofCode (fld w 14 7)) (.ofCode (fld w 7 7)) (.ofCode (fld w 0 7))))
  | 9 => dest w (.ok (.iremW64 (.ofCode (fld w 14 7)) (.ofCode (fld w 7 7)) (.ofCode (fld w 0 7))))
  | 10 => dest w (.ok (.iminI64 (.ofCode (fld w 14 7)) (.ofCode (fld w 7 7)) (.ofCode (fld w 0 7))))
  | 11 => dest w (.ok (.iminW64 (.ofCode (fld w 14 7)) (.ofCode (fld w 7 7)) (.ofCode (fld w 0 7))))
  | 12 => dest w (.ok (.imaxI64 (.ofCode (fld w 14 7)) (.ofCode (fld w 7 7)) (.ofCode (fld w 0 7))))
  | 13 => dest w (.ok (.imaxW64 (.ofCode (fld w 14 7)) (.ofCode (fld w 7 7)) (.ofCode (fld w 0 7))))
  | 14 => dest w (unused (fld w 7 7 == 0) (.iabs (.ofCode (fld w 14 7)) (.ofCode (fld w 0 7))))
  | 15 => dest w (.ok (.ilogAnd (.ofCode (fld w 14 7)) (.ofCode (fld w 7 7)) (.ofCode (fld w 0 7))))
  | 16 => dest w (.ok (.ilogOr (.ofCode (fld w 14 7)) (.ofCode (fld w 7 7)) (.ofCode (fld w 0 7))))
  | 17 => dest w (.ok (.ilogXor (.ofCode (fld w 14 7)) (.ofCode (fld w 7 7)) (.ofCode (fld w 0 7))))
  | 18 => dest w (.ok (.ilogAndn (.ofCode (fld w 14 7)) (.ofCode (fld w 7 7)) (.ofCode (fld w 0 7))))
  | 19 => dest w (.ok (.ishfShl (.ofCode (fld w 14 7)) (.ofCode (fld w 7 7)) (.ofCode (fld w 0 7))))
  | 20 => dest w (.ok (.ishfShr (.ofCode (fld w 14 7)) (.ofCode (fld w 7 7)) (.ofCode (fld w 0 7))))
  | 21 => dest w (.ok (.ishfSar (.ofCode (fld w 14 7)) (.ofCode (fld w 7 7)) (.ofCode (fld w 0 7))))
  | 22 => dest w (.ok (.ishfRol (.ofCode (fld w 14 7)) (.ofCode (fld w 7 7)) (.ofCode (fld w 0 7))))
  | 23 => dest w (.ok (.lea (.ofCode (fld w 14 7)) (.ofCode (fld w 7 7)) (.ofCode (fld w 0 7))))
  | 24 => dest w (unused (fld w 7 7 == 0) (.ibitPopc (.ofCode (fld w 14 7)) (.ofCode (fld w 0 7))))
  | 25 => dest w (unused (fld w 7 7 == 0) (.ibitClz (.ofCode (fld w 14 7)) (.ofCode (fld w 0 7))))
  | 26 => dest w (unused (fld w 7 7 == 0) (.ibitCtz (.ofCode (fld w 14 7)) (.ofCode (fld w 0 7))))
  | 27 => dest w (unused (fld w 7 7 == 0) (.ibitBrev (.ofCode (fld w 14 7)) (.ofCode (fld w 0 7))))
  | 28 => dest w (.ok (.bfxI64 (.ofCode (fld w 14 7)) (.ofCode (fld w 7 7)) (.ofCode (fld w 0 7))))
  | 29 => dest w (.ok (.bfxW64 (.ofCode (fld w 14 7)) (.ofCode (fld w 7 7)) (.ofCode (fld w 0 7))))
  | 30 => destE w (.ok (.bfi (.ofCode (fld w 14 7)) (.ofCode (fld w 7 7)) (.ofCode (fld w 0 6))))
  | _ => .error .reservedFunction

/-- Major 0x04 (15 R310). -/
def decMaj04 (w : Nat) : Except Reject Instr :=
  match fld w 22 4 with
  | 0 => dest w (.ok (.iaddi (.ofCode (fld w 15 7)) (BitVec.ofNat 8 (fld w 7 8)) (.ofCode (fld w 0 7))))
  | 1 => dest w (.ok (.ilogiAnd (.ofCode (fld w 15 7)) (BitVec.ofNat 8 (fld w 7 8)) (.ofCode (fld w 0 7))))
  | 2 => dest w (.ok (.ilogiOr (.ofCode (fld w 15 7)) (BitVec.ofNat 8 (fld w 7 8)) (.ofCode (fld w 0 7))))
  | 3 => dest w (.ok (.ilogiXor (.ofCode (fld w 15 7)) (BitVec.ofNat 8 (fld w 7 8)) (.ofCode (fld w 0 7))))
  | 4 => dest w (.ok (.ilogiAndn (.ofCode (fld w 15 7)) (BitVec.ofNat 8 (fld w 7 8)) (.ofCode (fld w 0 7))))
  | 5 => dest w (unused (fld w 13 2 == 0) (.ishfiShl (.ofCode (fld w 15 7)) (BitVec.ofNat 6 (fld w 7 6)) (.ofCode (fld w 0 7))))
  | 6 => dest w (unused (fld w 13 2 == 0) (.ishfiShr (.ofCode (fld w 15 7)) (BitVec.ofNat 6 (fld w 7 6)) (.ofCode (fld w 0 7))))
  | 7 => dest w (unused (fld w 13 2 == 0) (.ishfiSar (.ofCode (fld w 15 7)) (BitVec.ofNat 6 (fld w 7 6)) (.ofCode (fld w 0 7))))
  | 8 => dest w (unused (fld w 13 2 == 0) (.ishfiRol (.ofCode (fld w 15 7)) (BitVec.ofNat 6 (fld w 7 6)) (.ofCode (fld w 0 7))))
  | 9 => dest w (.ok (.iext (.ofCode (fld w 15 7)) (BitVec.ofNat 8 (fld w 7 8)) (.ofCode (fld w 0 7))))
  | _ => .error .reservedFunction

/-- Major 0x05 (15 R310). -/
def decMaj05 (w : Nat) : Except Reject Instr :=
  match fld w 21 5 with
  | 0 => unused (fld w 3 1 == 0) (.icmpEq (.ofCode (fld w 14 7)) (.ofCode (fld w 7 7)) (Fin.ofNat 8 (fld w 4 3)) (Fin.ofNat 8 (fld w 0 3)))
  | 1 => unused (fld w 3 1 == 0) (.icmpNe (.ofCode (fld w 14 7)) (.ofCode (fld w 7 7)) (Fin.ofNat 8 (fld w 4 3)) (Fin.ofNat 8 (fld w 0 3)))
  | 2 => unused (fld w 3 1 == 0) (.icmpLtI64 (.ofCode (fld w 14 7)) (.ofCode (fld w 7 7)) (Fin.ofNat 8 (fld w 4 3)) (Fin.ofNat 8 (fld w 0 3)))
  | 3 => unused (fld w 3 1 == 0) (.icmpLeI64 (.ofCode (fld w 14 7)) (.ofCode (fld w 7 7)) (Fin.ofNat 8 (fld w 4 3)) (Fin.ofNat 8 (fld w 0 3)))
  | 4 => unused (fld w 3 1 == 0) (.icmpLtW64 (.ofCode (fld w 14 7)) (.ofCode (fld w 7 7)) (Fin.ofNat 8 (fld w 4 3)) (Fin.ofNat 8 (fld w 0 3)))
  | 5 => unused (fld w 3 1 == 0) (.icmpLeW64 (.ofCode (fld w 14 7)) (.ofCode (fld w 7 7)) (Fin.ofNat 8 (fld w 4 3)) (Fin.ofNat 8 (fld w 0 3)))
  | 8 => unused (fld w 3 1 == 0) (.fcmpEqF32 (.ofCode (fld w 14 7)) (.ofCode (fld w 7 7)) (Fin.ofNat 8 (fld w 4 3)) (Fin.ofNat 8 (fld w 0 3)))
  | 9 => unused (fld w 3 1 == 0) (.fcmpNeF32 (.ofCode (fld w 14 7)) (.ofCode (fld w 7 7)) (Fin.ofNat 8 (fld w 4 3)) (Fin.ofNat 8 (fld w 0 3)))
  | 10 => unused (fld w 3 1 == 0) (.fcmpLtF32 (.ofCode (fld w 14 7)) (.ofCode (fld w 7 7)) (Fin.ofNat 8 (fld w 4 3)) (Fin.ofNat 8 (fld w 0 3)))
  | 11 => unused (fld w 3 1 == 0) (.fcmpLeF32 (.ofCode (fld w 14 7)) (.ofCode (fld w 7 7)) (Fin.ofNat 8 (fld w 4 3)) (Fin.ofNat 8 (fld w 0 3)))
  | 12 => unused (fld w 3 1 == 0) (.fcmpUnF32 (.ofCode (fld w 14 7)) (.ofCode (fld w 7 7)) (Fin.ofNat 8 (fld w 4 3)) (Fin.ofNat 8 (fld w 0 3)))
  | 13 => unused (fld w 3 1 == 0) (.fcmpEqF64 (.ofCode (fld w 14 7)) (.ofCode (fld w 7 7)) (Fin.ofNat 8 (fld w 4 3)) (Fin.ofNat 8 (fld w 0 3)))
  | 14 => unused (fld w 3 1 == 0) (.fcmpNeF64 (.ofCode (fld w 14 7)) (.ofCode (fld w 7 7)) (Fin.ofNat 8 (fld w 4 3)) (Fin.ofNat 8 (fld w 0 3)))
  | 15 => unused (fld w 3 1 == 0) (.fcmpLtF64 (.ofCode (fld w 14 7)) (.ofCode (fld w 7 7)) (Fin.ofNat 8 (fld w 4 3)) (Fin.ofNat 8 (fld w 0 3)))
  | 16 => unused (fld w 3 1 == 0) (.fcmpLeF64 (.ofCode (fld w 14 7)) (.ofCode (fld w 7 7)) (Fin.ofNat 8 (fld w 4 3)) (Fin.ofNat 8 (fld w 0 3)))
  | 17 => unused (fld w 3 1 == 0) (.fcmpUnF64 (.ofCode (fld w 14 7)) (.ofCode (fld w 7 7)) (Fin.ofNat 8 (fld w 4 3)) (Fin.ofNat 8 (fld w 0 3)))
  | 18 => unused (fld w 3 1 == 0 && fld w 7 7 == 0 && fld w 17 4 == 0) (.plogAnd (Fin.ofNat 8 (fld w 14 3)) (Fin.ofNat 8 (fld w 4 3)) (Fin.ofNat 8 (fld w 0 3)))
  | 19 => unused (fld w 3 1 == 0 && fld w 7 7 == 0 && fld w 17 4 == 0) (.plogOr (Fin.ofNat 8 (fld w 14 3)) (Fin.ofNat 8 (fld w 4 3)) (Fin.ofNat 8 (fld w 0 3)))
  | 20 => unused (fld w 3 1 == 0 && fld w 7 7 == 0 && fld w 17 4 == 0) (.plogXor (Fin.ofNat 8 (fld w 14 3)) (Fin.ofNat 8 (fld w 4 3)) (Fin.ofNat 8 (fld w 0 3)))
  | 21 => unused (fld w 3 1 == 0 && fld w 7 7 == 0 && fld w 17 4 == 0) (.plogAndn (Fin.ofNat 8 (fld w 14 3)) (Fin.ofNat 8 (fld w 4 3)) (Fin.ofNat 8 (fld w 0 3)))
  | 22 => unused (fld w 3 1 == 0 && fld w 7 7 == 0) (.voteAny (.ofCode (fld w 14 7)) (Fin.ofNat 8 (fld w 4 3)) (Fin.ofNat 8 (fld w 0 3)))
  | 23 => unused (fld w 3 1 == 0 && fld w 7 7 == 0) (.voteAll (.ofCode (fld w 14 7)) (Fin.ofNat 8 (fld w 4 3)) (Fin.ofNat 8 (fld w 0 3)))
  | 24 => unused (fld w 0 4 == 0 && fld w 7 7 == 0) (.voteBallot (.ofCode (fld w 14 7)) (Fin.ofNat 8 (fld w 4 3)))
  | 25 => unused (fld w 3 1 == 0 && fld w 7 7 == 0) (.pmovRp (.ofCode (fld w 14 7)) (Fin.ofNat 8 (fld w 4 3)) (Fin.ofNat 8 (fld w 0 3)))
  | 26 => unused (fld w 0 21 == 0) (.pmovPr)
  | _ => .error .reservedFunction

/-- Major 0x06 (15 R310). -/
def decMaj06 (w : Nat) : Except Reject Instr :=
  match fld w 22 4 with
  | 0 => dest w (.ok (.fadd (.ofCode (fld w 15 7)) (.ofCode (fld w 10 5)) (.ofCode (fld w 7 3)) (.ofCode (fld w 0 7))))
  | 1 => dest w (.ok (.fsub (.ofCode (fld w 15 7)) (.ofCode (fld w 10 5)) (.ofCode (fld w 7 3)) (.ofCode (fld w 0 7))))
  | 2 => dest w (.ok (.fmul (.ofCode (fld w 15 7)) (.ofCode (fld w 10 5)) (.ofCode (fld w 7 3)) (.ofCode (fld w 0 7))))
  | 3 => dest w (unused (fld w 7 3 == 0) (.fmin (.ofCode (fld w 15 7)) (.ofCode (fld w 10 5)) (.ofCode (fld w 0 7))))
  | 4 => dest w (unused (fld w 7 3 == 0) (.fmax (.ofCode (fld w 15 7)) (.ofCode (fld w 10 5)) (.ofCode (fld w 0 7))))
  | 5 => dest w (unused (fld w 7 3 == 0) (.fsgnCp (.ofCode (fld w 15 7)) (.ofCode (fld w 10 5)) (.ofCode (fld w 0 7))))
  | 6 => dest w (unused (fld w 7 3 == 0) (.fsgnCpn (.ofCode (fld w 15 7)) (.ofCode (fld w 10 5)) (.ofCode (fld w 0 7))))
  | 7 => dest w (unused (fld w 7 3 == 0) (.fsgnX (.ofCode (fld w 15 7)) (.ofCode (fld w 10 5)) (.ofCode (fld w 0 7))))
  | 8 => dest w (unused (fld w 10 5 == 0) (.frnd (.ofCode (fld w 15 7)) (.ofCode (fld w 7 3)) (.ofCode (fld w 0 7))))
  | 9 => dest w (.ok (.hadd2F16 (.ofCode (fld w 15 7)) (.ofCode (fld w 10 5)) (.ofCode (fld w 7 3)) (.ofCode (fld w 0 7))))
  | 10 => dest w (.ok (.hadd2Bf16 (.ofCode (fld w 15 7)) (.ofCode (fld w 10 5)) (.ofCode (fld w 7 3)) (.ofCode (fld w 0 7))))
  | 11 => dest w (.ok (.hmul2F16 (.ofCode (fld w 15 7)) (.ofCode (fld w 10 5)) (.ofCode (fld w 7 3)) (.ofCode (fld w 0 7))))
  | 12 => dest w (.ok (.hmul2Bf16 (.ofCode (fld w 15 7)) (.ofCode (fld w 10 5)) (.ofCode (fld w 7 3)) (.ofCode (fld w 0 7))))
  | 13 => dest w (unused (fld w 7 8 == 0) (.fpctl (.ofCode (fld w 15 7)) (.ofCode (fld w 0 7))))
  | _ => .error .reservedFunction

/-- Major 0x07 (15 R310). -/
def decMaj07 (w : Nat) : Except Reject Instr :=
  match fld w 24 2 with
  | 0 => dest w (.ok (.ffma (.ofCode (fld w 19 5)) (.ofCode (fld w 14 5)) (.ofCode (fld w 9 5)) (.ofCode (fld w 7 2)) (.ofCode (fld w 0 7))))
  | 1 => dest w (.ok (.hfma2F16 (.ofCode (fld w 19 5)) (.ofCode (fld w 14 5)) (.ofCode (fld w 9 5)) (.ofCode (fld w 7 2)) (.ofCode (fld w 0 7))))
  | 2 => dest w (.ok (.hfma2Bf16 (.ofCode (fld w 19 5)) (.ofCode (fld w 14 5)) (.ofCode (fld w 9 5)) (.ofCode (fld w 7 2)) (.ofCode (fld w 0 7))))
  | _ => .error .reservedFunction

/-- Major 0x08 (15 R310). -/
def decMaj08 (w : Nat) : Except Reject Instr :=
  match fld w 24 2 with
  | 0 => dest w (.ok (.dfma (.ofCode (fld w 19 5)) (.ofCode (fld w 14 5)) (.ofCode (fld w 9 5)) (.ofCode (fld w 7 2)) (.ofCode (fld w 0 7))))
  | 1 => dest w (unused (fld w 9 5 == 0) (.dadd (.ofCode (fld w 19 5)) (.ofCode (fld w 14 5)) (.ofCode (fld w 7 2)) (.ofCode (fld w 0 7))))
  | 2 => dest w (unused (fld w 9 5 == 0) (.dmul (.ofCode (fld w 19 5)) (.ofCode (fld w 14 5)) (.ofCode (fld w 7 2)) (.ofCode (fld w 0 7))))
  | _ => .error .reservedFunction

/-- Major 0x09, the TC format (15 R315, R316). -/
def decMaj09 (w : Nat) : Except Reject Instr :=
  if fld w 25 1 == 1 then
    dest w (.ok (.cvt (.ofCode (fld w 20 5)) (.ofCode (fld w 15 5)) (.ofCode (fld w 10 5)) (.ofCode (fld w 7 3)) (.ofCode (fld w 0 7))))
  else match fld w 22 3 with
    | 0 => dest w (unused (fld w 10 5 == 0) (.frcp (.ofCode (fld w 15 7)) (.ofCode (fld w 7 3)) (.ofCode (fld w 0 7))))
    | 1 => dest w (unused (fld w 10 5 == 0) (.frsq (.ofCode (fld w 15 7)) (.ofCode (fld w 7 3)) (.ofCode (fld w 0 7))))
    | 2 => dest w (unused (fld w 10 5 == 0) (.fsqrt (.ofCode (fld w 15 7)) (.ofCode (fld w 7 3)) (.ofCode (fld w 0 7))))
    | 3 => dest w (unused (fld w 10 5 == 0) (.fex2 (.ofCode (fld w 15 7)) (.ofCode (fld w 7 3)) (.ofCode (fld w 0 7))))
    | 4 => dest w (unused (fld w 10 5 == 0) (.flg2 (.ofCode (fld w 15 7)) (.ofCode (fld w 7 3)) (.ofCode (fld w 0 7))))
    | 5 => dest w (unused (fld w 10 5 == 0) (.fsin (.ofCode (fld w 15 7)) (.ofCode (fld w 7 3)) (.ofCode (fld w 0 7))))
    | 6 => dest w (unused (fld w 10 5 == 0) (.fcos (.ofCode (fld w 15 7)) (.ofCode (fld w 7 3)) (.ofCode (fld w 0 7))))
    | _ => dest w (unused (fld w 10 5 == 0) (.ftanh (.ofCode (fld w 15 7)) (.ofCode (fld w 7 3)) (.ofCode (fld w 0 7))))

/-- Major 0x0A (15 R310). -/
def decMaj0A (w : Nat) : Except Reject Instr :=
  match fld w 22 4 with
  | 0 => dest w (.ok (.qpack (.ofCode (fld w 17 5)) (.ofCode (fld w 10 7)) (.ofCode (fld w 7 3)) (.ofCode (fld w 0 7))))
  | 1 => dest w (.ok (.qunpk (.ofCode (fld w 17 5)) (.ofCode (fld w 10 7)) (.ofCode (fld w 7 3)) (.ofCode (fld w 0 7))))
  | 2 => destE w (unused (fld w 7 3 == 0) (.amax (.ofCode (fld w 17 5)) (.ofCode (fld w 10 7)) (.ofCode (fld w 0 6))))
  | 3 => destE w (.ok (.dot4 (.ofCode (fld w 17 5)) (.ofCode (fld w 10 7)) (.ofCode (fld w 7 3)) (.ofCode (fld w 0 6))))
  | 4 => destE w (.ok (.dot4Sc (.ofCode (fld w 17 5)) (.ofCode (fld w 10 7)) (.ofCode (fld w 7 3)) (.ofCode (fld w 0 6))))
  | 5 => unused (fld w 0 10 == 0 && fld w 19 3 == 0) (.fmtw (Fin.ofNat 4 (fld w 17 2)) (.ofCode (fld w 10 7)))
  | 6 => dest w (unused (fld w 7 10 == 0 && fld w 19 3 == 0) (.fmtr (Fin.ofNat 4 (fld w 17 2)) (.ofCode (fld w 0 7))))
  | 7 => unused (fld w 0 10 == 0 && fld w 17 5 == 0) (.seed (.ofCode (fld w 10 7)))
  | _ => .error .reservedFunction

/-- Major 0x0B (15 R310). -/
def decMaj0B (w : Nat) : Except Reject Instr :=
  match fld w 21 5 with
  | 0 => dest w (unused (fld w 7 7 == 0) (.qswp1 (.ofCode (fld w 14 7)) (.ofCode (fld w 0 7))))
  | 1 => dest w (unused (fld w 7 7 == 0) (.qswp2 (.ofCode (fld w 14 7)) (.ofCode (fld w 0 7))))
  | 2 => dest w (unused (fld w 7 7 == 0) (.qswp3 (.ofCode (fld w 14 7)) (.ofCode (fld w 0 7))))
  | 3 => dest w (.ok (.qbc (.ofCode (fld w 14 7)) (.ofCode (fld w 7 7)) (.ofCode (fld w 0 7))))
  | 4 => dest w (unused (fld w 7 7 == 0) (.qredAddI64 (.ofCode (fld w 14 7)) (.ofCode (fld w 0 7))))
  | 5 => dest w (unused (fld w 7 7 == 0) (.qredAddF32 (.ofCode (fld w 14 7)) (.ofCode (fld w 0 7))))
  | 6 => dest w (unused (fld w 7 7 == 0) (.qredMinI64 (.ofCode (fld w 14 7)) (.ofCode (fld w 0 7))))
  | 7 => dest w (unused (fld w 7 7 == 0) (.qredMaxI64 (.ofCode (fld w 14 7)) (.ofCode (fld w 0 7))))
  | 8 => dest w (unused (fld w 7 7 == 0) (.qredMinF32 (.ofCode (fld w 14 7)) (.ofCode (fld w 0 7))))
  | 9 => dest w (unused (fld w 7 7 == 0) (.qredMaxF32 (.ofCode (fld w 14 7)) (.ofCode (fld w 0 7))))
  | 10 => dest w (unused (fld w 7 7 == 0) (.qredAnd (.ofCode (fld w 14 7)) (.ofCode (fld w 0 7))))
  | 11 => dest w (unused (fld w 7 7 == 0) (.qredOr (.ofCode (fld w 14 7)) (.ofCode (fld w 0 7))))
  | 12 => dest w (.ok (.shflIdx (.ofCode (fld w 14 7)) (.ofCode (fld w 7 7)) (.ofCode (fld w 0 7))))
  | 13 => dest w (.ok (.shflUp (.ofCode (fld w 14 7)) (.ofCode (fld w 7 7)) (.ofCode (fld w 0 7))))
  | 14 => dest w (.ok (.shflDn (.ofCode (fld w 14 7)) (.ofCode (fld w 7 7)) (.ofCode (fld w 0 7))))
  | 15 => dest w (.ok (.shflXor (.ofCode (fld w 14 7)) (.ofCode (fld w 7 7)) (.ofCode (fld w 0 7))))
  | 16 => dest w (unused (fld w 7 7 == 0) (.gredAddI64 (.ofCode (fld w 14 7)) (.ofCode (fld w 0 7))))
  | 17 => dest w (unused (fld w 7 7 == 0) (.gredAddF32 (.ofCode (fld w 14 7)) (.ofCode (fld w 0 7))))
  | 18 => dest w (unused (fld w 7 7 == 0) (.gredMinI64 (.ofCode (fld w 14 7)) (.ofCode (fld w 0 7))))
  | 19 => dest w (unused (fld w 7 7 == 0) (.gredMaxI64 (.ofCode (fld w 14 7)) (.ofCode (fld w 0 7))))
  | 20 => dest w (unused (fld w 7 7 == 0) (.gredMinF32 (.ofCode (fld w 14 7)) (.ofCode (fld w 0 7))))
  | 21 => dest w (unused (fld w 7 7 == 0) (.gredMaxF32 (.ofCode (fld w 14 7)) (.ofCode (fld w 0 7))))
  | 22 => dest w (unused (fld w 7 7 == 0) (.gredAnd (.ofCode (fld w 14 7)) (.ofCode (fld w 0 7))))
  | 23 => dest w (unused (fld w 7 7 == 0) (.gredOr (.ofCode (fld w 14 7)) (.ofCode (fld w 0 7))))
  | 24 => dest w (unused (fld w 7 7 == 0) (.gscanAddI64 (.ofCode (fld w 14 7)) (.ofCode (fld w 0 7))))
  | 25 => dest w (unused (fld w 7 7 == 0) (.gscanAddF32 (.ofCode (fld w 14 7)) (.ofCode (fld w 0 7))))
  | 26 => dest w (unused (fld w 7 7 == 0) (.gscanMaxI64 (.ofCode (fld w 14 7)) (.ofCode (fld w 0 7))))
  | 27 => dest w (unused (fld w 7 7 == 0) (.gscanMaxF32 (.ofCode (fld w 14 7)) (.ofCode (fld w 0 7))))
  | _ => .error .reservedFunction

/-- Major 0x0C (15 R310). -/
def decMaj0C (w : Nat) : Except Reject Instr :=
  match fld w 22 4 with
  | 0 => dest w (.ok (.ldI8 (Fin.ofNat 8 (fld w 19 3)) (fld w 18 1 == 1) (.ofCode (fld w 11 7)) (BitVec.ofNat 4 (fld w 7 4)) (.ofCode (fld w 0 7))))
  | 1 => dest w (.ok (.ldI16 (Fin.ofNat 8 (fld w 19 3)) (fld w 18 1 == 1) (.ofCode (fld w 11 7)) (BitVec.ofNat 4 (fld w 7 4)) (.ofCode (fld w 0 7))))
  | 2 => dest w (.ok (.ldI32 (Fin.ofNat 8 (fld w 19 3)) (fld w 18 1 == 1) (.ofCode (fld w 11 7)) (BitVec.ofNat 4 (fld w 7 4)) (.ofCode (fld w 0 7))))
  | 3 => dest w (.ok (.ldW8 (Fin.ofNat 8 (fld w 19 3)) (fld w 18 1 == 1) (.ofCode (fld w 11 7)) (BitVec.ofNat 4 (fld w 7 4)) (.ofCode (fld w 0 7))))
  | 4 => dest w (.ok (.ldW16 (Fin.ofNat 8 (fld w 19 3)) (fld w 18 1 == 1) (.ofCode (fld w 11 7)) (BitVec.ofNat 4 (fld w 7 4)) (.ofCode (fld w 0 7))))
  | 5 => dest w (.ok (.ldW32 (Fin.ofNat 8 (fld w 19 3)) (fld w 18 1 == 1) (.ofCode (fld w 11 7)) (BitVec.ofNat 4 (fld w 7 4)) (.ofCode (fld w 0 7))))
  | 6 => dest w (.ok (.ldB64 (Fin.ofNat 8 (fld w 19 3)) (fld w 18 1 == 1) (.ofCode (fld w 11 7)) (BitVec.ofNat 4 (fld w 7 4)) (.ofCode (fld w 0 7))))
  | 7 => unused (fld w 0 7 == 0) (.pref (Fin.ofNat 8 (fld w 19 3)) (fld w 18 1 == 1) (.ofCode (fld w 11 7)) (BitVec.ofNat 4 (fld w 7 4)))
  | _ => .error .reservedFunction

/-- Major 0x0D (15 R310). -/
def decMaj0D (w : Nat) : Except Reject Instr :=
  match fld w 22 4 with
  | 0 => .ok (.stB8 (Fin.ofNat 8 (fld w 19 3)) (fld w 18 1 == 1) (.ofCode (fld w 11 7)) (.ofCode (fld w 4 7)) (BitVec.ofNat 4 (fld w 0 4)))
  | 1 => .ok (.stB16 (Fin.ofNat 8 (fld w 19 3)) (fld w 18 1 == 1) (.ofCode (fld w 11 7)) (.ofCode (fld w 4 7)) (BitVec.ofNat 4 (fld w 0 4)))
  | 2 => .ok (.stB32 (Fin.ofNat 8 (fld w 19 3)) (fld w 18 1 == 1) (.ofCode (fld w 11 7)) (.ofCode (fld w 4 7)) (BitVec.ofNat 4 (fld w 0 4)))
  | 3 => .ok (.stB64 (Fin.ofNat 8 (fld w 19 3)) (fld w 18 1 == 1) (.ofCode (fld w 11 7)) (.ofCode (fld w 4 7)) (BitVec.ofNat 4 (fld w 0 4)))
  | 4 => .ok (.stB128 (Fin.ofNat 8 (fld w 19 3)) (fld w 18 1 == 1) (.ofCode (fld w 11 7)) (.ofCode (fld w 4 7)) (BitVec.ofNat 4 (fld w 0 4)))
  | _ => .error .reservedFunction

/-- Major 0x0E (15 R310). -/
def decMaj0E (w : Nat) : Except Reject Instr :=
  match fld w 21 5 with
  | 0 => unused (fld w 0 3 == 0) (.atomAdd (Fin.ofNat 8 (fld w 18 3)) (fld w 17 1 == 1) (.ofCode (fld w 10 7)) (.ofCode (fld w 3 7)))
  | 1 => unused (fld w 0 3 == 0) (.atomAnd (Fin.ofNat 8 (fld w 18 3)) (fld w 17 1 == 1) (.ofCode (fld w 10 7)) (.ofCode (fld w 3 7)))
  | 2 => unused (fld w 0 3 == 0) (.atomOr (Fin.ofNat 8 (fld w 18 3)) (fld w 17 1 == 1) (.ofCode (fld w 10 7)) (.ofCode (fld w 3 7)))
  | 3 => unused (fld w 0 3 == 0) (.atomXor (Fin.ofNat 8 (fld w 18 3)) (fld w 17 1 == 1) (.ofCode (fld w 10 7)) (.ofCode (fld w 3 7)))
  | 4 => unused (fld w 0 3 == 0) (.atomMinI32 (Fin.ofNat 8 (fld w 18 3)) (fld w 17 1 == 1) (.ofCode (fld w 10 7)) (.ofCode (fld w 3 7)))
  | 5 => unused (fld w 0 3 == 0) (.atomMaxI32 (Fin.ofNat 8 (fld w 18 3)) (fld w 17 1 == 1) (.ofCode (fld w 10 7)) (.ofCode (fld w 3 7)))
  | 6 => unused (fld w 0 3 == 0) (.atomMinW32 (Fin.ofNat 8 (fld w 18 3)) (fld w 17 1 == 1) (.ofCode (fld w 10 7)) (.ofCode (fld w 3 7)))
  | 7 => unused (fld w 0 3 == 0) (.atomMaxW32 (Fin.ofNat 8 (fld w 18 3)) (fld w 17 1 == 1) (.ofCode (fld w 10 7)) (.ofCode (fld w 3 7)))
  | 8 => unused (fld w 0 3 == 0) (.atomMinF32 (Fin.ofNat 8 (fld w 18 3)) (fld w 17 1 == 1) (.ofCode (fld w 10 7)) (.ofCode (fld w 3 7)))
  | 9 => unused (fld w 0 3 == 0) (.atomMaxF32 (Fin.ofNat 8 (fld w 18 3)) (fld w 17 1 == 1) (.ofCode (fld w 10 7)) (.ofCode (fld w 3 7)))
  | 10 => unused (fld w 0 3 == 0) (.atomAddF32 (Fin.ofNat 8 (fld w 18 3)) (fld w 17 1 == 1) (.ofCode (fld w 10 7)) (.ofCode (fld w 3 7)))
  | 11 => unused (fld w 0 3 == 0) (.atomExch (Fin.ofNat 8 (fld w 18 3)) (fld w 17 1 == 1) (.ofCode (fld w 10 7)) (.ofCode (fld w 3 7)))
  | 12 => .ok (.cas (Fin.ofNat 8 (fld w 18 3)) (fld w 17 1 == 1) (.ofCode (fld w 10 7)) (.ofCode (fld w 3 7)) (Fin.ofNat 8 (fld w 0 3)))
  | 16 => unused (fld w 0 3 == 0) (.redAdd (Fin.ofNat 8 (fld w 18 3)) (fld w 17 1 == 1) (.ofCode (fld w 10 7)) (.ofCode (fld w 3 7)))
  | 17 => unused (fld w 0 3 == 0) (.redAnd (Fin.ofNat 8 (fld w 18 3)) (fld w 17 1 == 1) (.ofCode (fld w 10 7)) (.ofCode (fld w 3 7)))
  | 18 => unused (fld w 0 3 == 0) (.redOr (Fin.ofNat 8 (fld w 18 3)) (fld w 17 1 == 1) (.ofCode (fld w 10 7)) (.ofCode (fld w 3 7)))
  | 19 => unused (fld w 0 3 == 0) (.redXor (Fin.ofNat 8 (fld w 18 3)) (fld w 17 1 == 1) (.ofCode (fld w 10 7)) (.ofCode (fld w 3 7)))
  | 20 => unused (fld w 0 3 == 0) (.redMinI32 (Fin.ofNat 8 (fld w 18 3)) (fld w 17 1 == 1) (.ofCode (fld w 10 7)) (.ofCode (fld w 3 7)))
  | 21 => unused (fld w 0 3 == 0) (.redMaxI32 (Fin.ofNat 8 (fld w 18 3)) (fld w 17 1 == 1) (.ofCode (fld w 10 7)) (.ofCode (fld w 3 7)))
  | 22 => unused (fld w 0 3 == 0) (.redMinW32 (Fin.ofNat 8 (fld w 18 3)) (fld w 17 1 == 1) (.ofCode (fld w 10 7)) (.ofCode (fld w 3 7)))
  | 23 => unused (fld w 0 3 == 0) (.redMaxW32 (Fin.ofNat 8 (fld w 18 3)) (fld w 17 1 == 1) (.ofCode (fld w 10 7)) (.ofCode (fld w 3 7)))
  | 24 => unused (fld w 0 3 == 0) (.redMinF32 (Fin.ofNat 8 (fld w 18 3)) (fld w 17 1 == 1) (.ofCode (fld w 10 7)) (.ofCode (fld w 3 7)))
  | 25 => unused (fld w 0 3 == 0) (.redMaxF32 (Fin.ofNat 8 (fld w 18 3)) (fld w 17 1 == 1) (.ofCode (fld w 10 7)) (.ofCode (fld w 3 7)))
  | 26 => unused (fld w 0 3 == 0) (.redAddF32 (Fin.ofNat 8 (fld w 18 3)) (fld w 17 1 == 1) (.ofCode (fld w 10 7)) (.ofCode (fld w 3 7)))
  | _ => .error .reservedFunction

/-- Major 0x0F (15 R310). -/
def decMaj0F (w : Nat) : Except Reject Instr :=
  match fld w 23 3 with
  | 0 => unused (fld w 0 12 == 0) (.wld (Fin.ofNat 8 (fld w 20 3)) (fld w 19 1 == 1) (.ofCode (fld w 12 7)))
  | 1 => unused (fld w 0 5 == 0) (.wlds (Fin.ofNat 8 (fld w 20 3)) (fld w 19 1 == 1) (.ofCode (fld w 12 7)) (.ofCode (fld w 5 7)))
  | 2 => unused (fld w 0 5 == 0) (.wst (Fin.ofNat 8 (fld w 20 3)) (fld w 19 1 == 1) (.ofCode (fld w 12 7)) (.ofCode (fld w 5 7)))
  | 3 => .ok (.watom (Fin.ofNat 8 (fld w 20 3)) (fld w 19 1 == 1) (.ofCode (fld w 12 7)) (.ofCode (fld w 5 7)) (Fin.ofNat 32 (fld w 0 5)))
  | _ => .error .reservedFunction

/-- Major 0x10 (15 R310). -/
def decMaj10 (w : Nat) : Except Reject Instr :=
  match fld w 23 3 with
  | 0 => unused (fld w 0 19 == 0) (.fence (Fin.ofNat 8 (fld w 20 3)) (fld w 19 1 == 1))
  | 1 => unused (fld w 0 12 == 0) (.mpol (Fin.ofNat 8 (fld w 20 3)) (fld w 19 1 == 1) (.ofCode (fld w 12 7)))
  | 2 => unused (fld w 0 5 == 0) (.cctl (Fin.ofNat 8 (fld w 20 3)) (fld w 19 1 == 1) (.ofCode (fld w 12 7)) (.ofCode (fld w 5 7)))
  | 3 => unused (fld w 0 5 == 0) (.mcst (Fin.ofNat 8 (fld w 20 3)) (fld w 19 1 == 1) (.ofCode (fld w 12 7)) (.ofCode (fld w 5 7)))
  | 4 => unused (fld w 0 12 == 0) (.pchk (Fin.ofNat 8 (fld w 20 3)) (fld w 19 1 == 1) (.ofCode (fld w 12 7)))
  | _ => .error .reservedFunction

/-- Major 0x11 (15 R310). -/
def decMaj11 (w : Nat) : Except Reject Instr :=
  match fld w 22 4 with
  | 0 => unused (fld w 0 11 == 0) (.binit (Fin.ofNat 16 (fld w 18 4)) (.ofCode (fld w 11 7)))
  | 1 => unused (fld w 0 18 == 0) (.barv (Fin.ofNat 16 (fld w 18 4)))
  | 2 => unused (fld w 0 18 == 0) (.barw (Fin.ofNat 16 (fld w 18 4)))
  | 3 => unused (fld w 0 18 == 0) (.bdrop (Fin.ofNat 16 (fld w 18 4)))
  | 4 => unused (fld w 0 11 == 0) (.bwait (Fin.ofNat 16 (fld w 18 4)) (.ofCode (fld w 11 7)))
  | 5 => unused (fld w 0 11 == 0) (.btest (Fin.ofNat 16 (fld w 18 4)) (.ofCode (fld w 11 7)))
  | 6 => unused (fld w 0 18 == 0) (.bphase (Fin.ofNat 16 (fld w 18 4)))
  | 7 => unused (fld w 0 22 == 0) (.cbar)
  | 8 => unused (fld w 0 22 == 0) (.gbar)
  | _ => .error .reservedFunction

/-- Major 0x12 (15 R310). -/
def decMaj12 (w : Nat) : Except Reject Instr :=
  match fld w 24 2 with
  | 0 => unused (fld w 0 3 == 0) (.cpld (Fin.ofNat 32 (fld w 19 5)) (Fin.ofNat 16 (fld w 15 4)) (fld w 14 1 == 1) (fld w 13 1 == 1) (Fin.ofNat 8 (fld w 10 3)) (.ofCode (fld w 3 7)))
  | 1 => unused (fld w 0 3 == 0) (.cpst (Fin.ofNat 32 (fld w 19 5)) (Fin.ofNat 16 (fld w 15 4)) (fld w 14 1 == 1) (fld w 13 1 == 1) (Fin.ofNat 8 (fld w 10 3)) (.ofCode (fld w 3 7)))
  | 2 => unused (fld w 0 3 == 0 && fld w 19 5 == 0) (.cpfill (Fin.ofNat 16 (fld w 15 4)) (fld w 14 1 == 1) (fld w 13 1 == 1) (Fin.ofNat 8 (fld w 10 3)) (.ofCode (fld w 3 7)))
  | _ => .error .reservedFunction

/-- Major 0x13 (15 R310). -/
def decMaj13 (w : Nat) : Except Reject Instr :=
  match fld w 23 3 with
  | 0 => unused (fld w 0 8 == 0) (.tmma (Fin.ofNat 16 (fld w 19 4)) (fld w 18 1 == 1) (Fin.ofNat 32 (fld w 13 5)) (Fin.ofNat 4 (fld w 11 2)) (Fin.ofNat 8 (fld w 8 3)))
  | 1 => unused (fld w 6 2 == 0) (.tmmaSc (Fin.ofNat 16 (fld w 19 4)) (fld w 18 1 == 1) (Fin.ofNat 32 (fld w 13 5)) (Fin.ofNat 4 (fld w 11 2)) (Fin.ofNat 8 (fld w 8 3)) (BitVec.ofNat 6 (fld w 0 6)))
  | 2 => unused (fld w 2 6 == 0) (.tmms (Fin.ofNat 16 (fld w 19 4)) (fld w 18 1 == 1) (Fin.ofNat 32 (fld w 13 5)) (Fin.ofNat 4 (fld w 11 2)) (Fin.ofNat 8 (fld w 8 3)) (Fin.ofNat 4 (fld w 0 2)))
  | 3 => unused (fld w 0 13 == 0) (.tzero (Fin.ofNat 16 (fld w 19 4)) (fld w 18 1 == 1) (Fin.ofNat 32 (fld w 13 5)))
  | 4 => unused (fld w 0 11 == 0) (.tlda (Fin.ofNat 16 (fld w 19 4)) (fld w 18 1 == 1) (Fin.ofNat 32 (fld w 13 5)) (Fin.ofNat 4 (fld w 11 2)))
  | 5 => unused (fld w 0 8 == 0) (.tdrain (Fin.ofNat 16 (fld w 19 4)) (fld w 18 1 == 1) (Fin.ofNat 32 (fld w 13 5)) (Fin.ofNat 4 (fld w 11 2)) (Fin.ofNat 8 (fld w 8 3)))
  | 6 => unused (fld w 0 18 == 0) (.tshape (Fin.ofNat 16 (fld w 19 4)) (fld w 18 1 == 1))
  | _ => .error .reservedFunction

/-- Major 0x14 (15 R310). -/
def decMaj14 (w : Nat) : Except Reject Instr :=
  match fld w 23 3 with
  | 0 => unused (fld w 8 6 == 0 && fld w 18 5 == 0) (.zset (Fin.ofNat 16 (fld w 14 4)) (fld w 7 1 == 1) (.ofCode (fld w 0 7)))
  | 1 => unused (fld w 0 7 == 0 && fld w 22 1 == 0) (.zlog (Fin.ofNat 16 (fld w 18 4)) (Fin.ofNat 16 (fld w 14 4)) (Fin.ofNat 16 (fld w 10 4)) (Fin.ofNat 4 (fld w 8 2)) (fld w 7 1 == 1))
  | 2 => unused (fld w 0 7 == 0 && fld w 8 6 == 0 && fld w 18 5 == 0) (.ztst (Fin.ofNat 16 (fld w 14 4)) (fld w 7 1 == 1))
  | 3 => unused (fld w 8 10 == 0) (.hld (Fin.ofNat 32 (fld w 18 5)) (fld w 7 1 == 1) (.ofCode (fld w 0 7)))
  | 4 => unused (fld w 8 6 == 0) (.hset (Fin.ofNat 32 (fld w 18 5)) (Fin.ofNat 16 (fld w 14 4)) (fld w 7 1 == 1) (.ofCode (fld w 0 7)))
  | 5 => unused (fld w 0 7 == 0 && fld w 8 6 == 0) (.hrd (Fin.ofNat 32 (fld w 18 5)) (Fin.ofNat 16 (fld w 14 4)) (fld w 7 1 == 1))
  | _ => .error .reservedFunction

/-- Major 0x15 (15 R310). -/
def decMaj15 (w : Nat) : Except Reject Instr :=
  match fld w 23 3 with
  | 0 => unused (fld w 0 2 == 0 && fld w 17 6 == 0) (.apgo (fld w 16 1 == 1) (.ofCode (fld w 9 7)) (.ofCode (fld w 2 7)))
  | 1 => .ok (.gath (Fin.ofNat 8 (fld w 20 3)) (Fin.ofNat 8 (fld w 17 3)) (fld w 16 1 == 1) (.ofCode (fld w 9 7)) (.ofCode (fld w 2 7)) (fld w 1 1 == 1) (fld w 0 1 == 1))
  | 2 => unused (fld w 1 1 == 0) (.scat (Fin.ofNat 8 (fld w 20 3)) (Fin.ofNat 8 (fld w 17 3)) (fld w 16 1 == 1) (.ofCode (fld w 9 7)) (.ofCode (fld w 2 7)) (fld w 0 1 == 1))
  | 3 => unused (fld w 0 2 == 0 && fld w 17 3 == 0) (.dqsend (Fin.ofNat 8 (fld w 20 3)) (fld w 16 1 == 1) (.ofCode (fld w 9 7)) (.ofCode (fld w 2 7)))
  | 4 => unused (fld w 0 16 == 0 && fld w 17 3 == 0) (.dqcnt (Fin.ofNat 8 (fld w 20 3)) (fld w 16 1 == 1))
  | 5 => unused (fld w 0 16 == 0 && fld w 17 3 == 0) (.gvalid (Fin.ofNat 8 (fld w 20 3)) (fld w 16 1 == 1))
  | 6 => unused (fld w 0 16 == 0 && fld w 17 6 == 0) (.apwait (fld w 16 1 == 1))
  | _ => .error .reservedFunction

/-- Major 0x16 (15 R310). -/
def decMaj16 (w : Nat) : Except Reject Instr :=
  match fld w 23 3 with
  | 0 => unused (fld w 0 8 == 0) (.chrun (Fin.ofNat 16 (fld w 19 4)) (fld w 18 1 == 1) (Fin.ofNat 32 (fld w 13 5)) (Fin.ofNat 4 (fld w 11 2)) (Fin.ofNat 8 (fld w 8 3)))
  | 1 => unused (fld w 0 8 == 0 && fld w 13 5 == 0 && fld w 19 4 == 0) (.chpre (fld w 18 1 == 1) (Fin.ofNat 4 (fld w 11 2)) (Fin.ofNat 8 (fld w 8 3)))
  | 2 => unused (fld w 8 3 == 0 && fld w 13 5 == 0 && fld w 19 4 == 0) (.chinv (fld w 18 1 == 1) (Fin.ofNat 4 (fld w 11 2)) (BitVec.ofNat 8 (fld w 0 8)))
  | 3 => unused (fld w 0 8 == 0 && fld w 13 5 == 0 && fld w 19 4 == 0) (.chrd (fld w 18 1 == 1) (Fin.ofNat 4 (fld w 11 2)) (Fin.ofNat 8 (fld w 8 3)))
  | _ => .error .reservedFunction

/-- Major 0x17 (15 R310). -/
def decMaj17 (w : Nat) : Except Reject Instr :=
  match fld w 23 3 with
  | 0 => unused (fld w 0 12 == 0) (.coll (Fin.ofNat 8 (fld w 20 3)) (fld w 19 1 == 1) (.ofCode (fld w 12 7)))
  | 1 => unused (fld w 0 12 == 0) (.collst (Fin.ofNat 8 (fld w 20 3)) (fld w 19 1 == 1) (.ofCode (fld w 12 7)))
  | _ => .error .reservedFunction

/-- Major 0x18 (15 R310). -/
def decMaj18 (w : Nat) : Except Reject Instr :=
  match fld w 23 3 with
  | 0 => unused (fld w 0 12 == 0) (.plc (Fin.ofNat 8 (fld w 20 3)) (fld w 19 1 == 1) (.ofCode (fld w 12 7)))
  | 1 => unused (fld w 0 19 == 0 && fld w 20 3 == 0) (.plfence (fld w 19 1 == 1))
  | _ => .error .reservedFunction

/-- Major 0x19 (15 R310). -/
def decMaj19 (w : Nat) : Except Reject Instr :=
  match fld w 22 4 with
  | 0 => unused (fld w 0 15 == 0) (.launch (.ofCode (fld w 15 7)))
  | 1 => unused (fld w 0 15 == 0) (.launchw (.ofCode (fld w 15 7)))
  | 2 => .ok (.lstat (.ofCode (fld w 15 7)) (BitVec.ofNat 15 (fld w 0 15)))
  | _ => .error .reservedFunction

/-- Major 0x1A (15 R310). -/
def decMaj1A (w : Nat) : Except Reject Instr :=
  match fld w 22 4 with
  | 0 => unused (fld w 0 22 == 0) (.castb)
  | 1 => unused (fld w 0 22 == 0) (.castc)
  | 2 => unused (fld w 0 22 == 0) (.castq)
  | 3 => unused (fld w 0 15 == 0) (.errq (.ofCode (fld w 15 7)))
  | _ => .error .reservedFunction

/-- Major 0x1B (15 R310). -/
def decMaj1B (w : Nat) : Except Reject Instr :=
  match fld w 22 4 with
  | 0 => unused (fld w 15 7 == 0) (.sysrd (BitVec.ofNat 15 (fld w 0 15)))
  | 1 => .ok (.syswr (.ofCode (fld w 15 7)) (BitVec.ofNat 15 (fld w 0 15)))
  | 2 => .ok (.tlbinv (.ofCode (fld w 15 7)) (BitVec.ofNat 15 (fld w 0 15)))
  | 3 => unused (fld w 15 7 == 0) (.trapret (BitVec.ofNat 15 (fld w 0 15)))
  | 4 => unused (fld w 15 7 == 0) (.wearrd (BitVec.ofNat 15 (fld w 0 15)))
  | 5 => unused (fld w 0 22 == 0) (.halt)
  | _ => .error .reservedFunction

/-- The instruction that a word names before its field rules are checked: the major opcode selects the format (15 R310).
The chain bit (bit 31) is not read. -/
def decodeRaw (w : Nat) : Except Reject Instr :=
  match fld w 26 5 with
  | 1 => decMaj01 w
  | 2 => decMaj02 w
  | 3 => decMaj03 w
  | 4 => decMaj04 w
  | 5 => decMaj05 w
  | 6 => decMaj06 w
  | 7 => decMaj07 w
  | 8 => decMaj08 w
  | 9 => decMaj09 w
  | 10 => decMaj0A w
  | 11 => decMaj0B w
  | 12 => decMaj0C w
  | 13 => decMaj0D w
  | 14 => decMaj0E w
  | 15 => decMaj0F w
  | 16 => decMaj10 w
  | 17 => decMaj11 w
  | 18 => decMaj12 w
  | 19 => decMaj13 w
  | 20 => decMaj14 w
  | 21 => decMaj15 w
  | 22 => decMaj16 w
  | 23 => decMaj17 w
  | 24 => decMaj18 w
  | 25 => decMaj19 w
  | 26 => decMaj1A w
  | 27 => decMaj1B w
  | _ => .error .reservedMajor

/-- The instruction of a word, or the rule that the word breaks (15 R321, R322).
DEDUCED, unsafe: notes/assumptions/42.md. -/
def decode (w : Nat) : Except Reject Instr :=
  match decodeRaw w with
  | .error r => .error r
  | .ok i =>
    match check i with
    | some r => .error r
    | none => .ok i

/-- The word of an encoded instruction, without its chain bit (14 R296; 15 R310 to R320); none for an operation that
has no encoding. -/
def encode : Instr → Option Nat
  | .bra slot off => some (0x04000000 + slot.val * 65536 + off.toNat)
  | .brp p neg slot off => some (0x04400000 + p.val * 524288 + neg.toNat * 262144 + slot.val * 65536 + off.toNat)
  | .call slot off => some (0x04800000 + slot.val * 65536 + off.toNat)
  | .brx sa => some (0x04C00000 + sa.code * 32768)
  | .callx sa => some (0x05000000 + sa.code * 32768)
  | .ret sa => some (0x05400000 + sa.code * 32768)
  | .join => some (0x05800000)
  | .conv => some (0x05C00000)
  | .yield => some (0x06000000)
  | .exit => some (0x06400000)
  | .trapi imm => some (0x06800000 + imm.toNat)
  | .nop => some (0x06C00000)
  | .movi imm d => some (0x08000000 + imm.toNat * 128 + d.code)
  | .movh1 imm d => some (0x08800000 + imm.toNat * 128 + d.code)
  | .movh2 imm d => some (0x09000000 + imm.toNat * 128 + d.code)
  | .movh3 imm d => some (0x09800000 + imm.toNat * 128 + d.code)
  | .put sa d => some (0x0A000000 + sa.code * 65536 + d.code)
  | .sel sa sb p d => some (0x0A800000 + sa.code * 65536 + sb.code * 2048 + p.val * 256 + d.code)
  | .xacq k => some (0x0B000000 + k.val * 256)
  | .xrel k => some (0x0B800000 + k.val * 256)
  | .iadd sa sb d => some (0x0C000000 + sa.code * 16384 + sb.code * 128 + d.code)
  | .isub sa sb d => some (0x0C200000 + sa.code * 16384 + sb.code * 128 + d.code)
  | .imul sa sb d => some (0x0C400000 + sa.code * 16384 + sb.code * 128 + d.code)
  | .imulhI64 sa sb d => some (0x0C600000 + sa.code * 16384 + sb.code * 128 + d.code)
  | .imulhW64 sa sb d => some (0x0C800000 + sa.code * 16384 + sb.code * 128 + d.code)
  | .imad sa sb d => some (0x0CA00040 + sa.code * 16384 + sb.code * 128 + d.code)
  | .idivI64 sa sb d => some (0x0CC00000 + sa.code * 16384 + sb.code * 128 + d.code)
  | .idivW64 sa sb d => some (0x0CE00000 + sa.code * 16384 + sb.code * 128 + d.code)
  | .iremI64 sa sb d => some (0x0D000000 + sa.code * 16384 + sb.code * 128 + d.code)
  | .iremW64 sa sb d => some (0x0D200000 + sa.code * 16384 + sb.code * 128 + d.code)
  | .iminI64 sa sb d => some (0x0D400000 + sa.code * 16384 + sb.code * 128 + d.code)
  | .iminW64 sa sb d => some (0x0D600000 + sa.code * 16384 + sb.code * 128 + d.code)
  | .imaxI64 sa sb d => some (0x0D800000 + sa.code * 16384 + sb.code * 128 + d.code)
  | .imaxW64 sa sb d => some (0x0DA00000 + sa.code * 16384 + sb.code * 128 + d.code)
  | .iabs sa d => some (0x0DC00000 + sa.code * 16384 + d.code)
  | .ilogAnd sa sb d => some (0x0DE00000 + sa.code * 16384 + sb.code * 128 + d.code)
  | .ilogOr sa sb d => some (0x0E000000 + sa.code * 16384 + sb.code * 128 + d.code)
  | .ilogXor sa sb d => some (0x0E200000 + sa.code * 16384 + sb.code * 128 + d.code)
  | .ilogAndn sa sb d => some (0x0E400000 + sa.code * 16384 + sb.code * 128 + d.code)
  | .ishfShl sa sb d => some (0x0E600000 + sa.code * 16384 + sb.code * 128 + d.code)
  | .ishfShr sa sb d => some (0x0E800000 + sa.code * 16384 + sb.code * 128 + d.code)
  | .ishfSar sa sb d => some (0x0EA00000 + sa.code * 16384 + sb.code * 128 + d.code)
  | .ishfRol sa sb d => some (0x0EC00000 + sa.code * 16384 + sb.code * 128 + d.code)
  | .lea sa sb d => some (0x0EE00000 + sa.code * 16384 + sb.code * 128 + d.code)
  | .ibitPopc sa d => some (0x0F000000 + sa.code * 16384 + d.code)
  | .ibitClz sa d => some (0x0F200000 + sa.code * 16384 + d.code)
  | .ibitCtz sa d => some (0x0F400000 + sa.code * 16384 + d.code)
  | .ibitBrev sa d => some (0x0F600000 + sa.code * 16384 + d.code)
  | .bfxI64 sa sb d => some (0x0F800000 + sa.code * 16384 + sb.code * 128 + d.code)
  | .bfxW64 sa sb d => some (0x0FA00000 + sa.code * 16384 + sb.code * 128 + d.code)
  | .bfi sa sb d => some (0x0FC00040 + sa.code * 16384 + sb.code * 128 + d.code)
  | .iaddi sa imm d => some (0x10000000 + sa.code * 32768 + imm.toNat * 128 + d.code)
  | .ilogiAnd sa imm d => some (0x10400000 + sa.code * 32768 + imm.toNat * 128 + d.code)
  | .ilogiOr sa imm d => some (0x10800000 + sa.code * 32768 + imm.toNat * 128 + d.code)
  | .ilogiXor sa imm d => some (0x10C00000 + sa.code * 32768 + imm.toNat * 128 + d.code)
  | .ilogiAndn sa imm d => some (0x11000000 + sa.code * 32768 + imm.toNat * 128 + d.code)
  | .ishfiShl sa imm d => some (0x11400000 + sa.code * 32768 + imm.toNat * 128 + d.code)
  | .ishfiShr sa imm d => some (0x11800000 + sa.code * 32768 + imm.toNat * 128 + d.code)
  | .ishfiSar sa imm d => some (0x11C00000 + sa.code * 32768 + imm.toNat * 128 + d.code)
  | .ishfiRol sa imm d => some (0x12000000 + sa.code * 32768 + imm.toNat * 128 + d.code)
  | .iext sa imm d => some (0x12400000 + sa.code * 32768 + imm.toNat * 128 + d.code)
  | .icmpEq sa sb ps pd => some (0x14000000 + sa.code * 16384 + sb.code * 128 + ps.val * 16 + pd.val)
  | .icmpNe sa sb ps pd => some (0x14200000 + sa.code * 16384 + sb.code * 128 + ps.val * 16 + pd.val)
  | .icmpLtI64 sa sb ps pd => some (0x14400000 + sa.code * 16384 + sb.code * 128 + ps.val * 16 + pd.val)
  | .icmpLeI64 sa sb ps pd => some (0x14600000 + sa.code * 16384 + sb.code * 128 + ps.val * 16 + pd.val)
  | .icmpLtW64 sa sb ps pd => some (0x14800000 + sa.code * 16384 + sb.code * 128 + ps.val * 16 + pd.val)
  | .icmpLeW64 sa sb ps pd => some (0x14A00000 + sa.code * 16384 + sb.code * 128 + ps.val * 16 + pd.val)
  | .fcmpEqF32 sa sb ps pd => some (0x15000000 + sa.code * 16384 + sb.code * 128 + ps.val * 16 + pd.val)
  | .fcmpNeF32 sa sb ps pd => some (0x15200000 + sa.code * 16384 + sb.code * 128 + ps.val * 16 + pd.val)
  | .fcmpLtF32 sa sb ps pd => some (0x15400000 + sa.code * 16384 + sb.code * 128 + ps.val * 16 + pd.val)
  | .fcmpLeF32 sa sb ps pd => some (0x15600000 + sa.code * 16384 + sb.code * 128 + ps.val * 16 + pd.val)
  | .fcmpUnF32 sa sb ps pd => some (0x15800000 + sa.code * 16384 + sb.code * 128 + ps.val * 16 + pd.val)
  | .fcmpEqF64 sa sb ps pd => some (0x15A00000 + sa.code * 16384 + sb.code * 128 + ps.val * 16 + pd.val)
  | .fcmpNeF64 sa sb ps pd => some (0x15C00000 + sa.code * 16384 + sb.code * 128 + ps.val * 16 + pd.val)
  | .fcmpLtF64 sa sb ps pd => some (0x15E00000 + sa.code * 16384 + sb.code * 128 + ps.val * 16 + pd.val)
  | .fcmpLeF64 sa sb ps pd => some (0x16000000 + sa.code * 16384 + sb.code * 128 + ps.val * 16 + pd.val)
  | .fcmpUnF64 sa sb ps pd => some (0x16200000 + sa.code * 16384 + sb.code * 128 + ps.val * 16 + pd.val)
  | .plogAnd pa ps pd => some (0x16400000 + pa.val * 16384 + ps.val * 16 + pd.val)
  | .plogOr pa ps pd => some (0x16600000 + pa.val * 16384 + ps.val * 16 + pd.val)
  | .plogXor pa ps pd => some (0x16800000 + pa.val * 16384 + ps.val * 16 + pd.val)
  | .plogAndn pa ps pd => some (0x16A00000 + pa.val * 16384 + ps.val * 16 + pd.val)
  | .voteAny sa ps pd => some (0x16C00000 + sa.code * 16384 + ps.val * 16 + pd.val)
  | .voteAll sa ps pd => some (0x16E00000 + sa.code * 16384 + ps.val * 16 + pd.val)
  | .voteBallot sa ps => some (0x17000000 + sa.code * 16384 + ps.val * 16)
  | .pmovRp sa ps pd => some (0x17200000 + sa.code * 16384 + ps.val * 16 + pd.val)
  | .pmovPr => some (0x17400000)
  | .fadd sa sb rm d => some (0x18000000 + sa.code * 32768 + sb.code * 1024 + rm.code * 128 + d.code)
  | .fsub sa sb rm d => some (0x18400000 + sa.code * 32768 + sb.code * 1024 + rm.code * 128 + d.code)
  | .fmul sa sb rm d => some (0x18800000 + sa.code * 32768 + sb.code * 1024 + rm.code * 128 + d.code)
  | .fmin sa sb d => some (0x18C00000 + sa.code * 32768 + sb.code * 1024 + d.code)
  | .fmax sa sb d => some (0x19000000 + sa.code * 32768 + sb.code * 1024 + d.code)
  | .fsgnCp sa sb d => some (0x19400000 + sa.code * 32768 + sb.code * 1024 + d.code)
  | .fsgnCpn sa sb d => some (0x19800000 + sa.code * 32768 + sb.code * 1024 + d.code)
  | .fsgnX sa sb d => some (0x19C00000 + sa.code * 32768 + sb.code * 1024 + d.code)
  | .frnd sa rm d => some (0x1A000000 + sa.code * 32768 + rm.code * 128 + d.code)
  | .hadd2F16 sa sb rm d => some (0x1A400000 + sa.code * 32768 + sb.code * 1024 + rm.code * 128 + d.code)
  | .hadd2Bf16 sa sb rm d => some (0x1A800000 + sa.code * 32768 + sb.code * 1024 + rm.code * 128 + d.code)
  | .hmul2F16 sa sb rm d => some (0x1AC00000 + sa.code * 32768 + sb.code * 1024 + rm.code * 128 + d.code)
  | .hmul2Bf16 sa sb rm d => some (0x1B000000 + sa.code * 32768 + sb.code * 1024 + rm.code * 128 + d.code)
  | .fpctl sa d => some (0x1B400000 + sa.code * 32768 + d.code)
  | .ffma sa sb sc rm d => some (0x1C000000 + sa.code * 524288 + sb.code * 16384 + sc.code * 512 + rm.code * 128 + d.code)
  | .hfma2F16 sa sb sc rm d => some (0x1D000000 + sa.code * 524288 + sb.code * 16384 + sc.code * 512 + rm.code * 128 + d.code)
  | .hfma2Bf16 sa sb sc rm d => some (0x1E000000 + sa.code * 524288 + sb.code * 16384 + sc.code * 512 + rm.code * 128 + d.code)
  | .dfma sa sb sc rm d => some (0x20000000 + sa.code * 524288 + sb.code * 16384 + sc.code * 512 + rm.code * 128 + d.code)
  | .dadd sa sb rm d => some (0x21000000 + sa.code * 524288 + sb.code * 16384 + rm.code * 128 + d.code)
  | .dmul sa sb rm d => some (0x22000000 + sa.code * 524288 + sb.code * 16384 + rm.code * 128 + d.code)
  | .frcp sa rm d => some (0x24000000 + sa.code * 32768 + rm.code * 128 + d.code)
  | .frsq sa rm d => some (0x24400000 + sa.code * 32768 + rm.code * 128 + d.code)
  | .fsqrt sa rm d => some (0x24800000 + sa.code * 32768 + rm.code * 128 + d.code)
  | .fex2 sa rm d => some (0x24C00000 + sa.code * 32768 + rm.code * 128 + d.code)
  | .flg2 sa rm d => some (0x25000000 + sa.code * 32768 + rm.code * 128 + d.code)
  | .fsin sa rm d => some (0x25400000 + sa.code * 32768 + rm.code * 128 + d.code)
  | .fcos sa rm d => some (0x25800000 + sa.code * 32768 + rm.code * 128 + d.code)
  | .ftanh sa rm d => some (0x25C00000 + sa.code * 32768 + rm.code * 128 + d.code)
  | .cvt dty sty sa rm d => some (0x26000000 + dty.code * 1048576 + sty.code * 32768 + sa.code * 1024 + rm.code * 128 + d.code)
  | .qpack ty sa rm d => some (0x28000000 + ty.code * 131072 + sa.code * 1024 + rm.code * 128 + d.code)
  | .qunpk ty sa rm d => some (0x28400000 + ty.code * 131072 + sa.code * 1024 + rm.code * 128 + d.code)
  | .amax ty sa d => some (0x28800040 + ty.code * 131072 + sa.code * 1024 + d.code)
  | .dot4 ty sa rm d => some (0x28C00040 + ty.code * 131072 + sa.code * 1024 + rm.code * 128 + d.code)
  | .dot4Sc ty sa rm d => some (0x29000040 + ty.code * 131072 + sa.code * 1024 + rm.code * 128 + d.code)
  | .fmtw fr sa => some (0x29400000 + fr.val * 131072 + sa.code * 1024)
  | .fmtr fr d => some (0x29800000 + fr.val * 131072 + d.code)
  | .seed sa => some (0x29C00000 + sa.code * 1024)
  | .qswp1 sa d => some (0x2C000000 + sa.code * 16384 + d.code)
  | .qswp2 sa d => some (0x2C200000 + sa.code * 16384 + d.code)
  | .qswp3 sa d => some (0x2C400000 + sa.code * 16384 + d.code)
  | .qbc sa sb d => some (0x2C600000 + sa.code * 16384 + sb.code * 128 + d.code)
  | .qredAddI64 sa d => some (0x2C800000 + sa.code * 16384 + d.code)
  | .qredAddF32 sa d => some (0x2CA00000 + sa.code * 16384 + d.code)
  | .qredMinI64 sa d => some (0x2CC00000 + sa.code * 16384 + d.code)
  | .qredMaxI64 sa d => some (0x2CE00000 + sa.code * 16384 + d.code)
  | .qredMinF32 sa d => some (0x2D000000 + sa.code * 16384 + d.code)
  | .qredMaxF32 sa d => some (0x2D200000 + sa.code * 16384 + d.code)
  | .qredAnd sa d => some (0x2D400000 + sa.code * 16384 + d.code)
  | .qredOr sa d => some (0x2D600000 + sa.code * 16384 + d.code)
  | .shflIdx sa sb d => some (0x2D800000 + sa.code * 16384 + sb.code * 128 + d.code)
  | .shflUp sa sb d => some (0x2DA00000 + sa.code * 16384 + sb.code * 128 + d.code)
  | .shflDn sa sb d => some (0x2DC00000 + sa.code * 16384 + sb.code * 128 + d.code)
  | .shflXor sa sb d => some (0x2DE00000 + sa.code * 16384 + sb.code * 128 + d.code)
  | .gredAddI64 sa d => some (0x2E000000 + sa.code * 16384 + d.code)
  | .gredAddF32 sa d => some (0x2E200000 + sa.code * 16384 + d.code)
  | .gredMinI64 sa d => some (0x2E400000 + sa.code * 16384 + d.code)
  | .gredMaxI64 sa d => some (0x2E600000 + sa.code * 16384 + d.code)
  | .gredMinF32 sa d => some (0x2E800000 + sa.code * 16384 + d.code)
  | .gredMaxF32 sa d => some (0x2EA00000 + sa.code * 16384 + d.code)
  | .gredAnd sa d => some (0x2EC00000 + sa.code * 16384 + d.code)
  | .gredOr sa d => some (0x2EE00000 + sa.code * 16384 + d.code)
  | .gscanAddI64 sa d => some (0x2F000000 + sa.code * 16384 + d.code)
  | .gscanAddF32 sa d => some (0x2F200000 + sa.code * 16384 + d.code)
  | .gscanMaxI64 sa d => some (0x2F400000 + sa.code * 16384 + d.code)
  | .gscanMaxF32 sa d => some (0x2F600000 + sa.code * 16384 + d.code)
  | .ldI8 m fs sa off d => some (0x30000000 + m.val * 524288 + fs.toNat * 262144 + sa.code * 2048 + off.toNat * 128 + d.code)
  | .ldI16 m fs sa off d => some (0x30400000 + m.val * 524288 + fs.toNat * 262144 + sa.code * 2048 + off.toNat * 128 + d.code)
  | .ldI32 m fs sa off d => some (0x30800000 + m.val * 524288 + fs.toNat * 262144 + sa.code * 2048 + off.toNat * 128 + d.code)
  | .ldW8 m fs sa off d => some (0x30C00000 + m.val * 524288 + fs.toNat * 262144 + sa.code * 2048 + off.toNat * 128 + d.code)
  | .ldW16 m fs sa off d => some (0x31000000 + m.val * 524288 + fs.toNat * 262144 + sa.code * 2048 + off.toNat * 128 + d.code)
  | .ldW32 m fs sa off d => some (0x31400000 + m.val * 524288 + fs.toNat * 262144 + sa.code * 2048 + off.toNat * 128 + d.code)
  | .ldB64 m fs sa off d => some (0x31800000 + m.val * 524288 + fs.toNat * 262144 + sa.code * 2048 + off.toNat * 128 + d.code)
  | .pref m fs sa off => some (0x31C00000 + m.val * 524288 + fs.toNat * 262144 + sa.code * 2048 + off.toNat * 128)
  | .stB8 m fs sa sb off => some (0x34000000 + m.val * 524288 + fs.toNat * 262144 + sa.code * 2048 + sb.code * 16 + off.toNat)
  | .stB16 m fs sa sb off => some (0x34400000 + m.val * 524288 + fs.toNat * 262144 + sa.code * 2048 + sb.code * 16 + off.toNat)
  | .stB32 m fs sa sb off => some (0x34800000 + m.val * 524288 + fs.toNat * 262144 + sa.code * 2048 + sb.code * 16 + off.toNat)
  | .stB64 m fs sa sb off => some (0x34C00000 + m.val * 524288 + fs.toNat * 262144 + sa.code * 2048 + sb.code * 16 + off.toNat)
  | .stB128 m fs sa sb off => some (0x35000000 + m.val * 524288 + fs.toNat * 262144 + sa.code * 2048 + sb.code * 16 + off.toNat)
  | .atomAdd m fs sa sb => some (0x38000000 + m.val * 262144 + fs.toNat * 131072 + sa.code * 1024 + sb.code * 8)
  | .atomAnd m fs sa sb => some (0x38200000 + m.val * 262144 + fs.toNat * 131072 + sa.code * 1024 + sb.code * 8)
  | .atomOr m fs sa sb => some (0x38400000 + m.val * 262144 + fs.toNat * 131072 + sa.code * 1024 + sb.code * 8)
  | .atomXor m fs sa sb => some (0x38600000 + m.val * 262144 + fs.toNat * 131072 + sa.code * 1024 + sb.code * 8)
  | .atomMinI32 m fs sa sb => some (0x38800000 + m.val * 262144 + fs.toNat * 131072 + sa.code * 1024 + sb.code * 8)
  | .atomMaxI32 m fs sa sb => some (0x38A00000 + m.val * 262144 + fs.toNat * 131072 + sa.code * 1024 + sb.code * 8)
  | .atomMinW32 m fs sa sb => some (0x38C00000 + m.val * 262144 + fs.toNat * 131072 + sa.code * 1024 + sb.code * 8)
  | .atomMaxW32 m fs sa sb => some (0x38E00000 + m.val * 262144 + fs.toNat * 131072 + sa.code * 1024 + sb.code * 8)
  | .atomMinF32 m fs sa sb => some (0x39000000 + m.val * 262144 + fs.toNat * 131072 + sa.code * 1024 + sb.code * 8)
  | .atomMaxF32 m fs sa sb => some (0x39200000 + m.val * 262144 + fs.toNat * 131072 + sa.code * 1024 + sb.code * 8)
  | .atomAddF32 m fs sa sb => some (0x39400000 + m.val * 262144 + fs.toNat * 131072 + sa.code * 1024 + sb.code * 8)
  | .atomExch m fs sa sb => some (0x39600000 + m.val * 262144 + fs.toNat * 131072 + sa.code * 1024 + sb.code * 8)
  | .cas m fs sa sb qc => some (0x39800000 + m.val * 262144 + fs.toNat * 131072 + sa.code * 1024 + sb.code * 8 + qc.val)
  | .redAdd m fs sa sb => some (0x3A000000 + m.val * 262144 + fs.toNat * 131072 + sa.code * 1024 + sb.code * 8)
  | .redAnd m fs sa sb => some (0x3A200000 + m.val * 262144 + fs.toNat * 131072 + sa.code * 1024 + sb.code * 8)
  | .redOr m fs sa sb => some (0x3A400000 + m.val * 262144 + fs.toNat * 131072 + sa.code * 1024 + sb.code * 8)
  | .redXor m fs sa sb => some (0x3A600000 + m.val * 262144 + fs.toNat * 131072 + sa.code * 1024 + sb.code * 8)
  | .redMinI32 m fs sa sb => some (0x3A800000 + m.val * 262144 + fs.toNat * 131072 + sa.code * 1024 + sb.code * 8)
  | .redMaxI32 m fs sa sb => some (0x3AA00000 + m.val * 262144 + fs.toNat * 131072 + sa.code * 1024 + sb.code * 8)
  | .redMinW32 m fs sa sb => some (0x3AC00000 + m.val * 262144 + fs.toNat * 131072 + sa.code * 1024 + sb.code * 8)
  | .redMaxW32 m fs sa sb => some (0x3AE00000 + m.val * 262144 + fs.toNat * 131072 + sa.code * 1024 + sb.code * 8)
  | .redMinF32 m fs sa sb => some (0x3B000000 + m.val * 262144 + fs.toNat * 131072 + sa.code * 1024 + sb.code * 8)
  | .redMaxF32 m fs sa sb => some (0x3B200000 + m.val * 262144 + fs.toNat * 131072 + sa.code * 1024 + sb.code * 8)
  | .redAddF32 m fs sa sb => some (0x3B400000 + m.val * 262144 + fs.toNat * 131072 + sa.code * 1024 + sb.code * 8)
  | .wld m fs sa => some (0x3C000000 + m.val * 1048576 + fs.toNat * 524288 + sa.code * 4096)
  | .wlds m fs sa sb => some (0x3C800000 + m.val * 1048576 + fs.toNat * 524288 + sa.code * 4096 + sb.code * 32)
  | .wst m fs sa sb => some (0x3D000000 + m.val * 1048576 + fs.toNat * 524288 + sa.code * 4096 + sb.code * 32)
  | .watom m fs sa sb aop => some (0x3D800000 + m.val * 1048576 + fs.toNat * 524288 + sa.code * 4096 + sb.code * 32 + aop.val)
  | .fence m fs => some (0x40000000 + m.val * 1048576 + fs.toNat * 524288)
  | .mpol m fs sa => some (0x40800000 + m.val * 1048576 + fs.toNat * 524288 + sa.code * 4096)
  | .cctl m fs sa sb => some (0x41000000 + m.val * 1048576 + fs.toNat * 524288 + sa.code * 4096 + sb.code * 32)
  | .mcst m fs sa sb => some (0x41800000 + m.val * 1048576 + fs.toNat * 524288 + sa.code * 4096 + sb.code * 32)
  | .pchk m fs sa => some (0x42000000 + m.val * 1048576 + fs.toNat * 524288 + sa.code * 4096)
  | .binit b sa => some (0x44000000 + b.val * 262144 + sa.code * 2048)
  | .barv b => some (0x44400000 + b.val * 262144)
  | .barw b => some (0x44800000 + b.val * 262144)
  | .bdrop b => some (0x44C00000 + b.val * 262144)
  | .bwait b sa => some (0x45000000 + b.val * 262144 + sa.code * 2048)
  | .btest b sa => some (0x45400000 + b.val * 262144 + sa.code * 2048)
  | .bphase b => some (0x45800000 + b.val * 262144)
  | .cbar => some (0x45C00000)
  | .gbar => some (0x46000000)
  | .cpld h bar ben fs m sa => some (0x48000000 + h.val * 524288 + bar.val * 32768 + ben.toNat * 16384 + fs.toNat * 8192 + m.val * 1024 + sa.code * 8)
  | .cpst h bar ben fs m sa => some (0x49000000 + h.val * 524288 + bar.val * 32768 + ben.toNat * 16384 + fs.toNat * 8192 + m.val * 1024 + sa.code * 8)
  | .cpfill bar ben fs m sa => some (0x4A000000 + bar.val * 32768 + ben.toNat * 16384 + fs.toNat * 8192 + m.val * 1024 + sa.code * 8)
  | .tmma z fs acc hs cl => some (0x4C000000 + z.val * 524288 + fs.toNat * 262144 + acc.val * 8192 + hs.val * 2048 + cl.val * 256)
  | .tmmaSc z fs acc hs cl imm => some (0x4C800000 + z.val * 524288 + fs.toNat * 262144 + acc.val * 8192 + hs.val * 2048 + cl.val * 256 + imm.toNat)
  | .tmms z fs acc hs cl nsel => some (0x4D000000 + z.val * 524288 + fs.toNat * 262144 + acc.val * 8192 + hs.val * 2048 + cl.val * 256 + nsel.val)
  | .tzero z fs acc => some (0x4D800000 + z.val * 524288 + fs.toNat * 262144 + acc.val * 8192)
  | .tlda z fs acc hs => some (0x4E000000 + z.val * 524288 + fs.toNat * 262144 + acc.val * 8192 + hs.val * 2048)
  | .tdrain z fs acc hs cl => some (0x4E800000 + z.val * 524288 + fs.toNat * 262144 + acc.val * 8192 + hs.val * 2048 + cl.val * 256)
  | .tshape z fs => some (0x4F000000 + z.val * 524288 + fs.toNat * 262144)
  | .zset za fs sa => some (0x50000000 + za.val * 16384 + fs.toNat * 128 + sa.code)
  | .zlog k za zb op fs => some (0x50800000 + k.val * 262144 + za.val * 16384 + zb.val * 1024 + op.val * 256 + fs.toNat * 128)
  | .ztst za fs => some (0x51000000 + za.val * 16384 + fs.toNat * 128)
  | .hld k fs sa => some (0x51800000 + k.val * 262144 + fs.toNat * 128 + sa.code)
  | .hset k za fs sa => some (0x52000000 + k.val * 262144 + za.val * 16384 + fs.toNat * 128 + sa.code)
  | .hrd k za fs => some (0x52800000 + k.val * 262144 + za.val * 16384 + fs.toNat * 128)
  | .apgo fs sa sb => some (0x54000000 + fs.toNat * 65536 + sa.code * 512 + sb.code * 4)
  | .gath dq m fs sa sb sz md => some (0x54800000 + dq.val * 1048576 + m.val * 131072 + fs.toNat * 65536 + sa.code * 512 + sb.code * 4 + sz.toNat * 2 + md.toNat)
  | .scat dq m fs sa sb md => some (0x55000000 + dq.val * 1048576 + m.val * 131072 + fs.toNat * 65536 + sa.code * 512 + sb.code * 4 + md.toNat)
  | .dqsend dq fs sa sb => some (0x55800000 + dq.val * 1048576 + fs.toNat * 65536 + sa.code * 512 + sb.code * 4)
  | .dqcnt dq fs => some (0x56000000 + dq.val * 1048576 + fs.toNat * 65536)
  | .gvalid dq fs => some (0x56800000 + dq.val * 1048576 + fs.toNat * 65536)
  | .apwait fs => some (0x57000000 + fs.toNat * 65536)
  | .chrun z fs acc hs cl => some (0x58000000 + z.val * 524288 + fs.toNat * 262144 + acc.val * 8192 + hs.val * 2048 + cl.val * 256)
  | .chpre fs hs cl => some (0x58800000 + fs.toNat * 262144 + hs.val * 2048 + cl.val * 256)
  | .chinv fs hs imm => some (0x59000000 + fs.toNat * 262144 + hs.val * 2048 + imm.toNat)
  | .chrd fs hs cl => some (0x59800000 + fs.toNat * 262144 + hs.val * 2048 + cl.val * 256)
  | .coll m fs sa => some (0x5C000000 + m.val * 1048576 + fs.toNat * 524288 + sa.code * 4096)
  | .collst m fs sa => some (0x5C800000 + m.val * 1048576 + fs.toNat * 524288 + sa.code * 4096)
  | .plc m fs sa => some (0x60000000 + m.val * 1048576 + fs.toNat * 524288 + sa.code * 4096)
  | .plfence fs => some (0x60800000 + fs.toNat * 524288)
  | .launch sa => some (0x64000000 + sa.code * 32768)
  | .launchw sa => some (0x64400000 + sa.code * 32768)
  | .lstat sa imm => some (0x64800000 + sa.code * 32768 + imm.toNat)
  | .castb => some (0x68000000)
  | .castc => some (0x68400000)
  | .castq => some (0x68800000)
  | .errq sa => some (0x68C00000 + sa.code * 32768)
  | .sysrd imm => some (0x6C000000 + imm.toNat)
  | .syswr sa imm => some (0x6C400000 + sa.code * 32768 + imm.toNat)
  | .tlbinv sa imm => some (0x6C800000 + sa.code * 32768 + imm.toNat)
  | .trapret imm => some (0x6CC00000 + imm.toNat)
  | .wearrd imm => some (0x6D000000 + imm.toNat)
  | .halt => some (0x6D400000)
  | .registerWrite => none
  | .powerUp => none
  | .powerDown => none
  | .powerUpStepDone => none
  | .powerUpStepLimit => none
  | .powerDownStepDone => none
  | .junctionOvertemp => none
  | .flowLowExpiry => none
  | .startStepComplete => none
  | .patinaSample => none
  | .lifetimeTableWrite => none
  | .pwearIdxWrite => none
  | .pwearEvtRead => none
  | .flitReceive => none
  | .portLockLoss => none
  | .rdw => none
  | .rdo => none
  | .wrw => none
  | .atw => none
  | .evw => none
  | .invMsg => none
  | .mcw => none
  | .dataMsg => none
  | .doneMsg => none
  | .invack => none
  | .wbk => none
  | .peerdn => none
  | .armIdent => none
  | .linkUp => none
  | .linkDown => none
  | .linkTrainStepDone => none
  | .linkTrainStepLimit => none
  | .alnkErrRead => none
  | .agrpRetryRead => none
  | .memoryPart => none
  | .burstCycleIssue => none
  | .rowIdleClose => none
  | .refresh => none
  | .refreshWindow => none
  | .rowSwap => none
  | .patrolBurst => none
  | .scrubWriteback => none
  | .homeReadShared => none
  | .homeReadForModification => none
  | .homeWrite => none
  | .homeAtomic => none
  | .homeWriteBack => none
  | .l2Invalidation => none
  | .performAtDie => none
  | .writeApply => none
  | .mtrCalibration => none
  | .mtrCaTraining => none
  | .mtrReadDeskew => none
  | .mtrWriteDeskew => none
  | .mtrPatternTest => none
  | .mtrInitialise => none
  | .mtrPhaseEnd => none
  | .mtrPhaseLimit => none
  | .plnErrRead => none
  | .plnFqHiRead => none
  | .hostMemRead => none
  | .hostMemWrite => none
  | .hostSnoop => none
  | .birsp => none
  | .ident => none
  | .attest => none
  | .getlog => none
  | .getrec => none
  | .clralt => none
  | .setfab => none
  | .fwwrite => none
  | .raisesvn => none
  | .ctxrep => none
  | .mbxEvtHiRead => none
  | .cqSubmit => none
  | .cqNop => none
  | .ctxCreate => none
  | .ctxDestroy => none
  | .ctxRestore => none
  | .castPoint => none
  | .castPageCopy => none
  | .dependencePoll => none
  | .placementDecision => none
  | .reserving => none
  | .preemptSave => none
  | .bundleFormation => none
  | .launchEnd => none
  | .teamEnd => none
  | .memoryReply => none
  | .pfHiRead => none
  | .pfRespReplay => none
  | .pfRespFail => none
  | .launchAbort => none
  | .rollback => none
  | .copyComplete => none
  | .tileSlabComplete => none
  | .drainCaptureEnd => none
  | .drainComplete => none
  | .chiselCompileEnd => none
  | .gatherComplete => none
  | .apBranchResolve => none
  | .plinthWordApply => none
  | .collectiveMatch => none
  | .collectiveComplete => none
  | .auxiliaryPowerOn => none
  | .powerLoss => none
/-- The four bytes of a word as memory holds it, the least significant byte at the lowest address (00 R12). -/
def bytesOfWord (w : Nat) : List Byte :=
  [BitVec.ofNat 8 w, BitVec.ofNat 8 (w / 256), BitVec.ofNat 8 (w / 65536), BitVec.ofNat 8 (w / 16777216)]

/-- The word that four bytes make (00 R12). -/
def wordOfBytes : List Byte → Nat
  | [a, b, c, d] => a.toNat + b.toNat * 256 + c.toNat * 65536 + d.toNat * 16777216
  | _ => 0

/-- The instruction of one instruction word as opcode_table.json numbers its bits. Every encoded row has 32 bits. -/
def decodeTableWord (nbits w : Nat) : Option Instr :=
  if nbits = 32 then
    match decode (wordOfBytes (bytesOfWord w)) with
    | .ok i => some i
    | .error _ => none
  else none

end Sys2Proof
end

