-- ==== Sys2Proof/Machine/Bits.lean ====
section
/-!
DEFINITION. Machine/Bits.lean: bit fields, extensions and byte order (00 R11, R12).
-/

namespace Sys2Proof.Machine

/-- The field x[hi:lo] as a number (00 R11). -/
def bitsOf {n : Nat} (x : BitVec n) (hi lo : Nat) : Nat := x.toNat / 2 ^ lo % 2 ^ (hi + 1 - lo)

/-- Bit i of a number. -/
def nbit (x i : Nat) : Bool := x.testBit i

/-- The value of the low n bits of x taken as two's complement. -/
def signedOf (n x : Nat) : Int := if x % 2 ^ n < 2 ^ n / 2 then (x % 2 ^ n : Nat) else (x % 2 ^ n : Nat) - (2 ^ n : Nat)

/-- SignExtend (14 R308). -/
def sext (n : Nat) (x : Dword) : Dword := BitVec.ofInt 64 (signedOf n x.toNat)

/-- ZeroExtend (14 R308). -/
def zext (n : Nat) (x : Dword) : Dword := BitVec.ofNat 64 (x.toNat % 2 ^ n)

/-- The four bytes of a word, the least significant first (00 R12). -/
def wordBytes (w : Word) : List Byte :=
  [w.setWidth 8, (w >>> 8).setWidth 8, (w >>> 16).setWidth 8, (w >>> 24).setWidth 8]

/-- The eight bytes of a register value, the least significant first. -/
def dwordBytes (d : Dword) : List Byte := wordBytes (loWord d) ++ wordBytes (hiWord d)

/-- The number that bytes make, the least significant first. -/
def leNat : List Byte → Nat
  | [] => 0
  | b :: bs => b.toNat + 256 * leNat bs

/-- The n bytes of a number, the least significant first. -/
def natBytes : Nat → Nat → List Byte
  | 0, _ => []
  | n + 1, x => BitVec.ofNat 8 x :: natBytes n (x / 256)

/-- The words that bytes make. -/
def bytesWords : List Byte → List Word
  | a :: b :: c :: d :: r => BitVec.ofNat 32 (leNat [a, b, c, d]) :: bytesWords r
  | _ => []

/-- The bytes of words. -/
def wordsBytes (ws : List Word) : List Byte := ws.flatMap wordBytes

/-- The bytes x[lo] to x[lo + n - 1] of a list, as a number. -/
def leAt (bs : List Byte) (lo n : Nat) : Nat := leNat ((bs.drop lo).take n)

/-- Merges the masked bytes of `new` into `old` (03 R65). -/
def mergeBytes (mask : BitVec 4) (old new : Word) : Word :=
  let pick (i : Nat) : Nat :=
    (if mask.getLsbD i then bitsOf new (8 * i + 7) (8 * i) else bitsOf old (8 * i + 7) (8 * i)) * 2 ^ (8 * i)
  BitVec.ofNat 32 (pick 0 + pick 1 + pick 2 + pick 3)

/-- The number of ones of a number below 2^n. -/
def popCount : Nat → Nat → Nat
  | 0, _ => 0
  | n + 1, x => x % 2 + popCount n (x / 2)

/-- The parity of the low n bits. -/
def parity (n x : Nat) : Nat := popCount n x % 2

/-- The lowest set bit at or above i, among n bits. -/
def lowestSet : Nat → Nat → Nat → Option Nat
  | 0, _, _ => none
  | n + 1, i, x => if x.testBit i then some i else lowestSet n (i + 1) x

/-- The set bits among the low n, rising. -/
def setBits (n x : Nat) : List Nat := (List.range n).filter fun i => x.testBit i

/-- Saturating addition of one. -/
def satInc (top x : Nat) : Nat := min top (x + 1)

/-- The ceiling of a quotient. -/
def ceilDiv (a b : Nat) : Nat := (a + b - 1) / b

/-- A canonical address (08 R161): bits 63:57 equal bit 56. -/
def canonical (a : Dword) : Bool := sext 57 a == a

/-- The register value of a 57-bit address: its sign extension (08 R161; 16 R325). -/
def ofVa (a : BitVec 57) : Dword := a.signExtend 64

/-- A floor of a base-2 logarithm, zero for zero. -/
def log2 (n : Nat) : Nat := Nat.log2 n

/-- Sets or clears bit i. -/
def setBit {n : Nat} (x : BitVec n) (i : Nat) (b : Bool) : BitVec n :=
  if b then x ||| BitVec.twoPow n i else x &&& ~~~(BitVec.twoPow n i)

end Sys2Proof.Machine
end

