-- ==== Sys2Proof/Config.lean ====
section
/-!
DEFINITION. Config.lean: what one SL-NG7 fixes for itself and the values the spec leaves open. Every constant without a body
is a free value: nothing evaluates it, and no claim can rest on what it is (DESIGN CHOICE, safe: notes/assumptions/4.md).
-/

namespace Sys2Proof.Config

/-- A value of 64 bits that the spec leaves open, one for each count of the state's `free` counter. -/
opaque freeValue : Nat → Dword

/-- A draw of a random source of the package (03 R72; 05 R106), one for each count of the `free` counter. -/
opaque randomDraw : Nat → Nat

/-- AES-256 encryption of one block (05 R107), under the key of a draw (05 R106). -/
opaque aesEncrypt : Nat → BitVec 128 → BitVec 128

/-- SHAKE256 with 64 bytes of output (04 R98, R99). -/
opaque shake256 : List Byte → Vector Byte 64

/-- The device identity key's ML-DSA-65 signature, 3,309 bytes (01 R29; 04 R101, R103). -/
opaque deviceSign : List Byte → Vector Byte 3309

/-- Whether an ML-DSA-65 signature of the device identity key verifies (01 R29). -/
opaque deviceVerify : List Byte → List Byte → Bool

/-- Whether an image's trailer verifies against the Strelord firmware key (04 R98). -/
opaque firmwareVerify : List Byte → Bool

/-- The SVN in an image's trailer (04 R98). -/
opaque imageSvn : List Byte → Word

/-- The code of the security controller's ROM (04 R97). -/
opaque romCode : List Byte

/-- The digest of the security ROM (04 R97, R99). -/
def romDigest : Vector Byte 64 := shake256 romCode

/-- The output of IDENT: part number, stepping, identity public key and certificate (04 R91). -/
opaque identBytes : List Byte

/-- The body of an image, without its trailer, whose layout the spec does not give (04 R98). -/
opaque imageBody : List Byte → List Byte

/-- The bytes of the mailbox's payload buffer (04 R90). -/
def bufBytes : Nat := 4096

/-- The fused oscillator reference counts of a core (01 R23). -/
opaque oscRef : Nat → Fin 8 → Nat

/-- The fused strap reference resistances of a core, in its sensor's unit (01 R23). -/
opaque strapRef : Nat → Fin 4 → Nat

/-- What a sensor of a core reads at a cycle (01 R23, R27): 0 to 7 the counts of the oscillators, 8 to 11 the resistances of the
straps, 12 the supply in mV, 13 the junction temperature in °C. -/
opaque sensor : Nat → Nat → Nat → Nat

/-- Cores of the package (00 R4). -/
def cores : Nat := 160

/-- Cores of a compute die (00 R1). -/
def coresPerDie : Nat := 40

end Sys2Proof.Config
end

