-- ==== Sys2Proof/Machine/Assoc.lean ====
section
/-!
DEFINITION. Machine/Assoc.lean: maps from numbers as lists in one canonical form, and byte memories.
-/

namespace Sys2Proof.Machine

/-- A map from numbers: a list of key and value pairs, keys strictly rising. -/
abbrev AMap (α : Type) := List (Nat × α)

/-- The value at a key. -/
def aget? {α : Type} : AMap α → Nat → Option α
  | [], _ => none
  | (j, v) :: m, k => if j = k then some v else aget? m k

/-- The value at a key, or the given default. -/
def aget {α : Type} (d : α) (m : AMap α) (k : Nat) : α := (aget? m k).getD d

/-- Writes a value at a key, keeping the keys strictly rising. -/
def aset {α : Type} : AMap α → Nat → α → AMap α
  | [], k, v => [(k, v)]
  | (j, u) :: m, k, v =>
    if k < j then (k, v) :: (j, u) :: m
    else if k = j then (k, v) :: m
    else (j, u) :: aset m k v

/-- Removes a key. -/
def adel {α : Type} : AMap α → Nat → AMap α
  | [], _ => []
  | (j, u) :: m, k => if j = k then adel m k else (j, u) :: adel m k

/-- Changes the value at a key, starting from the default where there is none. -/
def amod {α : Type} (d : α) (m : AMap α) (k : Nat) (f : α → α) : AMap α := aset m k (f (aget d m k))

/-- The keys of a map. -/
def akeys {α : Type} (m : AMap α) : List Nat := m.map (·.1)

/-- Whether a map has a key. -/
def ahas {α : Type} (m : AMap α) (k : Nat) : Bool := (aget? m k).isSome

/-- The pairs that a test keeps. -/
def afilter {α : Type} (m : AMap α) (f : Nat → α → Bool) : AMap α := m.filter fun p => f p.1 p.2

/-- Applies a function to every value. -/
def amap {α β : Type} (m : AMap α) (f : Nat → α → β) : AMap β := m.map fun p => (p.1, f p.1 p.2)

/-- The keys are strictly rising. -/
def awf {α : Type} : AMap α → Bool
  | [] => true
  | [_] => true
  | (j, _) :: (k, v) :: m => decide (j < k) && awf ((k, v) :: m)

/-- A byte memory: cells in strictly rising order of address, none of them equal to what an unlisted address reads as. -/
abbrev Memory := List Host.Cell

/-- What an unlisted address reads as: zero (03 R83 phase 6 writes every stored word as zero). -/
def Memory.unlisted : Byte := 0

/-- The byte at an address.
DESIGN CHOICE, unsafe: notes/assumptions/8.md. -/
def Memory.read (m : Memory) (a : Nat) : Byte := aget Memory.unlisted m a

/-- Writes a byte, keeping the canonical form. -/
def Memory.write (m : Memory) (a : Nat) (b : Byte) : Memory :=
  if b = Memory.unlisted then adel m a else aset m a b

/-- Writes bytes at rising addresses. -/
def Memory.writeAll (m : Memory) (a : Nat) : List Byte → Memory
  | [] => m
  | b :: bs => Memory.writeAll (Memory.write m a b) (a + 1) bs

/-- Reads bytes at rising addresses. -/
def Memory.readAll (m : Memory) (a : Nat) : Nat → List Byte
  | 0 => []
  | n + 1 => Memory.read m a :: Memory.readAll m (a + 1) n

/-- No listed cell holds what an unlisted address reads as. -/
def Memory.nonDefault (m : Memory) : Bool := m.all fun c => c.2 != Memory.unlisted

/-- The canonical form of a memory.
DESIGN CHOICE, safe: notes/assumptions/17.md. -/
def Memory.wf (m : Memory) : Bool := awf m && Memory.nonDefault m

end Sys2Proof.Machine
end

