-- ==== Sys2Proof/Machine/State.lean ====
section
/-!
DEFINITION. Machine/State.lean: the state of the package as plain data, unit by unit in the order of the manual, and the
machine right after reset. A family of registers with an index is a map whose missing entries hold the family's reset
value, so that equal machines are equal data and the reset state lists nothing.
-/

namespace Sys2Proof.Machine

/-- An eviction class (03 R79; 08 R173). -/
inductive EvClass where
  | keep | normal | stream
  deriving DecidableEq, Repr

/-! ## Registers of threads -/

/-- A register value or result-queue entry: 64 bits, its poison bit (00 R8), and the request that will produce it when it
is not yet produced (07 R150). -/
structure Val where
  v    : Dword := 0
  psn  : Bool := false
  pend : Option Nat := none
  deriving DecidableEq, Repr

/-- How a thread is parked (13 R278): the kinds 0 to 5, with what each waits for. -/
inductive Park where
  | none
  | fault (die id va : Nat)       -- kind 1: a fault record of a die's queue; id 256 waits for a free record
  | launchw                       -- kind 2
  | xacq (k : Nat)                -- kind 3
  | meet (conv : Bool)            -- kind 4: at CONV, else at JOIN
  | barw (b : Nat) (phase : BitVec 16)  -- kind 5
  | cbar                          -- kind 5
  | gbar                          -- kind 5
  | halted                        -- a steward after HALT (20 R446)
  | leaving                       -- in EXIT, until the accesses of its chain that EXIT waits for have been performed (16 R331)
  | tlbinv (va : Option Nat)      -- in TLBINV, until the accesses of its chain have been performed (20 R443); the address, or all
  deriving DecidableEq, Repr

/-- A thread of a team, an access-processor program or a steward (07 R159; 12 R245; 13 R278; 14 R301). -/
structure Thread where
  pc      : BitVec 57 := 4
  q       : Vector Val 16 := Vector.replicate 16 {}
  n       : Vector Val 16 := Vector.replicate 16 {}
  p       : BitVec 8 := 1
  pp      : BitVec 8 := 0
  m       : Vector Word 8 := Vector.replicate 8 0
  f       : Vector Word 4 := Vector.replicate 4 0
  cf      : BitVec 12 := 0
  fpctl   : Word := 0
  sr      : Word := 0
  wait    : Nat := 0
  late    : Nat := 0      -- the cycle of the window in which it last issued, until the window ends (06 R131)
  entered : Bool := true   -- the clause wait is still to be checked (14 R288)
  page    : BitVec 57 := 0 -- the packet of the previous chain (14 R288)
  exited  : Bool := false
  replay  : Bool := false  -- it replays its chain after a fault record was answered (08 R168)
  skip    : Bool := false  -- not ready at the start of the next window (16 R330)
  held    : Bool := false  -- not ready at the start of this window (06 R131)
  handler : Bool := false
  redo    : Option Dword := none -- the record address that the LAUNCHW at its PC, at which it waited, has read (13 R279; 20 R434)
  park    : Park := .none
  back    : Option (BitVec 57 × Park) := none -- parked on a tile instruction's fault: where and how it waited before (07 R146)
  xcause  : Byte := 0
  xinfo   : Word := 0
  xaddr   : Dword := 0
  xpc     : Dword := 0
  xq      : Vector Val 16 := Vector.replicate 16 {}
  deriving DecidableEq, Repr

/-- A thread's place in the map of threads: the lane of a group of a team. -/
def laneRef (team g l : Nat) : Nat := ((team * 16 + g) * 32 + l) * 4

/-- The place of a team's access-processor program in the map of threads. -/
def apRef (team : Nat) : Nat := team * 4 + 1

/-- The place of a steward in the map of threads: SID 0 hub, 1 to 4 dies, 8 to 15 Plinths (20 R441). -/
def stewRef (sid : Nat) : Nat := sid * 4 + 2

/-- The number under which State holds the security block's controller (04 R97).
DESIGN CHOICE, unsafe: notes/assumptions/16.md. -/
def secSid : Nat := 16

/-! ## Teams -/

/-- The mapping of one block number of a group: the physical block and the holder mask (07 R155). -/
structure XMap where
  phys    : Nat
  holders : BitVec 32
  deriving DecidableEq, Repr

/-- A group of a team (07 R140, R144, R160). `tile` is its outstanding tile instruction (13 R277), `tilePc` where the last one
stands. -/
structure Group where
  la     : Nat
  slot   : Nat
  conv   : Bool := false
  m      : Nat := 32
  rows   : Nat := 0
  x0     : Option XMap := none
  x1     : Option XMap := none
  x2     : Option XMap := none
  tile   : Option Nat := none
  tilePc : BitVec 57 := 0
  stopped : Bool := false  -- a thread of the group has trapped while the instruction was outstanding (11 R235)
  deriving DecidableEq, Repr

/-- The state word of a named barrier (19 R392), and the threads that carry its drop mark. -/
structure Barrier where
  phase   : BitVec 16 := 0
  init    : Bool := false
  expect  : Nat := 0
  bcur    : Bool := false
  arrived : Nat := 0
  bytes   : Nat := 0
  drops   : List Nat := []
  due     : Option (List Nat) := none -- a full phase of b0, and the requests that must be performed before it completes
  late    : List Nat := []       -- byte counts of copies that arrived while a full phase could not yet complete
  owed    : List (Nat × Bool × List Nat) := [] -- arrivals still to be made: thread, drop, the requests of its chain that come first
  deriving DecidableEq, Repr

/-- An entry of a feed queue (12 R247): 32 lane values, the validity mask, and whether it is speculative (R253). -/
structure FeedEntry where
  vals : List Val
  mask : BitVec 32
  spec : Bool
  instr : Nat
  deriving DecidableEq, Repr

/-- A feed queue (12 R247): its entries, oldest first, the position of the oldest, the position of each lane's head, and
the positions still to be dropped for each lane after a restore (R255). -/
structure Feed where
  entries : List FeedEntry := []
  base    : Nat := 0
  heads   : AMap Nat := []
  drops   : AMap Nat := []
  gone    : List Nat := []       -- the instructions, not settled, whose entries have been freed
  deriving DecidableEq, Repr

/-- An unresolved branch of an access-processor program (12 R253): whether it was predicted right, the thread as it goes on when
it was not, the number of its instruction, the first identifier that a younger one can take, and whether a window has passed. -/
structure ApBranch where
  right : Bool
  saved : Thread
  instr : Nat
  first : Nat
  seen  : Bool := false
  deriving DecidableEq, Repr

/-- The access-processor context of a team (12 R245 to R255). -/
structure ApState where
  running : Bool := false
  ended   : Bool := false
  status  : Byte := 0
  started : Option (List Nat × Nat) := none -- the lanes and flag of an APGO whose first instruction has not issued
  settled : Option Thread := none       -- the state after the newest settled instruction
  branches : List ApBranch := []
  unsettled : List (Nat × Thread) := [] -- instructions that still hold entries: their number, the state after them
  count   : Nat := 0                    -- instructions issued
  deriving DecidableEq, Repr

/-- Where a word of an access stands: device memory, a team's scratchpad, host memory, or nowhere (03 R53). -/
inductive Loc where
  | dev (w : Nat)
  | pad (team off : Nat)
  | host (w : Nat)
  | sram (sid off : Nat)
  | none
  deriving DecidableEq, Repr

/-- A logged write of an interval log (09 R202): one word with the check bits of its data (08 R174), or an atomic. -/
structure LogEntry where
  loc  : Loc
  data : Word
  chk  : Byte := 0
  mask : BitVec 4
  psn  : Bool
  atom : Option Nat
  ref  : Nat
  deriving DecidableEq, Repr

/-- Why a team's issue is stopped: for a save (06 R134), for a rollback with its cause and whether it came from handler mode
(13 R281) and whether a save follows it, or for an abort (13 R276). -/
inductive Halt where
  | save
  | roll (cause : Byte) (handler : Bool) (save : Bool)
  | abort
  deriving DecidableEq, Repr

/-- What the words of a saved state of a team do not say: what the flags that are set in it belong to (14 R289), by group the flag and
lanes of its outstanding tile operation and those of an APGO whose program has not issued; the order of those operations; and what
the park kinds of its threads leave open.
DEDUCED, unsafe: notes/assumptions/47.md. -/
structure FlagNote where
  tiles : AMap (Nat × List Nat) := []
  start : Option (List Nat × Nat) := none
  order : List Nat := []             -- the groups with an outstanding tile instruction, in the order of issue (11 R233)
  launchw : AMap Dword := []         -- the record addresses of threads parked in LAUNCHW, by thread (20 R434)
  parks   : AMap Park := []          -- what the threads saved with park kind 4 or 5 wait for (13 R279)
  backs   : AMap (BitVec 57 × Park) := [] -- where the threads parked on a tile instruction's fault were before (07 R146)
  deriving DecidableEq, Repr

/-- A placed team (06 R125; 07 R160). -/
structure Team where
  launch  : Nat
  ctx     : Nat
  core    : Nat
  tid     : Nat
  coh     : Nat
  ix      : Nat
  slot    : Nat
  groups  : List Group
  xpool   : Nat := 0
  accs    : Nat := 0
  nbars   : Nat := 0
  granules : List Nat := []      -- scratchpad granules of 4 KiB on the core, in order (06 R126)
  spad    : Nat := 0
  ext     : AMap Val := []       -- (block * 16 + register) * 32 + lane
  bars    : AMap Barrier := []
  handles : AMap (List Word) := []
  acc     : AMap Word := []      -- (tile * 32 + row) * 32 + column
  z       : BitVec 16 := 1
  zold    : Option (Nat × BitVec 16) := none -- the cycle of the newest write of z, and z as that cycle began (12 R257)
  dq      : AMap Feed := []
  ap      : ApState := {}
  log     : List LogEntry := []
  escaped : Bool := false
  streak  : Nat := 0
  phased  : Bool := false        -- b0 has completed a phase since placement
  xwait   : List Nat := []       -- threads parked in XACQ, in order
  halt    : Option Halt := none
  shadow  : Bool := false        -- the shadow of a completed phase of b0 is still to be taken (13 R280)
  shadowNote : FlagNote := {}    -- the flags of that shadow
  note    : FlagNote := {}       -- the flags of the save slot that the team was read from
  deriving DecidableEq, Repr

/-! ## Launches -/

/-- A launch record (06 R118). -/
structure LaunchRec where
  (code trap kconst cplt : Dword)
  deps     : List Dword
  teams    : Nat          -- team count, not minus 1
  groups   : Nat
  cohort   : Nat
  producer : Nat
  attr     : Byte
  (xpool acc bars spad : Nat)
  counts   : Dword
  save     : Dword
  slots    : Nat
  deriving DecidableEq, Repr

/-- A saved team of a launch (06 R130, R134, R135), with what the dispatcher keeps of it: its identifier, linear id and save slot;
M, the row count and the place of the outstanding tile instruction of each of its groups; whether b0 has completed a phase; and how
its access-processor program ended.
DEDUCED, safe: notes/assumptions/46.md. -/
structure SavedTeam where
  (uid tid slot : Nat)
  shapes : List (Nat × Nat × BitVec 57)
  phased : Bool := false
  ended  : Bool := false
  status : Byte := 0
  note   : FlagNote := {}
  shadowNote : FlagNote := {}
  deriving DecidableEq, Repr

/-- An entry of a pending-launch store (06 R122). -/
structure Launch where
  die     : Nat
  ctx     : Nat
  rc      : LaunchRec
  k       : List Dword
  entered : Nat                    -- cycle of entry
  addr    : Dword                  -- where the record stood
  after   : List Nat := []         -- the requests of the submitting chain that come first (06 R124)
  ready   : Bool := false
  reserving : Bool := false
  passed  : Nat := 0               -- cycles for which it has been passed over
  nextCoh : Nat := 0
  saved   : List (List SavedTeam) := []    -- saved cohorts, and resident launches as one
  countFault : Option Nat := none  -- outstanding fault record of a read by the dispatcher (06 R130)
  done    : Nat := 0               -- teams that reached EXIT
  status  : Option (Nat × Word) := none -- the end it is to write: STATUS and CAUSE
  endTid  : Word := 0xFFFFFFFF     -- the team that an abort names (20 R438)
  deriving DecidableEq, Repr

/-! ## Requests -/

/-- What a request does with its words. -/
inductive ReqKind where
  | load (size : Nat) (signed : Bool)
  | check
  | store
  | atom (op : Nat) (ret : Bool)
  | prefetch
  | cas
  | fence
  | burst (write : Bool)
  | engine
  | publish                -- the publication of an interval log (09 R202)
  deriving DecidableEq, Repr

/-- A memory request of a lane, from its issue until it completes (14 R289). -/
structure Req where
  ref  : Nat
  flag : Nat             -- completion flag, 15 for none
  kind : ReqKind
  core : Nat
  kid  : Nat
  pol  : Word
  va   : Dword
  off  : Nat             -- byte offset in the first word
  locs : List Loc
  data : Word := 0
  new  : Word := 0
  left : Nat := 0        -- writes not yet performed
  vals : List Val := []  -- words that an atomic has returned
  cmd  : Nat := 0        -- the word-burst command whose lane this is
  lanes : List Nat := [] -- the lanes of a word-burst command
  scat  : Bool := false  -- the writes of a SCAT (12 R246)
  noted : Bool := false  -- its error record has been written (20 R438)
  deriving DecidableEq, Repr

/-- A vector clock (09 R190): components D0 to D3, H, P. -/
structure VClock where
  d0 : Nat := 0
  d1 : Nat := 0
  d2 : Nat := 0
  d3 : Nat := 0
  h  : Nat := 0
  p  : Nat := 0
  deriving DecidableEq, Repr

/-! ## Events -/

/-- A message of the Armature (02 R39). -/
structure FabMsg where
  opc     : Nat := 0
  srcComp : Nat := 0
  srcPkg  : Nat := 0
  dstPkg  : Nat := 0
  tag     : Nat := 0
  mask    : BitVec 64 := 0
  unit    : Nat := 0
  aop     : Nat := 0
  pmask   : BitVec 64 := 0
  words   : List Word := []
  be      : List (BitVec 4) := []
  deriving DecidableEq, Repr

/-- What an operation without an encoding acts on. Each meaning names the fields it reads.
DESIGN CHOICE, safe: notes/assumptions/3.md. -/
structure EvArgs where
  id    : Nat := 0     -- a request, write, operation, launch or team
  ix    : Nat := 0
  die   : Nat := 0
  core  : Nat := 0
  la    : Nat := 0
  link  : Nat := 0
  port  : Nat := 0
  stack : Nat := 0
  ch    : Nat := 0
  slice : Nat := 0
  bank  : Nat := 0
  queue : Nat := 0
  ctx   : Nat := 0
  w     : Nat := 0
  kid   : Nat := 0
  cls   : EvClass := .normal
  keep  : Bool := false
  words : List Nat := []
  bytes : List Byte := []
  be    : BitVec 64 := 0
  msg   : FabMsg := {}
  off   : Nat := 0
  val   : Word := 0
  cause : Nat := 0
  tid   : Word := 0
  lost  : List Nat := []  -- words whose recall a package that is down did not answer (02 R48)
  deriving DecidableEq, Repr

/-- An event of the agenda.
DESIGN CHOICE, safe: notes/assumptions/3.md. The queues between the parts of the package hold events without a bound (06 R137, R138).
DESIGN CHOICE, safe: notes/assumptions/124.md. -/
structure Event where
  op  : Instr
  arg : EvArgs := {}
  deriving DecidableEq, Repr

/-! ## Writes and engine operations -/

/-- A write that some die has still to perform or apply (09 R190). `comp` is 0 to 3 for a die, 4 for H, 5 for P. A write that
is not of device memory has no clock: it is done when it is performed, or when the message that multicasts it has been answered. -/
structure Write where
  comp  : Nat
  core  : Option Nat
  kid   : Nat
  w     : Nat
  data  : Word
  mask  : BitVec 4
  psn   : Bool
  atom  : Option Nat := none
  req   : Nat := 0            -- the request or operation that waits for it
  cls   : EvClass := .normal
  fill  : Nat := 0            -- FILL of its policy (08 R176)
  stamp : Option VClock := none
  togo  : List Nat := []      -- components that have still to apply it
  out   : Option Loc := none  -- the word, where it is not one of device memory
  mcw   : Option FabMsg := none -- the message that carries it to another package (02 R49)
  next  : List Event := []    -- what follows when it is performed: the next entry of a published log (09 R202)
  deriving DecidableEq, Repr

/-- Which tile or Chisel operation an operation is. -/
inductive TileKind where
  | mma | sc (sel : Nat) | ms (nsel : Nat) | zero | lda | drain | chrun | chpre
  deriving DecidableEq, Repr

/-- A tile or Chisel operation with what it captured at issue (11 R233; 13 R278), and its state: the slabs completed, the fault
record that holds it, whether it has met an unbacked word, a Chisel program that it runs (12 R265), and a drain's staged words
with the bytes of elements among them (11 R237). -/
structure TileOp where
  kind : TileKind
  word : Word
  pc   : BitVec 57
  team : Nat
  grp  : Nat
  flag : Nat
  lanes : List Nat
  acc  : Nat
  cl   : Nat
  m    : Nat
  (ca cb cm : Dword := 0)
  (fa fb : Word := 0)
  pol  : Word := 0
  ctl  : Dword := 0
  (ra rb rm : List Word := [])
  scl  : List Dword := []
  slab : Nat := 0
  kid  : Nat := 0
  core : Nat := 0
  fault : Option Nat := none
  bad  : Bool := false
  prog : Option (Bool × List Word) := none
  captured : Bool := false
  outs : List (Nat × Word × BitVec 4) := []
  bytes : Nat := 0
  next : Nat := 0
  deriving DecidableEq, Repr

/-- Which copy an operation is. -/
inductive CopyKind where
  | cpld | cpst | cpfill
  deriving DecidableEq, Repr

/-- A block copy (11 R240 to R244): what it captured, the words done, the outstanding fault record, whether it has met an unbacked
word, and its ranges for the range scoreboard (08 R180). -/
structure CopyOp where
  kind : CopyKind
  team : Nat
  core : Nat
  kid  : Nat
  flag : Nat
  lanes : List Nat
  bar  : Option Nat
  pol  : Word
  rc   : List Word := []
  coord : Dword := 0
  loc  : Nat := 0           -- the local address
  len  : Nat := 0
  pattern : Word := 0
  next : Nat := 0
  fault : Option Nat := none
  bad  : Bool := false
  started : Bool := false
  glo  : List (Nat × Nat) := []
  lrange : Nat × Nat := (0, 0)
  deriving DecidableEq, Repr

/-- A Plinth command (18 R389, R390): its fields, the words of its ranges, and the words performed. -/
structure PlcOp where
  launch : Nat
  ref  : Nat
  refs : List Nat
  flag : Nat
  kid  : Nat
  op   : Nat
  dst  : List Loc
  src  : List Loc
  (a b imm : Word)
  next : Nat := 0
  deriving DecidableEq, Repr

/-- A participant of a collective (20 R428 to R432): the lanes and flag of its COLL, its record and where that stands, or the
package it belongs to; what has been read for it; and, once matched, its status, the elements it dropped, and its writes: address,
data, mask and poison. -/
structure CollOp where
  launch : Nat
  refs : List Nat
  flag : Nat
  kid  : Nat
  core : Nat
  pol  : Word
  rc   : List Word
  addr : Nat
  pkg  : Option Nat := none
  ranks : Option (List Word) := none
  cnts : Option (List Word) := none
  send : Option (List (Word × Bool)) := none
  matched : Bool := false
  status : Nat := 0
  drops : Nat := 0
  outs : List (Nat × Word × BitVec 4 × Bool) := []
  next : Nat := 0
  fault : Option Nat := none
  gone : List Nat := []
  tid  : Word := 0xFFFFFFFF  -- the team whose thread issued it
  bad  : Bool := false       -- its error record has been written (20 R438)
  deriving DecidableEq, Repr

/-- A gather whose elements are under way (12 R250, R251): the queue, the elements' locations from lane 0 on, and the number of its
instruction. -/
structure GatherOp where
  ref   : Nat
  team  : Nat
  core  : Nat
  flag  : Nat
  dq    : Nat
  pol   : Word
  size  : Nat
  locs  : List (List Loc)
  instr : Nat
  deriving DecidableEq, Repr

/-- An engine operation in flight. -/
inductive Op where
  | tile (o : TileOp)
  | copy (o : CopyOp)
  | plc (o : PlcOp)
  | coll (o : CollOp)
  | gather (o : GatherOp)
  deriving DecidableEq, Repr

/-! ## Caches and memory -/

/-- The state of a cached word (08 R175). In the LLC, `modified` is the dirty bit; `partly` occurs in an L2 only. -/
inductive WordState where
  | shared | modified | partly
  deriving DecidableEq, Repr

/-- A cached word: data, check bits (08 R182), poison, state and byte mask. -/
structure CWord where
  d    : Word
  c    : Byte
  psn  : Bool := false
  st   : WordState := .shared
  mask : BitVec 4 := 15
  deriving DecidableEq, Repr

/-- A cached unit of 64 words (03 R79; 08 R174, R175): key id, class, age, the words held, the presence bits of an L2 unit
and the tile operations that pin it (11 R232). -/
structure CUnit where
  kid   : Nat
  cls   : EvClass := .normal
  use   : Nat := 0
  words : AMap CWord := []
  pres  : BitVec 40 := 0
  pins  : List Nat := []
  deriving DecidableEq, Repr

/-- What the word directory keeps for one word (03 R80). -/
structure DirWord where
  sh   : BitVec 4 := 0
  m    : Bool := false
  rst  : Nat := 0
  ridx : Nat := 0
  gone : List Nat := []  -- packages of RLIST that have answered an INV for the word since they last read it (02 R46)
  deriving DecidableEq, Repr

/-- An entry of the word directory (03 R80). -/
structure DirEntry where
  words : AMap DirWord := []
  rlist : List Nat := []
  rovf  : Bool := false
  use   : Nat := 0
  deriving DecidableEq, Repr

/-- A row swap under way (03 R72): the bank, the rows and the slice count. -/
structure Swap where
  (bank p q count : Nat)
  deriving DecidableEq, Repr

/-- An entry of a correction history (03 R77). -/
structure Correction where
  (w count pass : Nat)
  deriving DecidableEq, Repr

/-- The registers and queues of one stack (03 R74 to R78, R85). -/
structure Stack where
  tset    : Bool := false
  phase   : Nat := 0          -- MTR_CTL.PHASE
  run     : Nat := 0          -- the phase that runs, 0 when none does
  busy    : Bool := false
  fail    : Bool := false
  lastph  : Nat := 0
  failch  : Word := 0
  idle    : Nat := 64
  swapth  : Nat := 2048
  en      : Bool := true
  interval : Nat := 4096
  passes  : Word := 0
  ue      : Nat := 0
  ce      : Nat := 0
  fqlo    : Word := 0
  fq      : List (Nat × Nat) := []   -- KIND and W, oldest first
  ovf     : Bool := false
  hist    : List Correction := []
  deriving DecidableEq, Repr

/-- The memory side: stacks, directory and caches (03; 08), and the clocks of 09 R190.
DESIGN CHOICE, unsafe: notes/assumptions/1.md. -/
structure MemSys where
  span    : Nat := 3
  live    : Byte := 0xFF
  smap    : Word := 0x00FAC688
  data    : Memory := []             -- stored data words by byte, at byte address 4W
  chk     : AMap Byte := []          -- stored check bits by W, where they are not those of the stored data
  plinths : AMap Stack := []
  preds   : AMap Nat := []           -- predictor counters, by (channel, bank, index); missing 2
  rows    : AMap Nat := []           -- open physical rows, by (channel, slice, bank)
  acts    : AMap (List (Nat × Nat)) := []  -- activation counters, by (channel, bank): row and count
  swapq   : AMap (List (Nat × Nat)) := []  -- swap queue of a channel: bank and row
  swaps   : AMap Swap := []
  indir   : AMap Nat := []           -- indirection, by (channel, bank, logical row); missing identity
  patrol  : AMap Nat := []           -- number of the next word of a channel's patrol
  skips   : AMap Bool := []          -- skip bits, by (stack, page)
  ckpt    : AMap Nat := []           -- words of a page read by checkpoint reads, one bit a word, by (stack, page)
  holds   : AMap Word := []          -- scrub holding entries, by W
  parts   : AMap (List Nat) := []    -- words of a part not yet issued, by operation
  llc     : AMap CUnit := []
  dir     : AMap DirEntry := []
  tags    : AMap Nat := []           -- the key id under which a word went modified to another package, by W
  homeq   : AMap (List Event) := []  -- what waits for a recall of a word, by W (03 R82)
  recalls : AMap (List Nat) := []    -- packages whose INV for a word is not answered, by W
  l2      : AMap CUnit := []         -- by die * 2^46 + unit; units from 2^44 on are of host memory (04 R89)
  l1      : AMap CUnit := []         -- by core * 2^46 + unit
  kcache  : AMap (AMap CWord) := []  -- constant cache of a core, by core: words by launch * 2^37 + W
  klaunch : AMap Nat := []           -- the launch whose words a constant cache holds
  age     : Nat := 0                 -- counts accesses, for least recently used
  vcs     : AMap VClock := []        -- VC_D0 to VC_D3, VC_H, VC_P as 0 to 5
  writes  : AMap Write := []
  spad    : AMap CWord := []         -- scratchpad words, by (core * 40 + bank) * 4096 + row
  hostmem : Memory := []             -- host memory behind CXL.cache, by byte
  hostbad : AMap Bool := []          -- words of host memory that were written back poisoned
  deriving DecidableEq, Repr

/-! ## Package units -/

/-- Which power sequence runs (01 R18 to R22). -/
inductive PowerRun where
  | none | up | down | emergency
  deriving DecidableEq, Repr

/-- The power sequencer (01 R17 to R22). -/
structure Power where
  cmd      : BitVec 2 := 0
  emerg    : Bool := false
  fail     : Bool := false
  failstep : Byte := 0
  step     : BitVec 5 := 0
  rail     : Word := 0
  pgood    : Word := 0
  rst      : Word := 0
  tmax     : Byte := 0
  flow     : BitVec 16 := 0
  run      : PowerRun := .none
  pending  : Bool := false        -- an emergency waits for the next step boundary
  plnReady : Byte := 0            -- Plinth steward-ready status
  dieReady : BitVec 4 := 0
  refresh  : Bool := false        -- DRAM is in self-refresh
  hold     : Bool := false        -- the dispatchers place no teams (R21 step 1)
  resume   : Bool := false        -- the next start restores every live context (R22; 05 R114)
  deriving DecidableEq, Repr

/-- The state of a core (01 R25). -/
inductive CoreState where
  | nominal | derated | drained | retired
  deriving DecidableEq, Repr

/-- The lifetime record of a core (01 R30). -/
structure CoreRec where
  state  : CoreState := .nominal
  life   : Nat := 1000
  bti    : Nat := 0
  em     : Nat := 0
  cycles : Nat := 0
  wear   : Nat := 0
  cause  : Nat := 0
  deriving DecidableEq, Repr

/-- Wear (01 R28 to R31). -/
structure Wear where
  recs    : AMap CoreRec := []
  issued  : AMap Nat := []           -- issued bundles of the running sample, by core * 256 + context
  busy    : AMap (Nat × Nat) := []   -- by core: the last window in which it issued, and the windows of the sample in which it did
  tables  : AMap (List Byte) := []   -- the two copies of the lifetime record table
  seq     : Nat := 0
  idx     : Byte := 0
  core    : Word := 0x000A03E8       -- PWEAR_CORE
  bti     : Word := 0
  em      : Word := 0
  evt     : Nat := 0
  deriving DecidableEq, Repr

/-- A fabric port (02 R41). -/
structure Port where
  tmode  : Nat := 0
  rate   : Nat := 0
  en     : Bool := false
  lock   : Bool := false
  eqdone : Bool := false
  sig    : Bool := false
  bad    : Nat := 0
  feccor : Nat := 0
  deriving DecidableEq, Repr

/-- A link (02 R33, R36, R37, R42, R45). -/
structure Link where
  up      : Bool := false            -- AGRP_STAT.UP
  want    : Bool := false            -- AGRP_CTL.UP
  proterr : Bool := false
  peerv   : Bool := false
  peerpkg : Nat := 0
  peerdn  : Bool := false
  half    : Bool := false
  side    : Nat := 0                 -- the port that carries everything while half: 0 lower, 1 upper
  limit   : Nat := 8
  replays : Nat := 0
  (creq crep cctl : Nat := 0)
  txseq   : Nat := 0
  rxseq   : Nat := 0
  acked   : Bool := false
  replay  : AMap (Nat × Nat × List Byte) := [] -- replay buffer, by sequence number: class and number of the credits returned, payload
  replayDue : Option Nat := none     -- a replay from the flit after this one is still to be sent
  retries : Nat := 0
  retryAt : Nat := 0
  retryDue : Bool := false           -- RETRY goes into the next header
  waiting : Bool := false            -- flits are discarded until a replay arrives
  freed   : List Nat := []           -- classes of receive buffers to return
  outq    : List (Nat × List Byte) := []   -- payloads that wait for a credit, with their class
  wire    : List (Nat × List Byte) := []   -- flits handed to the ports: 0 lower, 1 upper
  early   : AMap (Word × List Byte) := []  -- flits that came early over one port: header and payload, by sequence number
  step    : Nat := 0                 -- training step
  deriving DecidableEq, Repr

/-- A route entry (02 R43), and whether its link is to be trained again at the next start (02 R45). -/
structure Route where
  valid : Bool := false
  group : Nat := 0
  cut   : Bool := false              -- a link that was left down has cleared VALID (02 R45)
  deriving DecidableEq, Repr

/-- The Armature (02 R43, R46, R48). -/
structure Arm where
  ports : AMap Port := []
  links : AMap Link := []
  topo  : Nat := 0
  pkgid : Nat := 0
  rtidx : Nat := 0
  routes : AMap Route := []
  nextTag : Nat := 0
  waits : AMap (Nat × Nat × Nat) := []   -- by tag: destination package, what waits (0 MCW, 1 INV), its operation or word
  unsent : List (FabMsg × Nat × Nat) := [] -- requests for which no tag is free: what waits, its operation or word (02 R38)
  writes : AMap (List Event) := []       -- by package: remote writes stamped and not yet performed, in order (02 R47)
  down  : List Nat := []
  deriving DecidableEq, Repr

/-- A command queue (04 R93). -/
structure CmdQueue where
  base    : Nat := 0
  ctx     : Nat := 0
  logsize : Nat := 0
  die     : Nat := 0
  en      : Bool := false
  tail    : Word := 0
  head    : Word := 0
  badent  : Bool := false
  deriving DecidableEq, Repr

/-- A step entry of the start record (04 R101): RESULT, STREAK, FAIL, LEVEL of each part. -/
structure StepRec where
  result : Nat := 3
  streak : Nat := 0
  fail   : Word := 0
  level  : Nat := 0
  deriving DecidableEq, Repr

/-- The hub: mailbox, command queues, host-line filter, start (04). -/
structure Hub where
  len     : Nat := 0
  opc     : Byte := 0
  outlen  : Nat := 0
  result  : Byte := 0
  ready   : Bool := false
  busy    : Bool := false
  irqen   : Bool := false
  evtlo   : Word := 0
  evq     : List (Nat × Nat × Word) := []  -- CODE, SRC, ARG, oldest first
  evovf   : Bool := false
  buf     : Memory := []
  irq     : BitVec 17 := 0
  cqs     : AMap CmdQueue := []
  turn    : Nat := 0
  hdm     : Bool := false                  -- step 15: the HDM decoder is committed, CXL.mem and the command queues are enabled
  hdmSize : Nat := 0                       -- the size that the HDM decoder is committed with (R87)
  filter  : AMap Nat := []                 -- lines the host may cache: line, age
  snoops  : AMap (List Event) := []        -- lines whose BISnp is not answered: what waits
  hostdir : AMap DirWord := []             -- die copies of host-mapped words (R89)
  lines   : AMap Bool := []                -- lines of host memory that the hub owns towards the host (R89)
  images  : AMap (List Byte) := []         -- image slots, by kind * 2 + slot
  lastSlot : AMap Nat := []                -- slot last loaded, by kind
  minSvn  : AMap Word := []                -- fused minimum SVN, by kind
  mlog    : List (List Byte) := []
  logd    : List Byte := List.replicate 64 0
  dead    : Bool := false                  -- no hub image could be loaded: the start stops before step 1 (R98)
  starting : Bool := false
  step    : Nat := 0
  steps   : AMap StepRec := []             -- entries of this start
  records : AMap (List Byte) := []         -- the two copies of the start record, with signature
  startSeq : Nat := 0
  nextCopy : Nat := 0                      -- the copy of the start record that is written next (04 R101)
  cxlrate : Nat := 0
  stopped : Nat := 0                       -- step that stopped the start
  clralt  : List (Nat × Word) := []        -- step and parts that CLRALT named
  setfab  : Option (List Byte) := none
  portsOff : List Nat := []                -- ports that failed training on an earlier start (02 R45)
  sram    : AMap Memory := []              -- private memory of a steward, by SID
  xvec    : AMap Dword := []               -- XVEC, by SID
  msix    : List Nat := []                 -- vectors raised, newest first
  rdata   : Word := 0                      -- what the last host read of a register returned
  line    : List Byte := []                -- what the last host read of a line returned
  linePsn : Bool := false                  -- and whether it was returned poisoned
  deriving DecidableEq, Repr

/-- The state of a context (05 R105). -/
inductive CtxState where
  | free | live | destroying | restoring
  deriving DecidableEq, Repr

/-- A replica entry of a context (18 R374). -/
structure Replica where
  va   : Word := 0
  len  : Nat := 0
  pa   : AMap Nat := []       -- by die
  peer : AMap Word := []      -- CTX_PEERA to CTX_PEERC as 0 to 2
  used : Bool := false        -- passed the checks of create
  deriving DecidableEq, Repr

/-- A Cast being built (05 R111): the buffer, the pages to copy and those copied. -/
structure Build where
  toB   : Bool
  point : Bool := false       -- the cast point has come
  pages : List (Nat × Nat) := []   -- virtual and physical page still to copy, in order
  all   : List Nat := []           -- virtual pages of the set
  seq   : BitVec 16 := 0           -- the SEQ it will commit
  deriving DecidableEq, Repr

/-- An error-queue record (20 R438). -/
structure ErrRec where
  (cause kind : Nat)
  dropped : Bool
  tid  : Word
  addr : Dword
  deriving DecidableEq, Repr

/-- A context (05 R104 to R106; 18 R374; 20 R437, R438). -/
structure Ctx where
  state  : CtxState := .free
  ptroot : Nat := 0
  bufa   : Nat := 0
  bufb   : Nat := 0
  buflen : Nat := 0
  cur    : Bool := false
  valid  : Bool := false
  seq    : BitVec 16 := 0
  wear   : Nat := 0
  key    : Option Nat := none    -- the draw that gave the key in the security block and the Plinths
  result : Nat := 0
  build  : Option Build := none
  built  : Option Bool := none   -- a completed build that awaits commit: its buffer
  failed : Bool := false         -- the last build failed
  works  : AMap (List Launch) := [] -- by buffer: the launches that had saved teams at the cast point of its Cast (R114)
  reps   : AMap Replica := []
  errs   : List ErrRec := []
  errDropped : Bool := false
  deriving DecidableEq, Repr

/-- The context registers that are no context's own (05 R105; 18 R374). -/
structure CtxRegs where
  idx     : Nat := 0
  op      : Nat := 0
  hostkid : Nat := 1
  repidx  : Nat := 0
  deriving DecidableEq, Repr

/-- A thread parked in LAUNCHW, with its partner in a protected launch: the record and constants read at issue (06 R123; 20 R434). -/
structure Parked where
  refs : List Nat
  ctx  : Nat
  rc   : LaunchRec
  k    : List Dword
  addr : Dword
  deriving DecidableEq, Repr

/-- Scheduler state of a die (06 R123, R139). -/
structure Sched where
  preen  : Bool := true
  resv   : Nat := 20
  pre    : Nat := 0
  lastHost : Bool := true      -- the last grant of an entry went to a host queue, so a parked thread is next
  parked : List Parked := []   -- threads parked in LAUNCHW, in order
  deriving DecidableEq, Repr

/-- A fault record (08 R169) and those who wait for its answer. -/
structure FaultRec where
  id   : Nat
  ctx  : Nat
  va   : Nat
  kind : Nat
  tlb  : Nat
  read : Bool := false
  deriving DecidableEq, Repr

/-- The fault queue and its registers on a die (08 R169). -/
structure Faults where
  recs   : List FaultRec := []
  ovf    : Bool := false
  valo   : Word := 0
  info   : Word := 0
  fail   : Bool := false
  respid : Byte := 0
  deriving DecidableEq, Repr

/-- A TLB entry (08 R165): context, page base, page size, physical base, permissions. -/
structure TlbEntry where
  ctx  : Nat
  va   : Nat
  size : Nat
  pa   : Nat
  (w x host : Bool)
  use  : Nat
  pins : List Nat := []       -- the launches that pin an instruction page
  deriving DecidableEq, Repr

/-- An entry of a Chisel cache (12 R261, R262). -/
structure ChEntry where
  ctx  : Nat
  rc   : List Word
  coord : Dword
  fmt  : Word
  cl   : Nat
  m    : Nat
  version : Nat := 0
  dense : Bool := false
  stale : Bool := false
  ops  : List Word := []
  watch : List Loc := []
  use  : Nat := 0
  busy : Option Nat := none   -- the operation that compiles into the entry (12 R265)
  late : Bool := false        -- the compile in progress is stale (12 R266)
  fresh : Bool := false       -- no compile into the entry has ended yet
  serve : List Nat := []      -- the CHRUNs that reached the compile before it became stale
  deriving DecidableEq, Repr

/-- The engines and counters of a core. -/
structure Core where
  seq   : List Nat := []      -- the sequencer's queue, oldest first (11 R233)
  run    : Option Nat := none -- the operation that the sequencer runs
  drains : List Nat := []     -- drains that hold a buffer (11 R237)
  loadq : List Nat := []      -- block-transfer queues (11 R240)
  storeq : List Nat := []
  chisel : List ChEntry := []
  (comp hit stale dense : Nat := 0)  -- CHSTAT (12 R268)
  (ce rb psn : Nat := 0)  -- SPADERR (08 R179)
  deriving DecidableEq, Repr

/-! ## The issue context -/

/-- A lane of the bundle that issues: its thread and that thread as it stood before the chain (14 R292).
DESIGN CHOICE, safe: notes/assumptions/6.md. -/
structure Lane where
  ref : Nat
  pre : Thread
  deriving DecidableEq, Repr

/-- Why a lane of the bundle does not complete (07 R152). -/
inductive Excuse where
  | trap (cause : Byte) (info : Word) (addr : Dword)
  | fault (va kind tlb : Nat)
  | notReady
  | block (k : Nat)     -- XACQ parks: the team pool has no free block for block number k (07 R155)
  | await (e : Event)   -- not ready until an event has brought a word that its home holds back (03 R82)
  deriving DecidableEq, Repr

/-- The bundle that issues (06 R132): the lanes whose guard is true, those whose guard is false or poisoned, the lanes that have
left it, the word being executed, and the events that its lanes will have caused when the chain ends.
DESIGN CHOICE, safe: notes/assumptions/6.md. -/
structure Issue where
  act  : List Lane := []
  off  : List Lane := []
  bad  : List Lane := []    -- lanes with a poisoned guard, which consume it once the checks of the whole bundle have passed
  full : List Lane := []    -- the lanes whose guard is true, those that have left included
  all  : List Nat := []
  first : Nat := 0          -- the next identifier as the chain begins: older requests are earlier accesses
  teams : AMap Team := []   -- the teams as they stood before the chain
  cycle : Nat := 0          -- the cycle of the window
  left : List (Nat × Excuse) := []
  pc   : BitVec 57 := 0     -- the first word of the chain
  here : BitVec 57 := 0     -- the word being executed
  word : Word := 0
  fla  : Nat := 15
  flb  : Nat := 15
  uncounted : Bool := false -- a tile instruction whose presence guard is empty: not counted for wear (12 R256)
  hold : List (Nat × Nat) := [] -- lanes whose access follows the publication of a log, and its request (09 R203)
  out  : List (Nat × Event) := []
  deriving DecidableEq, Repr

/-- A bundle formed and not yet issued (06 R132): the cycle of the window in which it issues, the PC of its threads, and its
threads. -/
structure Bundle where
  cycle : Nat
  pc    : BitVec 57
  refs  : List Nat
  deriving DecidableEq, Repr

/-- The state of the package. -/
structure State where
  cyc     : Nat := 0
  threads : AMap Thread := []
  teams   : AMap Team := []
  launches : AMap Launch := []
  scheds  : AMap Sched := []
  cores   : AMap Core := []
  tlbs    : AMap (List TlbEntry) := []   -- by core * 4 + TLB field
  faults  : AMap Faults := []            -- by die
  reqs    : AMap Req := []
  ops     : AMap Op := []
  mem     : MemSys := {}
  power   : Power := {}
  wear    : Wear := {}
  arm     : Arm := {}
  hub     : Hub := {}
  ctxs    : AMap Ctx := [(0, { state := .live, key := some 0 })]
  ctxregs : CtxRegs := {}
  issue   : Issue := {}
  bundles : List Bundle := []            -- bundles formed and not yet issued, by cycle of the window
  agenda  : List Event := []
  after   : AMap (List Event) := []      -- what follows the end of a request, by request
  ev      : EvArgs := {}                 -- the operand of the event being executed
  free    : Nat := 1                     -- counts the free values and draws taken
  nextId  : Nat := 1
  deriving DecidableEq, Repr

/-- The machine right after reset: every field at the value that the register maps and element tables give. The log names the values
for which the spec states none.
DESIGN CHOICE, unsafe: notes/assumptions/1.md. -/
def State.reset : State := {}

/-- Why the machine stops with a fault. The spec describes no condition that stops the package, so there is none. -/
inductive Fault where
  deriving DecidableEq, Repr

/-- Why an instruction has no meaning. -/
inductive Refusal where
  /-- The instruction has no meaning in this model yet. Raised by the arms of Machine/Dispatch.lean only; safe. -/
  | notModelled (mnemonic : String)
  deriving DecidableEq, Repr

end Sys2Proof.Machine
end

