-- ==== Sys2Proof/Machine/Ops.lean ====
section
/-!
DEFINITION. Machine/Ops.lean: the named operations over threads, teams and launches; pushes and named writes; and the one
operation by which a lane leaves its bundle: a trap, a page fault, or not being ready.
-/

namespace Sys2Proof.Machine

/-! ## Threads, teams, launches -/

/-- The thread at a place. -/
def State.thread (s : State) (r : Nat) : Thread := aget {} s.threads r

/-- Replaces a thread. -/
def State.setThread (s : State) (r : Nat) (t : Thread) : State := { s with threads := aset s.threads r t }

/-- Changes a thread. -/
def State.modThread (s : State) (r : Nat) (f : Thread → Thread) : State := s.setThread r (f (s.thread r))

/-- What stands at a place: a lane of a group, an access-processor program, a steward. -/
inductive RefKind where
  | lane | ap | steward
  deriving DecidableEq, Repr

/-- The kind of a place. -/
def refKind (r : Nat) : RefKind := if r % 4 = 0 then .lane else if r % 4 = 1 then .ap else .steward

/-- The team of a lane or of an access-processor program; 0, which names no team, for a steward. -/
def refTeam (r : Nat) : Nat := if r % 4 = 0 then r / 4 / 512 else if r % 4 = 1 then r / 4 else 0

/-- The group of a lane. -/
def refGrp (r : Nat) : Nat := r / 4 / 32 % 16

/-- The physical lane index of a lane. -/
def refLane (r : Nat) : Nat := r / 4 % 32

/-- The SID of a steward. -/
def refSid (r : Nat) : Nat := r / 4

/-- Stands for a team that does not exist. -/
def noTeam : Team := { launch := 0, ctx := 0, core := 0, tid := 0, coh := 0, ix := 0, slot := 0, groups := [] }

/-- The team with an identifier. -/
def State.team (s : State) (u : Nat) : Team := aget noTeam s.teams u

/-- A team's issue is not stopped. -/
def Team.issues (t : Team) : Bool := t.halt.isNone && !t.shadow

/-- Changes a team, if it exists. -/
def State.modTeam (s : State) (u : Nat) (f : Team → Team) : State :=
  match aget? s.teams u with
  | some t => { s with teams := aset s.teams u (f t) }
  | none => s

/-- Stands for a launch record that does not exist. -/
def noRec : LaunchRec :=
  { code := 0, trap := 0, kconst := 0, cplt := 0, deps := [], teams := 1, groups := 1, cohort := 1, producer := 0xFF,
    attr := 0, xpool := 0, acc := 0, bars := 0, spad := 0, counts := 0, save := 0, slots := 1 }

/-- Stands for a launch that does not exist. -/
def noLaunch : Launch := { die := 0, ctx := 0, rc := noRec, k := [], entered := 0, addr := 0 }

/-- The launch with an identifier. -/
def State.launch (s : State) (u : Nat) : Launch := aget noLaunch s.launches u

/-- Changes a launch, if it exists. -/
def State.modLaunch (s : State) (u : Nat) (f : Launch → Launch) : State :=
  match aget? s.launches u with
  | some t => { s with launches := aset s.launches u (f t) }
  | none => s

/-- The launch of a lane or of an access-processor program. -/
def State.launchOf (s : State) (r : Nat) : Launch := s.launch (s.team (refTeam r)).launch

/-- The attributes of a launch (06 R118). -/
def Launch.protect (l : Launch) : Bool := l.rc.attr.getLsbD 0

/-- The rollback attribute. -/
def Launch.rollback (l : Launch) : Bool := l.rc.attr.getLsbD 1

/-- The resident attribute. -/
def Launch.resident (l : Launch) : Bool := l.rc.attr.getLsbD 2

/-- The shape-menu attribute. -/
def Launch.shapemenu (l : Launch) : Bool := l.rc.attr.getLsbD 3

/-- The priority. -/
def Launch.prio (l : Launch) : Nat := bitsOf l.rc.attr 6 4

/-- Whether a lane or access-processor program belongs to a protected launch. -/
def State.isProtected (s : State) (r : Nat) : Bool := (s.launchOf r).protect

/-- Whether a lane or access-processor program belongs to a rollback launch. -/
def State.isRollback (s : State) (r : Nat) : Bool := refKind r != .steward && (s.launchOf r).rollback

/-- The visible lane index: l, or l / 2 in protected mode (07 R142). -/
def State.visLane (s : State) (r : Nat) : Nat := if s.isProtected r then refLane r / 2 else refLane r

/-- The context of a thread; stewards belong to context 0 (05 R104).
DEDUCED, unsafe: notes/assumptions/100.md. -/
def State.ctxOf (s : State) (r : Nat) : Nat :=
  match refKind r with
  | .steward => 0
  | _ => (s.team (refTeam r)).ctx

/-- The core of a thread; for a steward, the first core of its die. -/
def State.coreOf (s : State) (r : Nat) : Nat :=
  match refKind r with
  | .steward => if 1 ≤ refSid r ∧ refSid r ≤ 4 then (refSid r - 1) * 40 else 0
  | _ => (s.team (refTeam r)).core

/-- The die of a core. -/
def dieOfCore (c : Nat) : Nat := c / 40

/-- The component that stamps a thread's writes (09 R190; 14 R301): 0 to 3 dies, 4 H, 5 P. -/
def State.compOf (s : State) (r : Nat) : Nat :=
  match refKind r with
  | .steward => if refSid r = 0 ∨ refSid r = secSid then 4 else if refSid r ≤ 4 then refSid r - 1 else 5
  | _ => dieOfCore (s.coreOf r)

/-- The core whose L1 a thread's accesses go through; a steward has none. -/
def State.coreFor (s : State) (r : Nat) : Option Nat :=
  match refKind r with
  | .steward => none
  | _ => some (s.coreOf r)

/-- The context with a number. -/
def State.ctx (s : State) (c : Nat) : Ctx := aget {} s.ctxs c

/-- Changes a context. -/
def State.modCtx (s : State) (c : Nat) (f : Ctx → Ctx) : State := { s with ctxs := amod {} s.ctxs c f }

/-- A core's engines. -/
def State.core (s : State) (c : Nat) : Core := aget {} s.cores c

/-- Changes a core's engines. -/
def State.modCore (s : State) (c : Nat) (f : Core → Core) : State := { s with cores := amod {} s.cores c f }

/-- The scheduler of a die. -/
def State.sched (s : State) (d : Nat) : Sched := aget {} s.scheds d

/-- Changes the scheduler of a die. -/
def State.modSched (s : State) (d : Nat) (f : Sched → Sched) : State := { s with scheds := amod {} s.scheds d f }

/-- The memory side of the state. -/
def State.modMem (s : State) (f : MemSys → MemSys) : State := { s with mem := f s.mem }

/-- Changes the hub. -/
def State.modHub (s : State) (f : Hub → Hub) : State := { s with hub := f s.hub }

/-- Changes the power sequencer. -/
def State.modPower (s : State) (f : Power → Power) : State := { s with power := f s.power }

/-- The wear record of a core. -/
def State.coreRec (s : State) (c : Nat) : CoreRec := aget {} s.wear.recs c

/-- Changes the item at a place of a list. -/
def modAt {α : Type} : List α → Nat → (α → α) → List α
  | [], _, _ => []
  | x :: xs, 0, f => f x :: xs
  | x :: xs, n + 1, f => x :: modAt xs n f

/-- Changes a group of a team. -/
def Team.modGroup (t : Team) (g : Nat) (f : Group → Group) : Team := { t with groups := modAt t.groups g f }

/-- The places of the lanes of a group, rising. -/
def groupRefs (u g : Nat) : List Nat := (List.range 32).map (laneRef u g)

/-- The places of the lanes of a team, rising. -/
def teamRefs (u groups : Nat) : List Nat := (List.range groups).flatMap (groupRefs u)

/-- The live threads of a group (07 R141). -/
def State.liveRefs (s : State) (u g : Nat) : List Nat := (groupRefs u g).filter fun r => !(s.thread r).exited

/-- Clears a group's converged bit (07 R144). -/
def State.diverge (s : State) (r : Nat) : State :=
  if refKind r = .lane then s.modTeam (refTeam r) fun t => t.modGroup (refGrp r) fun g => { g with conv := false } else s

/-! ## Identifiers, free values, events -/

/-- A new identifier. -/
def State.fresh (s : State) : Nat × State := (s.nextId, { s with nextId := s.nextId + 1 })

/-- A free value (DESIGN CHOICE, safe: notes/assumptions/4.md). -/
def State.takeFree (s : State) : Dword × State := (Config.freeValue s.free, { s with free := s.free + 1 })

/-- A draw of a random source: its number and its outcome.
DESIGN CHOICE, safe: notes/assumptions/4.md. -/
def State.takeDraw (s : State) : Nat × State := (s.free, { s with free := s.free + 1 })

/-- Puts events before the agenda's events.
DESIGN CHOICE, unsafe: notes/assumptions/5.md. -/
def State.prepend (s : State) (es : List Event) : State := { s with agenda := es ++ s.agenda }

/-- Puts events after the agenda's events. -/
def State.append (s : State) (es : List Event) : State := { s with agenda := s.agenda ++ es }

/-- An event with an operand. -/
def event (op : Instr) (arg : EvArgs := {}) : Event := { op := op, arg := arg }

/-- Events that follow the end of a request. -/
def State.follow (s : State) (id : Nat) (es : List Event) : State := { s with after := amod [] s.after id (· ++ es) }

/-- Events that a lane of the bundle causes, if its chain completes in that lane (07 R152). -/
def State.emitNow (s : State) (r : Nat) (es : List Event) : State :=
  { s with issue := { s.issue with out := s.issue.out ++ es.map fun e => (r, e) } }

/-- An event that a lane of the bundle causes; after the publication of a log, where the lane's access follows one (09 R203). -/
def State.emit (s : State) (r : Nat) (e : Event) : State :=
  match s.issue.hold.find? fun p => p.1 == r with
  | some p => s.follow p.2 [e]
  | none => s.emitNow r [e]

/-- Emits events for a lane. -/
def State.emitAll (s : State) (r : Nat) (es : List Event) : State := es.foldl (fun s e => s.emit r e) s

/-- A request is a thread's own; a word burst is each of its lanes', and the publication of a log is every thread's of its team. -/
def Req.by (x : Req) (r : Nat) : Bool := x.ref == r || x.lanes.contains r || (x.kind == .publish && refTeam x.ref == refTeam r)

/-- The lane that makes a lane's accesses: in a protected launch the primary of its pair (07 R143). -/
def State.primary (s : State) (r : Nat) : Nat := if refKind r = .lane ∧ s.isProtected r ∧ refLane r % 2 = 1 then r - 4 else r

/-- Enters a record in a context's error queue (20 R438). -/
def State.errRecord (s : State) (c cause kind : Nat) (tid : Word) (addr : Dword) : State :=
  s.modCtx c fun x =>
    if x.errs.length < 64 then
      { x with errs := x.errs ++ [{ cause := cause, kind := kind, dropped := x.errDropped, tid := tid, addr := addr }],
               errDropped := false }
    else { x with errDropped := true }

/-- Raises an MSI-X vector (04 R86).
DESIGN CHOICE, safe: notes/assumptions/89.md. -/
def State.interrupt (s : State) (v : Nat) : State := s.modHub fun h => { h with irq := setBit h.irq v true, msix := v :: h.msix }

/-- Posts an event to the mailbox (04 R90, R92): code, source, argument. -/
def State.postMbx (s : State) (code src : Nat) (arg : Word) : State :=
  if s.hub.evq.length < 64 then
    let s := s.modHub fun h => { h with evq := h.evq ++ [(code, src, arg)] }
    if s.hub.irqen then s.interrupt 0 else s
  else s.modHub fun h => { h with evovf := true }

/-! ## Pushes and named writes -/

/-- A push to a result queue (07 R150): q15 is discarded and the value becomes q0. -/
def pushQ (q : Vector Val 16) (v : Val) : Vector Val 16 := ⟨((v :: q.toList).take 16).toArray, by simp⟩

/-- A push in a thread. -/
def State.push (s : State) (r : Nat) (v : Val) : State := s.modThread r fun t => { t with q := pushQ t.q v }

/-- The mapping of a block number of a group (07 R155). -/
def Group.xmap (g : Group) (k : Nat) : Option XMap := if k = 0 then g.x0 else if k = 1 then g.x1 else g.x2

/-- Replaces the mapping of a block number of a group. -/
def Group.setXmap (g : Group) (k : Nat) (x : Option XMap) : Group :=
  if k = 0 then { g with x0 := x } else if k = 1 then { g with x1 := x } else { g with x2 := x }

/-- Stands for a group that does not exist. -/
def noGroup : Group := { la := 0, slot := 0 }

/-- The group of a lane, in a given team. -/
def Team.groupOf (t : Team) (r : Nat) : Group := t.groups.getD (refGrp r) noGroup

/-- The physical block that holds a block number for a lane, if the lane holds it (07 R155). -/
def Team.heldBlock (t : Team) (r k : Nat) : Option Nat :=
  match (t.groupOf r).xmap k with
  | some x => if x.holders.getLsbD (refLane r) then some x.phys else none
  | none => none

/-- The place of an extended register of a lane in its team (07 R154). -/
def extKey (phys i l : Nat) : Nat := (phys * 16 + i % 16) * 32 + l

/-- WriteDest (14 R308): the named write of a value. The block of an extended register is one that the lane holds. -/
def State.writeDest (s : State) (r : Nat) (d : Dst) (v : Val) : State :=
  match d with
  | .none => s
  | .reg (.n i) => s.modThread r fun t => { t with n := t.n.set i v }
  | .reg (.e i) =>
    s.modTeam (refTeam r) fun t =>
      match t.heldBlock r (i.val / 16) with
      | some b => { t with ext := aset t.ext (extKey b i.val (refLane r)) v }
      | none => t

/-- PushResult and WriteDest of one value (14 R308). -/
def State.produce (s : State) (r : Nat) (d : Dst) (v : Val) : State := (s.push r v).writeDest r d v

/-! ## Taking an exception -/

/-- The events that abort a launch (13 R276): its identifier, the CAUSE word, the linear id of the team. -/
def abortEvent (launch : Nat) (cause : Nat) (tid : Word) : Event :=
  { op := .launchAbort, arg := { id := launch, val := BitVec.ofNat 32 cause, tid := tid } }

/-- The event that rolls a team back (13 R281): its team, the cause, and whether the trigger came from handler mode. -/
def rollbackEvent (team : Nat) (cause : Byte) (handler : Bool) : Event :=
  { op := .rollback, arg := { id := team, cause := cause.toNat, keep := handler } }

/-- Enters a trigger of 13 R272, before what else is to be done: triggers of one team merge into the one that stands. -/
def addRollback (e : Event) (es : List Event) : List Event :=
  if es.any fun x => x.op = .rollback ∧ x.arg.id = e.arg.id then
    es.map fun x => if x.op = .rollback ∧ x.arg.id = e.arg.id then { x with arg := { x.arg with keep := x.arg.keep || e.arg.keep } } else x
  else e :: es

/-- A completion flag of a thread clears (14 R289); 15 names none. -/
def State.clearFlag (s : State) (r flag : Nat) : State :=
  if flag < 12 then s.modThread r fun t => { t with cf := setBit t.cf flag false } else s

/-- A flag clears in lanes (14 R289). -/
def State.clearFlags (s : State) (lanes : List Nat) (flag : Nat) : State := lanes.foldl (fun s r => s.clearFlag r flag) s

/-- The end of an access-processor program (12 R248), with its cause. The flag of an APGO that still waits for the first
instruction clears. -/
def State.apEnd (s : State) (u : Nat) (cause : Byte) : State :=
  let s := match (s.team u).ap.started with
    | some (rs, f) => s.clearFlags rs f
    | none => s
  s.modTeam u fun t => { t with ap := { t.ap with running := false, ended := true, status := cause, started := none,
                                                  branches := [] } }

/-- Whether a cause starts the rollback ladder in a rollback launch (13 R272). -/
def ladderCause (c : Byte) : Bool := c == 0x11 || c == 0x12

/-- A trigger of 13 R272 in a rollback launch. What it does is judged next, or at the end of the bundle that raises it: an escape made by
another lane of the bundle counts as earlier (R281). -/
def State.ladder (s : State) (u : Nat) (c : Byte) (inHandler : Bool) : State :=
  { s with agenda := addRollback (rollbackEvent u c inHandler) s.agenda }

/-- What a trap saves in its thread (13 R273): XCAUSE, XINFO, XADDR, XPC and XQ; handler mode is set. -/
def Thread.saveTrap (t : Thread) (pc : BitVec 57) (c : Byte) (info : Word) (addr : Dword) : Thread :=
  { t with xcause := c, xinfo := info, xaddr := addr, xpc := ofVa pc, xq := t.q, handler := true, park := .none, redo := none,
           back := none }

/-- The thread after it enters its handler (13 R273): XCAUSE, XINFO, XADDR, XPC and XQ saved, handler mode set, and the PC
at slot 1 of the packet at `target`. -/
def Thread.enterHandler (t : Thread) (target : Dword) (pc : BitVec 57) (c : Byte) (info : Word) (addr : Dword) : Thread :=
  { t.saveTrap pc c info addr with pc := target.setWidth 57 + 4, entered := true }

/-- Taking a trap (13 R271 to R276; 12 R248, R283; 14 R301), in the thread at `r` as it stood before its chain, at the
chain that begins at `pc`. An outstanding tile instruction of the thread's group stops (11 R235).
DEDUCED, unsafe: notes/assumptions/100.md.
DEDUCED, unsafe: notes/assumptions/117.md. -/
def State.takeTrap (s : State) (r : Nat) (pre : Thread) (pc : BitVec 57) (c : Byte) (info : Word) (addr : Dword) : State :=
  match refKind r with
  | .ap =>
    let info := if c == 0x11 then info ||| 1 else info
    let s := s.setThread r { pre with xcause := c, xinfo := info, xaddr := addr, xpc := ofVa pc }
    if ladderCause c && s.isRollback r then s.ladder (refTeam r) c false else s.apEnd (refTeam r) c
  | .steward => s.setThread r (pre.enterHandler (aget 0 s.hub.xvec (refSid r)) pc c info addr)
  | .lane =>
    let l := s.launchOf r
    let t := s.team (refTeam r)
    if ladderCause c && l.rollback then (s.setThread r pre).ladder (refTeam r) c pre.handler
    else if pre.handler then
      (s.setThread r pre).prepend [abortEvent t.launch (c.toNat + 256) (BitVec.ofNat 32 t.tid)]
    else
      let t' := if l.rc.trap = 0 then pre.saveTrap pc c info addr else pre.enterHandler l.rc.trap pc c info addr
      let s := (s.setThread r t').diverge r
      let s := s.modTeam (refTeam r) fun t => t.modGroup (refGrp r) fun g => { g with stopped := g.stopped || g.tile.isSome }
      if l.rc.trap = 0 then s.prepend [abortEvent t.launch c.toNat (BitVec.ofNat 32 t.tid)] else s

/-- The address of the slot that follows (14 R284). -/
def nextSlot (pc : BitVec 57) : BitVec 57 := if bitsOf pc 3 2 = 3 then pc + 8 else pc + 4

/-- The packet of an address (14 R284). -/
def packetOf (pc : BitVec 57) : BitVec 57 := pc &&& ~~~(0xF : BitVec 57)

/-- The thread after TRAPRET (13 R275), with the PC it goes on at. -/
def Thread.leaveHandler (t : Thread) (pc : BitVec 57) : Thread :=
  { t with q := t.xq, handler := false, pc := pc, entered := true }

/-! ## Fault records -/

/-- The lowest record ID that no outstanding record of a die holds (08 R169). -/
def freeRecId (f : Faults) : Option Nat := (List.range 256).find? fun i => !(f.recs.any fun x => x.id == i)

/-- Queues a fault, or joins the outstanding record of the same context, kind and 4 KiB piece (08 R168, R169). The answer is
the record's ID, or 256 when the queue is full. -/
def State.queueFault (s : State) (d ctx va kind tlb : Nat) : Nat × State :=
  let f := aget {} s.faults d
  match f.recs.find? fun x => x.ctx == ctx && x.kind == kind && x.va == va / 4096 * 4096 with
  | some x => (x.id, s)
  | none =>
    match freeRecId f with
    | some i =>
      let rec' : FaultRec := { id := i, ctx := ctx, va := va / 4096 * 4096, kind := kind, tlb := tlb }
      let s := { s with faults := aset s.faults d { f with recs := f.recs ++ [rec'] } }
      (i, s.postMbx 0x06 d (BitVec.ofNat 32 i))
    | none => (256, { s with faults := aset s.faults d { f with ovf := true } })

/-- A thread no longer waits for what it was parked on: neither for a free block nor for an entry of a store. -/
def State.unpark (s : State) (r : Nat) : State :=
  let s := if refKind r = .lane then s.modTeam (refTeam r) fun t => { t with xwait := t.xwait.filter (· != r) } else s
  { s with scheds := amap s.scheds fun _ x => { x with parked := x.parked.filter fun p => !p.refs.contains r } }

/-- Parks a thread on a fault (08 R168), as it stood before its chain. -/
def State.parkFault (s : State) (r : Nat) (pre : Thread) (va kind tlb : Nat) : State :=
  let d := dieOfCore (s.coreOf r)
  let (i, s) := s.queueFault d (s.ctxOf r) va kind tlb
  (s.setThread r { pre with park := .fault d i va, replay := true }).diverge r

/-! ## Leaving a bundle -/

/-- The issue without a lane, which has left it with a reason. -/
def Issue.drop (i : Issue) (r : Nat) (x : Excuse) : Issue :=
  { i with act := i.act.filter (·.ref != r), off := i.off.filter (·.ref != r), bad := i.bad.filter (·.ref != r),
           left := i.left ++ [(r, x)], out := i.out.filter (·.1 != r) }

/-- Whether an access-processor program runs past an unresolved branch (12 R253). -/
def Team.speculative (t : Team) : Bool := !t.ap.branches.isEmpty

/-- What a lane leaves its bundle with: a trap or a fault of a speculative instruction is held until its branch resolves
(12 R253), so that the instruction tries again. -/
def State.heldBack (s : State) (r : Nat) (x : Excuse) : Excuse :=
  if refKind r = .ap ∧ (s.team (refTeam r)).speculative then .notReady else x

/-- The thread of a lane as it stood before its chain, which has issued: its wait count starts again (06 R131). -/
def Lane.issued (l : Lane) (cycle : Nat) : Thread := { l.pre with wait := 0, late := cycle }

/-- A lane leaves its bundle (07 R152): its thread stands as before the chain, and then takes the trap, parks on the fault,
or tries again.
DEDUCED, unsafe: notes/assumptions/20.md.
DEDUCED, unsafe: notes/assumptions/102.md. -/
def State.excuse (s : State) (l : Lane) (x : Excuse) : State :=
  let x := s.heldBack l.ref x
  let s := { s with issue := s.issue.drop l.ref x }
  match x with
  | .notReady => s.setThread l.ref l.pre
  | .await e => (s.setThread l.ref l.pre).prepend [e]
  | .trap c info addr => s.takeTrap l.ref (l.issued s.issue.cycle) s.issue.pc c info addr
  | .fault va kind tlb => s.parkFault l.ref (l.issued s.issue.cycle) va kind tlb
  | .block k =>
    ((s.setThread l.ref { l.issued s.issue.cycle with park := .xacq k }).modTeam (refTeam l.ref) fun t =>
      { t with xwait := t.xwait ++ [l.ref] }).diverge l.ref

/-- RaiseTrap (14 R308). -/
def trap (c : Byte) (info : Word := 0) (addr : Dword := 0) : Excuse := .trap c info addr

/-- Every active lane leaves the bundle with one reason. -/
def State.excuseAll (s : State) (x : Lane → Excuse) : State := s.issue.act.foldl (fun s l => s.excuse l (x l)) s

/-- The lanes of the bundle, with true and with false guard. -/
def Issue.lanes (i : Issue) : List Lane := i.act ++ i.off

/-- Every lane of the bundle that has not left it. -/
def Issue.everyone (i : Issue) : List Lane := i.act ++ i.off ++ i.bad

/-- Every thread of the bundle leaves it with one reason (13 R271, the last sentence). -/
def State.excuseBundle (s : State) (x : Excuse) : State := s.issue.everyone.foldl (fun s l => s.excuse l x) s

/-- Every thread of the bundle leaves it, each with a reason of its own (13 R271, the last sentence). -/
def State.excuseEach (s : State) (x : Lane → Excuse) : State := s.issue.everyone.foldl (fun s l => s.excuse l (x l)) s

/-- Every active lane of a team leaves the bundle with one reason (06 R463).
DEDUCED, unsafe: notes/assumptions/74.md. -/
def State.excuseTeam (s : State) (u : Nat) (x : Excuse) : State :=
  s.issue.act.foldl (fun s l => if refTeam l.ref = u then s.excuse l x else s) s

/-- Runs an effect in each active lane, in increasing order. -/
def State.forLanes (s : State) (f : State → Lane → State) : State := s.issue.act.foldl f s

/-- What lanes whose guard is false do in an instruction that produces a value: each pushes a copy of its q0 (07 R151).
DEDUCED, unsafe: notes/assumptions/121.md. -/
def State.pushOff (s : State) : State := s.issue.off.foldl (fun s l => s.push l.ref (l.pre.q[0])) s

/-- The teams that have an active lane in the bundle, in the order of their lowest active lane. -/
def State.actTeams (s : State) : List Nat := (s.issue.act.map fun l => refTeam l.ref).eraseDups

/-- The lowest active lane of a team in the bundle (06 R463). -/
def State.lowest (s : State) (u : Nat) : Option Lane := s.issue.act.find? fun l => refTeam l.ref = u

end Sys2Proof.Machine
end

