-- ==== Sys2Proof/Machine/Operands.lean ====
section
/-!
DEFINITION. Machine/Operands.lean: every source and destination form (14 R293, R294), read as it stood before the chain
(R292), with the traps and waits that reading it can cause.
-/

namespace Sys2Proof.Machine

/-- What reading an operand gives: a value, or the reason why the lane does not complete. -/
inductive Rd where
  | ok (v : Val)
  | bad (x : Excuse)
  deriving DecidableEq, Repr

/-- A value that may not be produced yet (07 R150). -/
def ready (v : Val) : Rd := if v.pend.isSome then .bad .notReady else .ok v

/-- An operand that is never poisoned (14 R293). -/
def plainVal (n : Nat) : Rd := .ok { v := BitVec.ofNat 64 n }

/-- The team of a lane as it stood before the chain. -/
def State.preTeam (s : State) (r : Nat) : Team := aget noTeam s.issue.teams (refTeam r)

/-- A queue's entry at the head of a lane, if one can be popped (12 R247). -/
def Feed.head (f : Feed) (lane : Nat) : Option FeedEntry :=
  match f.entries[max (aget f.base f.heads lane) f.base - f.base]? with
  | some e => if e.spec then none else some e
  | none => none

/-- The value that a lane pops from an entry (12 R247): 0 without poison where the validity bit is 0. -/
def FeedEntry.laneVal (e : FeedEntry) (lane : Nat) : Val :=
  if e.mask.getLsbD lane then e.vals.getD lane {} else {}

/-- A gather of a team to a queue is in flight. -/
def State.gathering (s : State) (u dq : Nat) : Bool :=
  s.ops.any fun p => match p.2 with
    | .gather o => o.team == u && o.dq == dq
    | _ => false

/-- Nothing is left to pop in a queue for a lane that finds no entry (12 R248): the program has ended, and no gather of it is still to
push there. -/
def State.feedOver (s : State) (u dq : Nat) : Bool :=
  let a := (aget noTeam s.issue.teams u).ap
  a.ended && !a.running && !s.gathering u dq

/-- Reads a feed queue at a lane's head (12 R247, R248). -/
def State.readFeed (s : State) (r lane i : Nat) : Rd :=
  match (aget {} (s.preTeam r).dq i : Feed).head lane with
  | some e => ready (e.laneVal lane)
  | none => if s.feedOver (refTeam r) i then .bad (trap 0x0C (BitVec.ofNat 32 i)) else .bad .notReady

/-- Reads an extended register (07 R154, R155). -/
def Team.readExt (t : Team) (r : Nat) (i : Fin 48) : Rd :=
  match t.heldBlock r (i.val / 16) with
  | some b => ready (aget {} t.ext (extKey b i.val (refLane r)))
  | none => .bad (trap 0x0A (BitVec.ofNat 32 (i.val / 16)))

/-- Src (14 R293, R308): the value of a long specifier in a lane. -/
def readSrc (s : State) (l : Lane) : Src → Rd
  | .q i => ready l.pre.q[i]
  | .n i => ready l.pre.n[i]
  | .e i => (s.preTeam l.ref).readExt l.ref i
  | .k i => .ok { v := (s.launchOf l.ref).k.getD i.val 0 }
  | .zero => plainVal 0
  | .lane => plainVal (s.visLane l.ref)
  | .slot => plainVal ((s.preTeam l.ref).groupOf l.ref).slot
  | .quad => plainVal (s.visLane l.ref / 4)
  | .grp => plainVal (refGrp l.ref)
  | .team => plainVal (s.preTeam l.ref).ix
  | .coh => plainVal ((s.preTeam l.ref).coh % 2 ^ 32)
  | .tid => plainVal ((s.preTeam l.ref).tid % 2 ^ 32)
  | .dq i => s.readFeed l.ref (s.visLane l.ref) i.val

/-- The rank of a reason in the order of 13 R271; not being ready comes first, since the chain does not issue. -/
def Excuse.rank : Excuse → Nat
  | .notReady => 0
  | .await _ => 0
  | .trap c _ _ =>
    match c.toNat with
    | 0x01 => 1
    | 0x10 => 2
    | 0x02 => 3
    | 0x03 => 4
    | 0x04 => 5
    | 0x05 => 5
    | 0x0A => 6
    | 0x0C => 7
    | 0x11 => 8
    | 0x12 => 9
    | 0x06 => 10
    | 0x07 => 11
    | 0x08 => 12
    | 0x0B => 13
    | 0x0D => 14
    | 0x0E => 15
    | _ => 16
  | .fault _ _ _ => 17
  | .block _ => 18

/-- The reason that comes first in the order of 13 R271. -/
def firstExcuse : List Excuse → Option Excuse
  | [] => none
  | x :: xs =>
    match firstExcuse xs with
    | none => some x
    | some y => if x.rank ≤ y.rank then some x else some y

/-- The reasons among readings. -/
def badOnes : List Rd → List Excuse
  | [] => []
  | .ok _ :: r => badOnes r
  | .bad x :: r => x :: badOnes r

/-- The values among readings. -/
def okOnes : List Rd → List Val
  | [] => []
  | .ok v :: r => v :: okOnes r
  | .bad _ :: r => okOnes r

/-- What a destination needs: an extended register must lie in a block that the lane holds (07 R155). -/
def checkDest (s : State) (l : Lane) : Dst → List Excuse
  | .reg (.e i) => if ((s.preTeam l.ref).heldBlock l.ref (i.val / 16)).isSome then [] else
      [trap 0x0A (BitVec.ofNat 32 (i.val / 16))]
  | _ => []

/-- Reads sources and checks a destination: the values in order, or the reason that comes first. -/
def readAll (s : State) (l : Lane) (srcs : List Src) (d : Dst) : Except Excuse (List Val) :=
  let rs := srcs.map (readSrc s l)
  match firstExcuse (badOnes rs ++ checkDest s l d) with
  | some x => .error x
  | none => .ok (okOnes rs)

/-- Frees the entries before a position; a speculative one and those behind it stay. -/
def Feed.freeTo (f : Feed) (low : Nat) : Feed :=
  let low := min low (f.base + (f.entries.takeWhile fun e => !e.spec).length)
  { f with entries := f.entries.drop (low - f.base), base := low,
           gone := f.gone ++ (f.entries.take (low - f.base)).map (·.instr) }

/-- Every reading of a feed queue pops one entry for the lane (12 R247); in protected mode the primary pops for both. An
entry that every lane has popped is freed. -/
def Feed.pop (f : Feed) (lane lanes : Nat) : Feed :=
  let h := max (aget f.base f.heads lane) f.base
  let f := { f with heads := aset f.heads lane (h + 1) }
  f.freeTo ((List.range lanes).foldl (fun m l => min m (max (aget f.base f.heads l) f.base)) (h + 1))

/-- The pops of an instruction's sources, when it completes in a lane. -/
def popSrcs (s : State) (l : Lane) (srcs : List Src) : State :=
  srcs.foldl (fun s x =>
    match x with
    | .dq i =>
      let prot := s.isProtected l.ref
      if prot && refLane l.ref % 2 = 1 then s
      else s.modTeam (refTeam l.ref) fun t =>
        { t with dq := amod {} t.dq i.val fun f => f.pop (s.visLane l.ref) (if prot then 16 else 32) }
    | _ => s) s

/-- Whether any operand is poisoned (07 R157). -/
def anyPsn (vs : List Val) : Bool := vs.any (·.psn)

/-- The i-th value. -/
def argAt (vs : List Val) (i : Nat) : Dword := (vs.getD i {}).v

/-- One lane of an instruction that computes a value from sources: reads them, pushes the value with the poison of any of
them, and writes the destination (14 R308; 07 R157). -/
def valueLane (srcs : List Src) (d : Dst) (f : List Val → Dword) (s : State) (l : Lane) : State :=
  match readAll s l srcs d with
  | .error x => s.excuse l x
  | .ok vs => (popSrcs s l srcs).produce l.ref d { v := f vs, psn := anyPsn vs }

/-- An instruction that computes a value from sources, in every lane (07 R150, R151). -/
def valueOp (srcs : List Src) (d : Dst) (f : List Val → Dword) (s : State) : State :=
  (s.forLanes (valueLane srcs d f)).pushOff

/-- An instruction with one source. -/
def unOp (a : Src) (d : Dst) (f : Dword → Dword) (s : State) : State :=
  valueOp [a] d (fun vs => f (argAt vs 0)) s

/-- An instruction with two sources. -/
def binOp (a b : Src) (d : Dst) (f : Dword → Dword → Dword) (s : State) : State :=
  valueOp [a, b] d (fun vs => f (argAt vs 0) (argAt vs 1)) s

/-- An instruction with three sources. -/
def triOp (a b c : Src) (d : Dst) (f : Dword → Dword → Dword → Dword) (s : State) : State :=
  valueOp [a, b, c] d (fun vs => f (argAt vs 0) (argAt vs 1) (argAt vs 2)) s

/-- Writes a predicate with its poison bit; writes to p0 are ignored (07 R156). -/
def Thread.setPred (t : Thread) (i : Fin 8) (v psn : Bool) : Thread :=
  if i.val = 0 then t else { t with p := setBit t.p i.val v, pp := setBit t.pp i.val psn }

/-- The value of a predicate; p0 reads true (07 R156). -/
def Thread.pred (t : Thread) (i : Fin 8) : Bool := i.val == 0 || t.p.getLsbD i.val

/-- The poison bit of a predicate; p0 is never poisoned. -/
def Thread.predPsn (t : Thread) (i : Fin 8) : Bool := i.val != 0 && t.pp.getLsbD i.val

/-- Consume (14 R308): the trap of a poisoned value (07 R157). -/
def consume (vs : List Val) : List Excuse := if anyPsn vs then [trap 0x11] else []

/-- Reads sources that are consumed (07 R157). -/
def readConsumed (s : State) (l : Lane) (srcs : List Src) : Except Excuse (List Val) :=
  match readAll s l srcs .none with
  | .error x => .error x
  | .ok vs => if anyPsn vs then .error (trap 0x11) else .ok vs

end Sys2Proof.Machine
end

