-- ==== Sys2Proof/Machine/Feed.lean ====
section
/-!
DEFINITION. Machine/Feed.lean: completion flags (14 R289), values that arrive for pending entries (07 R150), feed queues and the
settled state of access-processor programs (12 R247, R253 to R255).
-/

namespace Sys2Proof.Machine

/-! ## Completion flags -/

/-- The flag that an FS field selects (14 R289): 15 for none. -/
def Issue.flag (i : Issue) (fs : Bool) : Nat := if fs then i.flb else i.fla

/-- A flag is already set in a thread (14 R289). -/
def flagSet (t : Thread) (flag : Nat) : Bool := decide (flag < 12) && t.cf.getLsbD flag

/-- A flag is set in a lane that accepts the instruction (14 R289). -/
def State.setFlag (s : State) (r flag : Nat) : State :=
  if flag < 12 then s.modThread r fun t => { t with cf := setBit t.cf flag true } else s

/-! ## Values that arrive -/

/-- Puts an arrived value where it was awaited. -/
def Val.fill (id : Nat) (x : Val) (v : Val) : Val := if v.pend = some id then x else v

/-- Puts an arrived value into every register of a thread that awaits it. -/
def Thread.fill (t : Thread) (id : Nat) (x : Val) : Thread :=
  { t with q := t.q.map (Val.fill id x), n := t.n.map (Val.fill id x), xq := t.xq.map (Val.fill id x) }

/-- Delivers a value to a thread and to what hangs on it: its extended registers, and the saved states of an
access-processor program. -/
def State.deliver (s : State) (r id : Nat) (x : Val) : State :=
  let s := s.modThread r fun t => t.fill id x
  match refKind r with
  | .steward => s
  | .lane => s.modTeam (refTeam r) fun t => { t with ext := amap t.ext fun _ v => Val.fill id x v }
  | .ap =>
    s.modTeam (refTeam r) fun t =>
      { t with ap := { t.ap with settled := t.ap.settled.map fun y => y.fill id x,
                                 unsettled := t.ap.unsettled.map fun p => (p.1, p.2.fill id x),
                                 branches := t.ap.branches.map fun b => { b with saved := b.saved.fill id x } } }

/-! ## Feed queues -/

/-- The lanes that pop a team's queues: 32, or 16 in protected mode (12 R247). -/
def State.feedLanes (s : State) (u : Nat) : Nat := if (s.launch (s.team u).launch).protect then 16 else 32

/-- Frees the entries that every lane has popped (12 R247). -/
def Feed.release (f : Feed) (lanes : Nat) : Feed :=
  let low := (List.range lanes).foldl (fun m l => min m (max (aget f.base f.heads l) f.base)) (f.base + f.entries.length)
  f.freeTo low

/-- The entries younger than an instruction are discarded (12 R254); a drop that one of them has used up is given back. -/
def Feed.squash (f : Feed) (instr : Nat) : Feed :=
  let es := f.entries.filter fun e => e.instr ≤ instr
  let last := f.base + es.length
  let past := f.heads.filter fun p => last < p.2
  past.foldl (fun f p => { f with heads := aset f.heads p.1 last, drops := amod 0 f.drops p.1 (· + (p.2 - last)) })
    { f with entries := es }

/-- Pushes an entry; lanes that have entries to drop after a restore pass over it (12 R255). -/
def Feed.push (f : Feed) (e : FeedEntry) (lanes : Nat) : Feed :=
  let pos := f.base + f.entries.length
  let f := { f with entries := f.entries ++ [e] }
  let f := (List.range lanes).foldl (fun f l =>
    let d := aget 0 f.drops l
    if d = 0 then f
    else { f with heads := aset f.heads l (pos + 1), drops := if d = 1 then adel f.drops l else aset f.drops l (d - 1) }) f
  f.release lanes

/-- The number of entries that a lane can pop (20 R420). -/
def Feed.count (f : Feed) (lane : Nat) : Nat :=
  let h := max (aget f.base f.heads lane) f.base - f.base
  ((f.entries.drop h).takeWhile fun e => !e.spec).length

/-- A queue is full (12 R247). -/
def Feed.full (f : Feed) : Bool := 64 ≤ f.entries.length

/-- Pushes an entry to a team's queue. -/
def State.feedPush (s : State) (u dq : Nat) (vals : List Val) (mask : BitVec 32) (spec : Bool) (instr : Nat) : State :=
  let lanes := s.feedLanes u
  s.modTeam u fun t =>
    { t with dq := amod {} t.dq dq fun f => f.push { vals := vals, mask := mask, spec := spec, instr := instr } lanes }

/-! ## Settling (12 R255) -/

/-- Whether an entry that an instruction, or an older one, pushed has not been freed. -/
def Team.holdsEntry (t : Team) (k : Nat) : Bool := t.dq.any fun p => p.2.entries.any fun e => e.instr ≤ k

/-- Advances the settled state of an access-processor program over the instructions that have settled. -/
def settleList (t : Team) : List (Nat × Thread) → Option Thread → Option Thread × List (Nat × Thread)
  | [], x => (x, [])
  | (k, y) :: r, x => if t.holdsEntry k then (x, (k, y) :: r) else settleList t r (some y)

/-- The first instruction of a program that is not complete or still speculative (12 R255): of the unresolved branches and the gathers
under way. -/
def State.apOpen (s : State) (u : Nat) : Nat :=
  let a := (s.team u).ap
  s.ops.foldl (fun m p => match p.2 with
    | .gather o => if o.team = u then min m o.instr else m
    | _ => m) ((a.branches.map (·.instr)).foldl min a.count)

/-- Settles what can settle: instructions before the first that is open, and none while a load of the program is under way. -/
def State.apSettle (s : State) (u : Nat) : State :=
  if s.reqs.any fun p => p.2.ref = apRef u then s
  else
    let first := s.apOpen u
    s.modTeam u fun t =>
      let (x, r) := settleList t (t.ap.unsettled.filter fun p => decide (p.1 < first)) t.ap.settled
      let r := r ++ t.ap.unsettled.filter fun p => decide (first ≤ p.1)
      let from' := (r.map (·.1)).headD t.ap.count
      { t with ap := { t.ap with settled := x.map fun y => { y with cf := 0 }, unsettled := r },
               dq := amap t.dq fun _ f => { f with gone := f.gone.filter (from' ≤ ·) } }

/-- Every older instruction of the program has settled. -/
def State.apAllSettled (s : State) (u : Nat) : Bool := ((s.apSettle u).team u).ap.unsettled.isEmpty

/-- What the end of a chain does to an access-processor program: its instruction is counted, and the flag of the APGO that
started the program clears when the first has issued (20 R417). -/
def State.apRetire (s : State) (u : Nat) : State :=
  let s := match (s.team u).ap.started with
    | some (rs, f) => s.clearFlags rs f
    | none => s
  let th := s.thread (apRef u)
  s.modTeam u fun t =>
    { t with ap := { t.ap with started := none, count := t.ap.count + 1,
                               unsettled := t.ap.unsettled ++ [(t.ap.count, th)] } }

end Sys2Proof.Machine
end

