-- ==== Sys2Proof/Machine/Shape.lean ====
section
/-!
DEFINITION. Machine/Shape.lean: what the checks of a chain read of an instruction (14 R290, R291, R301): its named destination,
its flag select, its sources, its feed queues, its pipe class, and whether it belongs to the scalar profile.
-/

namespace Sys2Proof.Machine

/-- The register of a destination. -/
def dstReg : Dst → Option DReg
  | .none => none
  | .reg r => some r

/-- The named register that an instruction writes. -/
def instrDst : Instr → Option DReg
  | .movi _ d => dstReg d
  | .movh1 _ d => dstReg d
  | .movh2 _ d => dstReg d
  | .movh3 _ d => dstReg d
  | .put _ d => dstReg d
  | .sel _ _ _ d => dstReg d
  | .iadd _ _ d => dstReg d
  | .isub _ _ d => dstReg d
  | .imul _ _ d => dstReg d
  | .imulhI64 _ _ d => dstReg d
  | .imulhW64 _ _ d => dstReg d
  | .imad _ _ d => some d
  | .idivI64 _ _ d => dstReg d
  | .idivW64 _ _ d => dstReg d
  | .iremI64 _ _ d => dstReg d
  | .iremW64 _ _ d => dstReg d
  | .iminI64 _ _ d => dstReg d
  | .iminW64 _ _ d => dstReg d
  | .imaxI64 _ _ d => dstReg d
  | .imaxW64 _ _ d => dstReg d
  | .iabs _ d => dstReg d
  | .ilogAnd _ _ d => dstReg d
  | .ilogOr _ _ d => dstReg d
  | .ilogXor _ _ d => dstReg d
  | .ilogAndn _ _ d => dstReg d
  | .ishfShl _ _ d => dstReg d
  | .ishfShr _ _ d => dstReg d
  | .ishfSar _ _ d => dstReg d
  | .ishfRol _ _ d => dstReg d
  | .lea _ _ d => dstReg d
  | .ibitPopc _ d => dstReg d
  | .ibitClz _ d => dstReg d
  | .ibitCtz _ d => dstReg d
  | .ibitBrev _ d => dstReg d
  | .bfxI64 _ _ d => dstReg d
  | .bfxW64 _ _ d => dstReg d
  | .bfi _ _ d => some d
  | .iaddi _ _ d => dstReg d
  | .ilogiAnd _ _ d => dstReg d
  | .ilogiOr _ _ d => dstReg d
  | .ilogiXor _ _ d => dstReg d
  | .ilogiAndn _ _ d => dstReg d
  | .ishfiShl _ _ d => dstReg d
  | .ishfiShr _ _ d => dstReg d
  | .ishfiSar _ _ d => dstReg d
  | .ishfiRol _ _ d => dstReg d
  | .iext _ _ d => dstReg d
  | .fadd _ _ _ d => dstReg d
  | .fsub _ _ _ d => dstReg d
  | .fmul _ _ _ d => dstReg d
  | .fmin _ _ d => dstReg d
  | .fmax _ _ d => dstReg d
  | .fsgnCp _ _ d => dstReg d
  | .fsgnCpn _ _ d => dstReg d
  | .fsgnX _ _ d => dstReg d
  | .frnd _ _ d => dstReg d
  | .hadd2F16 _ _ _ d => dstReg d
  | .hadd2Bf16 _ _ _ d => dstReg d
  | .hmul2F16 _ _ _ d => dstReg d
  | .hmul2Bf16 _ _ _ d => dstReg d
  | .fpctl _ d => dstReg d
  | .ffma _ _ _ _ d => dstReg d
  | .hfma2F16 _ _ _ _ d => dstReg d
  | .hfma2Bf16 _ _ _ _ d => dstReg d
  | .dfma _ _ _ _ d => dstReg d
  | .dadd _ _ _ d => dstReg d
  | .dmul _ _ _ d => dstReg d
  | .frcp _ _ d => dstReg d
  | .frsq _ _ d => dstReg d
  | .fsqrt _ _ d => dstReg d
  | .fex2 _ _ d => dstReg d
  | .flg2 _ _ d => dstReg d
  | .fsin _ _ d => dstReg d
  | .fcos _ _ d => dstReg d
  | .ftanh _ _ d => dstReg d
  | .cvt _ _ _ _ d => dstReg d
  | .qpack _ _ _ d => dstReg d
  | .qunpk _ _ _ d => dstReg d
  | .amax _ _ d => some d
  | .dot4 _ _ _ d => some d
  | .dot4Sc _ _ _ d => some d
  | .fmtr _ d => dstReg d
  | .qswp1 _ d => dstReg d
  | .qswp2 _ d => dstReg d
  | .qswp3 _ d => dstReg d
  | .qbc _ _ d => dstReg d
  | .qredAddI64 _ d => dstReg d
  | .qredAddF32 _ d => dstReg d
  | .qredMinI64 _ d => dstReg d
  | .qredMaxI64 _ d => dstReg d
  | .qredMinF32 _ d => dstReg d
  | .qredMaxF32 _ d => dstReg d
  | .qredAnd _ d => dstReg d
  | .qredOr _ d => dstReg d
  | .shflIdx _ _ d => dstReg d
  | .shflUp _ _ d => dstReg d
  | .shflDn _ _ d => dstReg d
  | .shflXor _ _ d => dstReg d
  | .gredAddI64 _ d => dstReg d
  | .gredAddF32 _ d => dstReg d
  | .gredMinI64 _ d => dstReg d
  | .gredMaxI64 _ d => dstReg d
  | .gredMinF32 _ d => dstReg d
  | .gredMaxF32 _ d => dstReg d
  | .gredAnd _ d => dstReg d
  | .gredOr _ d => dstReg d
  | .gscanAddI64 _ d => dstReg d
  | .gscanAddF32 _ d => dstReg d
  | .gscanMaxI64 _ d => dstReg d
  | .gscanMaxF32 _ d => dstReg d
  | .ldI8 _ _ _ _ d => dstReg d
  | .ldI16 _ _ _ _ d => dstReg d
  | .ldI32 _ _ _ _ d => dstReg d
  | .ldW8 _ _ _ _ d => dstReg d
  | .ldW16 _ _ _ _ d => dstReg d
  | .ldW32 _ _ _ _ d => dstReg d
  | .ldB64 _ _ _ _ d => dstReg d
  | _ => none

/-- The flag select of an instruction whose format has one (14 R289). -/
def instrFs : Instr → Option Bool
  | .ldI8 _ fs _ _ _ => some fs
  | .ldI16 _ fs _ _ _ => some fs
  | .ldI32 _ fs _ _ _ => some fs
  | .ldW8 _ fs _ _ _ => some fs
  | .ldW16 _ fs _ _ _ => some fs
  | .ldW32 _ fs _ _ _ => some fs
  | .ldB64 _ fs _ _ _ => some fs
  | .pref _ fs _ _ => some fs
  | .stB8 _ fs _ _ _ => some fs
  | .stB16 _ fs _ _ _ => some fs
  | .stB32 _ fs _ _ _ => some fs
  | .stB64 _ fs _ _ _ => some fs
  | .stB128 _ fs _ _ _ => some fs
  | .atomAdd _ fs _ _ => some fs
  | .atomAnd _ fs _ _ => some fs
  | .atomOr _ fs _ _ => some fs
  | .atomXor _ fs _ _ => some fs
  | .atomMinI32 _ fs _ _ => some fs
  | .atomMaxI32 _ fs _ _ => some fs
  | .atomMinW32 _ fs _ _ => some fs
  | .atomMaxW32 _ fs _ _ => some fs
  | .atomMinF32 _ fs _ _ => some fs
  | .atomMaxF32 _ fs _ _ => some fs
  | .atomAddF32 _ fs _ _ => some fs
  | .atomExch _ fs _ _ => some fs
  | .cas _ fs _ _ _ => some fs
  | .redAdd _ fs _ _ => some fs
  | .redAnd _ fs _ _ => some fs
  | .redOr _ fs _ _ => some fs
  | .redXor _ fs _ _ => some fs
  | .redMinI32 _ fs _ _ => some fs
  | .redMaxI32 _ fs _ _ => some fs
  | .redMinW32 _ fs _ _ => some fs
  | .redMaxW32 _ fs _ _ => some fs
  | .redMinF32 _ fs _ _ => some fs
  | .redMaxF32 _ fs _ _ => some fs
  | .redAddF32 _ fs _ _ => some fs
  | .wld _ fs _ => some fs
  | .wlds _ fs _ _ => some fs
  | .wst _ fs _ _ => some fs
  | .watom _ fs _ _ _ => some fs
  | .fence _ fs => some fs
  | .mpol _ fs _ => some fs
  | .cctl _ fs _ _ => some fs
  | .mcst _ fs _ _ => some fs
  | .pchk _ fs _ => some fs
  | .cpld _ _ _ fs _ _ => some fs
  | .cpst _ _ _ fs _ _ => some fs
  | .cpfill _ _ fs _ _ => some fs
  | .tmma _ fs _ _ _ => some fs
  | .tmmaSc _ fs _ _ _ _ => some fs
  | .tmms _ fs _ _ _ _ => some fs
  | .tzero _ fs _ => some fs
  | .tlda _ fs _ _ => some fs
  | .tdrain _ fs _ _ _ => some fs
  | .tshape _ fs => some fs
  | .zset _ fs _ => some fs
  | .zlog _ _ _ _ fs => some fs
  | .ztst _ fs => some fs
  | .hld _ fs _ => some fs
  | .hset _ _ fs _ => some fs
  | .hrd _ _ fs => some fs
  | .apgo fs _ _ => some fs
  | .gath _ _ fs _ _ _ _ => some fs
  | .scat _ _ fs _ _ _ => some fs
  | .dqsend _ fs _ _ => some fs
  | .dqcnt _ fs => some fs
  | .gvalid _ fs => some fs
  | .apwait fs => some fs
  | .chrun _ fs _ _ _ => some fs
  | .chpre fs _ _ => some fs
  | .chinv fs _ _ => some fs
  | .chrd fs _ _ => some fs
  | .coll _ fs _ => some fs
  | .collst _ fs _ => some fs
  | .plc _ fs _ => some fs
  | .plfence fs => some fs
  | _ => none

/-- The sources that an instruction names. -/
def instrSrcs : Instr → List Src
  | .brx sa => [sa]
  | .callx sa => [sa]
  | .ret sa => [sa]
  | .put sa _ => [sa]
  | .sel sa sb _ _ => [sa, sb.long]
  | .iadd sa sb _ => [sa, sb]
  | .isub sa sb _ => [sa, sb]
  | .imul sa sb _ => [sa, sb]
  | .imulhI64 sa sb _ => [sa, sb]
  | .imulhW64 sa sb _ => [sa, sb]
  | .imad sa sb d => [sa, sb, d.src]
  | .idivI64 sa sb _ => [sa, sb]
  | .idivW64 sa sb _ => [sa, sb]
  | .iremI64 sa sb _ => [sa, sb]
  | .iremW64 sa sb _ => [sa, sb]
  | .iminI64 sa sb _ => [sa, sb]
  | .iminW64 sa sb _ => [sa, sb]
  | .imaxI64 sa sb _ => [sa, sb]
  | .imaxW64 sa sb _ => [sa, sb]
  | .iabs sa _ => [sa]
  | .ilogAnd sa sb _ => [sa, sb]
  | .ilogOr sa sb _ => [sa, sb]
  | .ilogXor sa sb _ => [sa, sb]
  | .ilogAndn sa sb _ => [sa, sb]
  | .ishfShl sa sb _ => [sa, sb]
  | .ishfShr sa sb _ => [sa, sb]
  | .ishfSar sa sb _ => [sa, sb]
  | .ishfRol sa sb _ => [sa, sb]
  | .lea sa sb _ => [sa, sb]
  | .ibitPopc sa _ => [sa]
  | .ibitClz sa _ => [sa]
  | .ibitCtz sa _ => [sa]
  | .ibitBrev sa _ => [sa]
  | .bfxI64 sa sb _ => [sa, sb]
  | .bfxW64 sa sb _ => [sa, sb]
  | .bfi sa sb d => [sa, sb, d.src]
  | .iaddi sa _ _ => [sa]
  | .ilogiAnd sa _ _ => [sa]
  | .ilogiOr sa _ _ => [sa]
  | .ilogiXor sa _ _ => [sa]
  | .ilogiAndn sa _ _ => [sa]
  | .ishfiShl sa _ _ => [sa]
  | .ishfiShr sa _ _ => [sa]
  | .ishfiSar sa _ _ => [sa]
  | .ishfiRol sa _ _ => [sa]
  | .iext sa _ _ => [sa]
  | .icmpEq sa sb _ _ => [sa, sb]
  | .icmpNe sa sb _ _ => [sa, sb]
  | .icmpLtI64 sa sb _ _ => [sa, sb]
  | .icmpLeI64 sa sb _ _ => [sa, sb]
  | .icmpLtW64 sa sb _ _ => [sa, sb]
  | .icmpLeW64 sa sb _ _ => [sa, sb]
  | .fcmpEqF32 sa sb _ _ => [sa, sb]
  | .fcmpNeF32 sa sb _ _ => [sa, sb]
  | .fcmpLtF32 sa sb _ _ => [sa, sb]
  | .fcmpLeF32 sa sb _ _ => [sa, sb]
  | .fcmpUnF32 sa sb _ _ => [sa, sb]
  | .fcmpEqF64 sa sb _ _ => [sa, sb]
  | .fcmpNeF64 sa sb _ _ => [sa, sb]
  | .fcmpLtF64 sa sb _ _ => [sa, sb]
  | .fcmpLeF64 sa sb _ _ => [sa, sb]
  | .fcmpUnF64 sa sb _ _ => [sa, sb]
  | .voteAny sa _ _ => [sa]
  | .voteAll sa _ _ => [sa]
  | .voteBallot sa _ => [sa]
  | .pmovRp sa _ _ => [sa]
  | .fadd sa sb _ _ => [sa, sb.long]
  | .fsub sa sb _ _ => [sa, sb.long]
  | .fmul sa sb _ _ => [sa, sb.long]
  | .fmin sa sb _ => [sa, sb.long]
  | .fmax sa sb _ => [sa, sb.long]
  | .fsgnCp sa sb _ => [sa, sb.long]
  | .fsgnCpn sa sb _ => [sa, sb.long]
  | .fsgnX sa sb _ => [sa, sb.long]
  | .frnd sa _ _ => [sa]
  | .hadd2F16 sa sb _ _ => [sa, sb.long]
  | .hadd2Bf16 sa sb _ _ => [sa, sb.long]
  | .hmul2F16 sa sb _ _ => [sa, sb.long]
  | .hmul2Bf16 sa sb _ _ => [sa, sb.long]
  | .fpctl sa _ => [sa]
  | .ffma sa sb sc _ _ => [sa.long, sb.long, sc.long]
  | .hfma2F16 sa sb sc _ _ => [sa.long, sb.long, sc.long]
  | .hfma2Bf16 sa sb sc _ _ => [sa.long, sb.long, sc.long]
  | .dfma sa sb sc _ _ => [sa.long, sb.long, sc.long]
  | .dadd sa sb _ _ => [sa.long, sb.long]
  | .dmul sa sb _ _ => [sa.long, sb.long]
  | .frcp sa _ _ => [sa]
  | .frsq sa _ _ => [sa]
  | .fsqrt sa _ _ => [sa]
  | .fex2 sa _ _ => [sa]
  | .flg2 sa _ _ => [sa]
  | .fsin sa _ _ => [sa]
  | .fcos sa _ _ => [sa]
  | .ftanh sa _ _ => [sa]
  | .cvt _ _ sa _ _ => [sa.long]
  | .qpack _ sa _ _ => [sa]
  | .qunpk _ sa _ _ => [sa]
  | .amax _ sa d => [sa, d.src]
  | .dot4 _ sa _ d => [sa, d.src]
  | .dot4Sc _ sa _ d => [sa, d.src]
  | .fmtw _ sa => [sa]
  | .seed sa => [sa]
  | .qswp1 sa _ => [sa]
  | .qswp2 sa _ => [sa]
  | .qswp3 sa _ => [sa]
  | .qbc sa sb _ => [sa, sb]
  | .qredAddI64 sa _ => [sa]
  | .qredAddF32 sa _ => [sa]
  | .qredMinI64 sa _ => [sa]
  | .qredMaxI64 sa _ => [sa]
  | .qredMinF32 sa _ => [sa]
  | .qredMaxF32 sa _ => [sa]
  | .qredAnd sa _ => [sa]
  | .qredOr sa _ => [sa]
  | .shflIdx sa sb _ => [sa, sb]
  | .shflUp sa sb _ => [sa, sb]
  | .shflDn sa sb _ => [sa, sb]
  | .shflXor sa sb _ => [sa, sb]
  | .gredAddI64 sa _ => [sa]
  | .gredAddF32 sa _ => [sa]
  | .gredMinI64 sa _ => [sa]
  | .gredMaxI64 sa _ => [sa]
  | .gredMinF32 sa _ => [sa]
  | .gredMaxF32 sa _ => [sa]
  | .gredAnd sa _ => [sa]
  | .gredOr sa _ => [sa]
  | .gscanAddI64 sa _ => [sa]
  | .gscanAddF32 sa _ => [sa]
  | .gscanMaxI64 sa _ => [sa]
  | .gscanMaxF32 sa _ => [sa]
  | .ldI8 _ _ sa _ _ => [sa]
  | .ldI16 _ _ sa _ _ => [sa]
  | .ldI32 _ _ sa _ _ => [sa]
  | .ldW8 _ _ sa _ _ => [sa]
  | .ldW16 _ _ sa _ _ => [sa]
  | .ldW32 _ _ sa _ _ => [sa]
  | .ldB64 _ _ sa _ _ => [sa]
  | .pref _ _ sa _ => [sa]
  | .stB8 _ _ sa sb _ => [sa, sb]
  | .stB16 _ _ sa sb _ => [sa, sb]
  | .stB32 _ _ sa sb _ => [sa, sb]
  | .stB64 _ _ sa sb _ => [sa, sb]
  | .stB128 _ _ sa sb _ => [sa, sb]
  | .atomAdd _ _ sa sb => [sa, sb]
  | .atomAnd _ _ sa sb => [sa, sb]
  | .atomOr _ _ sa sb => [sa, sb]
  | .atomXor _ _ sa sb => [sa, sb]
  | .atomMinI32 _ _ sa sb => [sa, sb]
  | .atomMaxI32 _ _ sa sb => [sa, sb]
  | .atomMinW32 _ _ sa sb => [sa, sb]
  | .atomMaxW32 _ _ sa sb => [sa, sb]
  | .atomMinF32 _ _ sa sb => [sa, sb]
  | .atomMaxF32 _ _ sa sb => [sa, sb]
  | .atomAddF32 _ _ sa sb => [sa, sb]
  | .atomExch _ _ sa sb => [sa, sb]
  | .cas _ _ sa sb _ => [sa, sb]
  | .redAdd _ _ sa sb => [sa, sb]
  | .redAnd _ _ sa sb => [sa, sb]
  | .redOr _ _ sa sb => [sa, sb]
  | .redXor _ _ sa sb => [sa, sb]
  | .redMinI32 _ _ sa sb => [sa, sb]
  | .redMaxI32 _ _ sa sb => [sa, sb]
  | .redMinW32 _ _ sa sb => [sa, sb]
  | .redMaxW32 _ _ sa sb => [sa, sb]
  | .redMinF32 _ _ sa sb => [sa, sb]
  | .redMaxF32 _ _ sa sb => [sa, sb]
  | .redAddF32 _ _ sa sb => [sa, sb]
  | .wld _ _ sa => [sa]
  | .wlds _ _ sa sb => [sa, sb]
  | .wst _ _ sa sb => [sa, sb]
  | .watom _ _ sa sb _ => [sa, sb]
  | .mpol _ _ sa => [sa]
  | .cctl _ _ sa sb => [sa, sb]
  | .mcst _ _ sa sb => [sa, sb]
  | .pchk _ _ sa => [sa]
  | .binit _ sa => [sa]
  | .bwait _ sa => [sa]
  | .btest _ sa => [sa]
  | .cpld _ _ _ _ _ sa => [sa]
  | .cpst _ _ _ _ _ sa => [sa]
  | .cpfill _ _ _ _ sa => [sa]
  | .zset _ _ sa => [sa]
  | .hld _ _ sa => [sa]
  | .hset _ _ _ sa => [sa]
  | .apgo _ sa sb => [sa, sb]
  | .gath _ _ _ sa sb _ _ => [sa, sb]
  | .scat _ _ _ sa sb _ => [sa, sb]
  | .dqsend _ _ sa sb => [sa, sb]
  | .coll _ _ sa => [sa]
  | .collst _ _ sa => [sa]
  | .plc _ _ sa => [sa]
  | .launch sa => [sa]
  | .launchw sa => [sa]
  | .lstat sa _ => [sa]
  | .errq sa => [sa]
  | .syswr sa _ => [sa]
  | .tlbinv sa _ => [sa]
  | _ => []

/-- The feed queue that an instruction of the access-processor format names. -/
def instrDq : Instr → List Nat
  | .gath dq _ _ _ _ _ _ => [dq.val]
  | .dqsend dq _ _ _ => [dq.val]
  | .dqcnt dq _ => [dq.val]
  | .gvalid dq _ => [dq.val]
  | _ => []

/-- Every feed queue that an instruction names. -/
def namedDqs (i : Instr) : List Nat :=
  instrDq i ++ (instrSrcs i).filterMap fun x =>
    match x with
    | .dq k => some k.val
    | _ => none

/-- The pipe classes (14 R290). -/
inductive PipeClass where
  | a | f | m | e | c
  deriving DecidableEq, Repr

/-- The pipe class of a major opcode, if it has one (14 R290). -/
def pipeClass (maj : Nat) : Option PipeClass :=
  if [0x02, 0x03, 0x04, 0x05].contains maj then some .a
  else if [0x06, 0x07, 0x08, 0x09, 0x0A, 0x0B].contains maj then some .f
  else if [0x0C, 0x0D, 0x0E, 0x0F, 0x10, 0x12, 0x15, 0x17, 0x18].contains maj then some .m
  else if [0x13, 0x14, 0x16].contains maj then some .e
  else if [0x01, 0x11, 0x19, 0x1A, 0x1B].contains maj then some .c
  else none

/-- The instructions of the scalar profile (14 R301), which for an access-processor program include three of its own
(12 R245). -/
def inProfile (ap : Bool) : Instr → Bool
  | .bra _ _ => true
  | .brp _ _ _ _ => true
  | .call _ _ => true
  | .brx _ => true
  | .callx _ => true
  | .ret _ => true
  | .yield => true
  | .exit => true
  | .trapi _ => true
  | .nop => true
  | .movi _ _ => true
  | .movh1 _ _ => true
  | .movh2 _ _ => true
  | .movh3 _ _ => true
  | .put _ _ => true
  | .sel _ _ _ _ => true
  | .iadd _ _ _ => true
  | .isub _ _ _ => true
  | .imul _ _ _ => true
  | .imulhI64 _ _ _ => true
  | .imulhW64 _ _ _ => true
  | .imad _ _ _ => true
  | .idivI64 _ _ _ => true
  | .idivW64 _ _ _ => true
  | .iremI64 _ _ _ => true
  | .iremW64 _ _ _ => true
  | .iminI64 _ _ _ => true
  | .iminW64 _ _ _ => true
  | .imaxI64 _ _ _ => true
  | .imaxW64 _ _ _ => true
  | .iabs _ _ => true
  | .ilogAnd _ _ _ => true
  | .ilogOr _ _ _ => true
  | .ilogXor _ _ _ => true
  | .ilogAndn _ _ _ => true
  | .ishfShl _ _ _ => true
  | .ishfShr _ _ _ => true
  | .ishfSar _ _ _ => true
  | .ishfRol _ _ _ => true
  | .lea _ _ _ => true
  | .ibitPopc _ _ => true
  | .ibitClz _ _ => true
  | .ibitCtz _ _ => true
  | .ibitBrev _ _ => true
  | .bfxI64 _ _ _ => true
  | .bfxW64 _ _ _ => true
  | .bfi _ _ _ => true
  | .iaddi _ _ _ => true
  | .ilogiAnd _ _ _ => true
  | .ilogiOr _ _ _ => true
  | .ilogiXor _ _ _ => true
  | .ilogiAndn _ _ _ => true
  | .ishfiShl _ _ _ => true
  | .ishfiShr _ _ _ => true
  | .ishfiSar _ _ _ => true
  | .ishfiRol _ _ _ => true
  | .iext _ _ _ => true
  | .icmpEq _ _ _ _ => true
  | .icmpNe _ _ _ _ => true
  | .icmpLtI64 _ _ _ _ => true
  | .icmpLeI64 _ _ _ _ => true
  | .icmpLtW64 _ _ _ _ => true
  | .icmpLeW64 _ _ _ _ => true
  | .plogAnd _ _ _ => true
  | .plogOr _ _ _ => true
  | .plogXor _ _ _ => true
  | .plogAndn _ _ _ => true
  | .pmovRp _ _ _ => true
  | .pmovPr => true
  | .ldI8 _ _ _ _ _ => true
  | .ldI16 _ _ _ _ _ => true
  | .ldI32 _ _ _ _ _ => true
  | .ldW8 _ _ _ _ _ => true
  | .ldW16 _ _ _ _ _ => true
  | .ldW32 _ _ _ _ _ => true
  | .ldB64 _ _ _ _ _ => true
  | .pref _ _ _ _ => true
  | .stB8 _ _ _ _ _ => true
  | .stB16 _ _ _ _ _ => true
  | .stB32 _ _ _ _ _ => true
  | .stB64 _ _ _ _ _ => true
  | .stB128 _ _ _ _ _ => true
  | .atomAdd _ _ _ _ => true
  | .atomAnd _ _ _ _ => true
  | .atomOr _ _ _ _ => true
  | .atomXor _ _ _ _ => true
  | .atomMinI32 _ _ _ _ => true
  | .atomMaxI32 _ _ _ _ => true
  | .atomMinW32 _ _ _ _ => true
  | .atomMaxW32 _ _ _ _ => true
  | .atomMinF32 _ _ _ _ => true
  | .atomMaxF32 _ _ _ _ => true
  | .atomAddF32 _ _ _ _ => true
  | .atomExch _ _ _ _ => true
  | .cas _ _ _ _ _ => true
  | .redAdd _ _ _ _ => true
  | .redAnd _ _ _ _ => true
  | .redOr _ _ _ _ => true
  | .redXor _ _ _ _ => true
  | .redMinI32 _ _ _ _ => true
  | .redMaxI32 _ _ _ _ => true
  | .redMinW32 _ _ _ _ => true
  | .redMaxW32 _ _ _ _ => true
  | .redMinF32 _ _ _ _ => true
  | .redMaxF32 _ _ _ _ => true
  | .redAddF32 _ _ _ _ => true
  | .fence _ _ => true
  | .mpol _ _ _ => true
  | .cctl _ _ _ _ => true
  | .gath _ _ _ _ _ _ _ => ap
  | .scat _ _ _ _ _ _ => ap
  | .dqsend _ _ _ _ => ap
  | .sysrd _ => true
  | .syswr _ _ => true
  | .tlbinv _ _ => true
  | .trapret _ => true
  | .halt => true
  | _ => false

/-- The specifiers that scalar-profile code may read (14 R301): q, n and zero, and k in an access-processor program. -/
def profileSrc (ap : Bool) : Src → Bool
  | .q _ | .n _ | .zero => true
  | .k _ => ap
  | _ => false

/-- The named registers that scalar-profile code may write. -/
def profileDst : Option DReg → Bool
  | some (.e _) => false
  | _ => true

/-- Whether an instruction may run in a steward or an access-processor program (14 R301). -/
def scalarOk (ap : Bool) (i : Instr) : Bool :=
  inProfile ap i && (instrSrcs i).all (profileSrc ap) && profileDst (instrDst i)

end Sys2Proof.Machine
end

