-- ==== Sys2Proof/Machine/Code.lean ====
section
/-!
DEFINITION. Machine/Code.lean: the check bits, the address signature and the judgement of a stored word (03 R59 to R64), and
the address map (03 R52, R53).
-/

namespace Sys2Proof.Machine

/-- The mask Mb of the data bits under check bit b (03 R60). -/
def hMask : Nat → Nat
  | 0 => 0x5191A1C1
  | 1 => 0xA2234383
  | 2 => 0x45468607
  | 3 => 0x8A8C0D0E
  | 4 => 0x15191A1C
  | 5 => 0x2A323438
  | 6 => 0x54646870
  | _ => 0xA8C8D0E0

/-- H times the data bits (03 R60). -/
def hTimes (d : Nat) : Nat :=
  (List.range 8).foldl (fun a b => a + parity 32 (d &&& hMask b) * 2 ^ b) 0

/-- Column j of H (03 R60). -/
def hColumn (j : Nat) : Nat := hTimes (2 ^ j)

/-- The weight V(i) of address bit i (03 R61). -/
def sigWeight (i : Nat) : Nat := if i = 2 then 38 else if i = 26 then 39 else i + 1

/-- The XOR of the weights of the set address bits (03 R61). -/
def sigSum (w : Nat) : Nat := (setBits 37 w).foldl (fun s i => s ^^^ sigWeight i) 0

/-- The address signature Sig(W) (03 R61). -/
def sigOf (w : Nat) : Nat := parity 7 (sigSum w) * 128 + sigSum w % 128

/-- The check bits of data stored under a signature (03 R59). -/
def encodeCheck (sig : Nat) (d : Word) : Byte := BitVec.ofNat 8 (hTimes d.toNat ^^^ sig)

/-- How the syndrome of a stored word is judged (03 R62). -/
inductive Judged where
  | clean (d : Word)
  | fixed (d : Word)
  | poison
  | bad
  deriving DecidableEq, Repr

/-- The syndrome of a stored word (03 R62). -/
def syndrome (sig : Nat) (d : Word) (c : Byte) : Nat := hTimes d.toNat ^^^ c.toNat ^^^ sig

/-- The judgement of a stored word (03 R62). -/
def judge (sig : Nat) (d : Word) (c : Byte) : Judged :=
  let y := syndrome sig d c
  if y = 0 then .clean d
  else if y = 0xFF then .poison
  else if popCount 8 y = 1 then .fixed d
  else
    match (List.range 32).find? fun j => hColumn j == y with
    | some j => .fixed (d ^^^ BitVec.ofNat 32 (2 ^ j))
    | none => .bad

/-- The check bits of the poison code, whose data is zero (03 R64). -/
def poisonCheck (sig : Nat) : Byte := BitVec.ofNat 8 (sig ^^^ 0xFF)

/-! ## The address map (03 R52, R53) -/

/-- The slice of a word. -/
def sliceOf (w : Nat) : Nat := w % 16 ^^^ w / 16 % 16

/-- The package channel of a word. -/
def channelOf (w : Nat) : Nat := w / 256 % 256 ^^^ w / 65536 % 256

/-- The column of a word. -/
def columnOf (w : Nat) : Nat := w / 65536 % 128 * 16 + w / 16 % 16

/-- The bank of a word. -/
def bankOf (w : Nat) : Nat := w / 2 ^ 23 % 32

/-- The logical row of a word. -/
def rowOf (w : Nat) : Nat := w / 2 ^ 28 % 512

/-- The logical stack of a word. -/
def logStackOf (w : Nat) : Nat := channelOf w / 32

/-- Entry i of the stack map (03 R53). -/
def smapEntry (smap : Word) (i : Nat) : Nat := bitsOf smap (3 * i + 2) (3 * i)

/-- The physical stack of a word (03 R53). -/
def physStack (span : Nat) (smap : Word) (w : Nat) : Nat := smapEntry smap (logStackOf w % 2 ^ span)

/-- The logical row within the physical stack that indirection starts from (03 R53). -/
def physRow (span : Nat) (w : Nat) : Nat := logStackOf w / 2 ^ span * 2 ^ (6 + span) % 512 + rowOf w % 2 ^ (6 + span)

/-- The physical channel of a word: its physical stack and its channel within the stack. -/
def physChannel (span : Nat) (smap : Word) (w : Nat) : Nat := physStack span smap w * 32 + channelOf w % 32

/-- Whether a word is backed (03 R53). -/
def backed (span : Nat) (w : Nat) : Bool := w < 2 ^ (34 + span)

/-- The fold of a word address (08 R173). -/
def foldOf (w : Nat) : Nat := w / 64 % 256 ^^^ w / 2 ^ 14 % 256 ^^^ w / 2 ^ 22 % 256 ^^^ w / 2 ^ 30 % 128

end Sys2Proof.Machine
end

