-- ==== Sys2Proof/Machine/Fab.lean ====
section
/-!
DEFINITION. Machine/Fab.lean: flits and messages of the Armature byte by byte (02 R34, R35, R39), and the sending of a message
over its link (R36, R37).
-/

namespace Sys2Proof.Machine

/-! ## The codes of a flit (02 R34) -/

/-- A product in GF(2^8) with the polynomial 0x11D, over the low n bits of b. -/
def gfMulBits : Nat → Nat → Nat → Nat
  | 0, _, _ => 0
  | n + 1, a, b =>
    (if b % 2 = 1 then a else 0) ^^^ gfMulBits n (if a < 128 then 2 * a else 2 * a ^^^ 0x11D) (b / 2)

/-- A product in GF(2^8). -/
def gfMul (a b : Nat) : Nat := gfMulBits 8 a b

/-- The power of an element. -/
def gfPow (a : Nat) : Nat → Nat
  | 0 => 1
  | n + 1 => gfMul a (gfPow a n)

/-- The inverse of an element: its power 254. -/
def gfInv (a : Nat) : Nat := gfPow a 254

/-- The value of a polynomial, the highest coefficient first. -/
def gfEval (x : Nat) (cs : List Nat) : Nat := cs.foldl (fun s c => gfMul s x ^^^ c) 0

/-- The value of a polynomial, the lowest coefficient first. -/
def gfEvalLow (x : Nat) (cs : List Nat) : Nat := gfEval x cs.reverse

/-- The generator of the code, the highest coefficient first: roots α^0 to α^7. -/
def rsGen : List Nat :=
  (List.range 8).foldl (fun g j =>
    let r := gfPow 2 j
    List.zipWith (· ^^^ ·) (g ++ [0]) (0 :: g.map fun c => gfMul c r)) [1]

/-- One step of the division by the generator: the remainder after another byte. -/
def rsStep (rem : List Nat) (b : Nat) : List Nat :=
  let f := b ^^^ rem.headD 0
  List.zipWith (· ^^^ ·) (rem.drop 1 ++ [0]) (rsGen.drop 1 |>.map fun g => gfMul f g)

/-- The eight parity bytes of 248 bytes. Byte i of a flit is the coefficient of power 255 − i (DEDUCED, unsafe: notes/assumptions/12.md). -/
def rsParity (bs : List Byte) : List Byte :=
  ((bs.map (·.toNat)).foldl rsStep (List.replicate 8 0)).map (BitVec.ofNat 8 ·)

/-- The eight syndromes of a flit.
DEDUCED, unsafe: notes/assumptions/12.md. -/
def syndromes (bs : List Nat) : List Nat := (List.range 8).map fun j => gfEval (gfPow 2 j) bs

/-- What the search for the error locator holds: locator, previous locator, length, gap, previous discrepancy. -/
structure Search where
  lam : List Nat
  old : List Nat
  len : Nat
  gap : Nat
  dis : Nat

/-- A polynomial plus a multiple of another, lowest coefficients first. -/
def polyAdd (a b : List Nat) (c : Nat) : List Nat :=
  (List.range (max a.length b.length)).map fun i => a.getD i 0 ^^^ gfMul c (b.getD i 0)

/-- One step of the search (Berlekamp and Massey). -/
def searchStep (ss : List Nat) (x : Search) (n : Nat) : Search :=
  let d := (List.range (x.len + 1)).foldl (fun a i => a ^^^ gfMul (x.lam.getD i 0) (if i ≤ n then ss.getD (n - i) 0 else 0)) 0
  if d = 0 then { x with gap := x.gap + 1 }
  else
    let lam := polyAdd x.lam (List.replicate x.gap 0 ++ x.old) (gfMul d (gfInv x.dis))
    if 2 * x.len ≤ n then { lam := lam, old := x.lam, len := n + 1 - x.len, gap := 1, dis := d }
    else { x with lam := lam, gap := x.gap + 1 }

/-- The error locator. -/
def locator (ss : List Nat) : Search :=
  (List.range 8).foldl (searchStep ss) { lam := [1], old := [1], len := 0, gap := 1, dis := 1 }

/-- The errors of a flit: the powers and the values, when at most four bytes are wrong. -/
def findErrors (ss : List Nat) : Option (List (Nat × Nat)) :=
  let x := locator ss
  let ps := (List.range 255).filter fun p => gfEvalLow (gfInv (gfPow 2 p)) x.lam = 0
  if 4 < x.len ∨ ps.length ≠ x.len then none
  else
    let om := (List.range 8).map fun i =>
      (List.range (i + 1)).foldl (fun a j => a ^^^ gfMul (ss.getD j 0) (x.lam.getD (i - j) 0)) 0
    let der := (List.range x.lam.length).map fun i => if i % 2 = 0 then x.lam.getD (i + 1) 0 else 0
    some (ps.map fun p =>
      let inv := gfInv (gfPow 2 p)
      (p, gfMul (gfPow 2 p) (gfMul (gfEvalLow inv om) (gfInv (gfEvalLow inv der)))))

/-- Corrects the bytes at the given powers; `top` places the locator of power 0 at power 255, which it shares. -/
def applyErrors (bs : List Nat) (es : List (Nat × Nat)) (top : Bool) : List Nat :=
  (List.range bs.length).map fun i =>
    let p := 255 - i
    let hit := es.find? fun e => (if top && e.1 == 0 then 255 else e.1) = p
    bs.getD i 0 ^^^ (hit.map (·.2)).getD 0

/-- One bit of the CRC. -/
def crcBit : Nat → Nat → Nat
  | 0, c => c
  | n + 1, c => crcBit n (if c % 2 = 1 then c / 2 ^^^ 0xEDB88320 else c / 2)

/-- The CRC-32 of bytes (02 R34). -/
def crc32 (bs : List Nat) : Nat := bs.foldl (fun c b => crcBit 8 (c ^^^ b)) 0xFFFFFFFF ^^^ 0xFFFFFFFF

/-- The number that bytes given as numbers make. -/
def leNats (bs : List Nat) : Nat := leNat (bs.map (BitVec.ofNat 8 ·))

/-- The CRC field of a flit matches its bytes 243:0. -/
def crcOk (bs : List Nat) : Bool := crc32 (bs.take 244) == leNats ((bs.drop 244).take 4)

/-- A flit as received, corrected: its bytes and the number of bytes corrected; none for a bad flit (02 R34). -/
def correctFlit (bytes : List Byte) : Option (List Nat × Nat) :=
  let bs := bytes.map (·.toNat)
  if bs.length ≠ 256 then none
  else
    let ss := syndromes bs
    if ss.all (· = 0) then (if crcOk bs then some (bs, 0) else none)
    else
      match findErrors ss with
      | none => none
      | some es => ([false, true].map fun t => applyErrors bs es t).find? crcOk |>.map fun x => (x, es.length)

/-- A whole flit from its header and payload.
DESIGN CHOICE, safe: notes/assumptions/15.md. -/
def buildFlit (hdr : Word) (payload : List Byte) : List Byte :=
  let head := wordBytes hdr ++ (payload ++ List.replicate (240 - payload.length) 0).take 240
  let body := head ++ natBytes 4 (crc32 (head.map (·.toNat)))
  body ++ rsParity body

/-! ## Messages (02 R39, R40) -/

/-- The class of a message kind: 0 request, 1 reply, 2 control. -/
def classOfOpc (opc : Nat) : Nat := if opc < 0x20 then 0 else if opc < 0x40 then 1 else 2

/-- The words that a mask names, rising. -/
def maskWords (m : BitVec 64) : List Nat := setBits 64 m.toNat

/-- A mask of words. -/
def maskOf (is : List Nat) : BitVec 64 := is.foldl (fun m i => setBit m i true) 0

/-- The kinds that carry data words. -/
def carriesData (opc : Nat) : Bool := opc == 0x03 || opc == 0x04 || opc == 0x05 || opc == 0x07 || opc == 0x20 || opc == 0x23

/-- The known kinds of messages. -/
def knownOpc (opc : Nat) : Bool :=
  (1 ≤ opc && opc ≤ 7) || (0x20 ≤ opc && opc ≤ 0x23) || opc == 0x40 || opc == 0x41

/-- The two header slots of a message. -/
def headerSlots (m : FabMsg) (ndata : Nat) : List Byte :=
  natBytes 16 (m.opc + m.srcComp * 2 ^ 7 + m.srcPkg * 2 ^ 10 + m.dstPkg * 2 ^ 20 + m.tag * 2 ^ 30 + ndata * 2 ^ 42
      + m.mask.toNat * 2 ^ 64)
    ++ natBytes 16 (m.unit + m.aop * 2 ^ 48 + m.pmask.toNat * 2 ^ 64)

/-- A list of bytes filled with zeros to whole slots. -/
def padSlots (bs : List Byte) : List Byte := bs ++ List.replicate (ceilDiv bs.length 16 * 16 - bs.length) 0

/-- The byte-enable slots of a message: 4 bits for each carried word. -/
def beBytes (bs : List (BitVec 4)) : List Byte :=
  natBytes (ceilDiv bs.length 2) ((List.range bs.length).foldl (fun a i => a + (bs.getD i 0).toNat * 2 ^ (4 * i)) 0)

/-- A message as bytes. -/
def msgBytes (m : FabMsg) : List Byte :=
  let data := padSlots (wordsBytes m.words)
  let be := if m.be.isEmpty then [] else padSlots (beBytes m.be)
  headerSlots m ((data.length + be.length) / 16) ++ data ++ be

/-- A message from its header slots and data slots, or none when a field that must be zero is not (02 R40). -/
def parseMsg (hd : Nat) (hd1 : Nat) (data : List Byte) : Option FabMsg :=
  let opc := hd % 128
  let mask : BitVec 64 := BitVec.ofNat 64 (hd / 2 ^ 64)
  let n := if carriesData opc then (maskWords mask).length else 0
  let rest := data.drop (ceilDiv n 4 * 16)
  if !knownOpc opc || hd / 2 ^ 46 % 2 ^ 18 != 0 || hd1 / 2 ^ 41 % 2 ^ 7 != 0 || hd1 / 2 ^ 56 % 2 ^ 8 != 0
      || 6 ≤ hd / 2 ^ 7 % 8 || (opc != 4 && hd1 / 2 ^ 48 % 2 ^ 8 != 0) then none
  else some
    { opc := opc, srcComp := hd / 2 ^ 7 % 8, srcPkg := hd / 2 ^ 10 % 1024, dstPkg := hd / 2 ^ 20 % 1024,
      tag := hd / 2 ^ 30 % 4096, mask := mask, unit := hd1 % 2 ^ 41, aop := hd1 / 2 ^ 48 % 256,
      pmask := BitVec.ofNat 64 (hd1 / 2 ^ 64), words := (bytesWords data).take (if opc = 4 then 4 else n),
      be := if rest.isEmpty then [] else (List.range n).map fun i => BitVec.ofNat 4 (leNat rest / 2 ^ (4 * i)) }

/-- The messages of a payload, slot by slot: an empty slot is passed over; `n` bounds the slots. A message that would cross the
flit is discarded with the rest. -/
def parseSlots : Nat → List Byte → List (Option FabMsg)
  | 0, _ => []
  | n + 1, bs =>
    if bs.length < 16 then []
    else
      let hd := leNat (bs.take 16)
      if hd % 128 = 0 then parseSlots n (bs.drop 16)
      else
        let nd := hd / 2 ^ 42 % 16
        if 13 < nd ∨ bs.length < 32 + 16 * nd then [none]
        else parseMsg hd (leNat ((bs.drop 16).take 16)) ((bs.drop 32).take (16 * nd)) :: parseSlots n (bs.drop (32 + 16 * nd))

/-! ## Sending -/

/-- A link. -/
def State.link (s : State) (g : Nat) : Link := aget {} s.arm.links g

/-- Changes a link. -/
def State.modLink (s : State) (g : Nat) (f : Link → Link) : State :=
  { s with arm := { s.arm with links := amod {} s.arm.links g f } }

/-- A port. -/
def State.port (s : State) (p : Nat) : Port := aget {} s.arm.ports p

/-- Changes a port. -/
def State.modPort (s : State) (p : Nat) (f : Port → Port) : State :=
  { s with arm := { s.arm with ports := amod {} s.arm.ports p f } }

/-- The die that owns a link (02 R32). -/
def dieOfLink (g : Nat) : Nat := g / 8

/-- The credits of a class. -/
def Link.credits (l : Link) (c : Nat) : Nat := if c = 0 then l.creq else if c = 1 then l.crep else l.cctl

/-- Changes the credits of a class. -/
def Link.addCredits (l : Link) (c : Nat) (f : Nat → Nat) : Link :=
  if c = 0 then { l with creq := f l.creq } else if c = 1 then { l with crep := f l.crep } else { l with cctl := f l.cctl }

/-- The class and the number of the credits that the next header returns; class 3 for none. -/
def Link.creditsDue (l : Link) : Nat × Nat :=
  let c := l.freed.headD 3
  (c, if c = 3 then 0 else min 63 (l.freed.filter (· = c)).length)

/-- The link after a header has returned some credits. -/
def Link.returned (l : Link) (cr : Nat × Nat) : Link :=
  { l with freed := (l.freed.filter (· = cr.1)).drop cr.2 ++ l.freed.filter (· ≠ cr.1) }

/-- The header of a flit of a link (02 R35) with the credits that it returns, and the link after it has been sent. -/
def Link.header (l : Link) (kind seq : Nat) (cr : Nat × Nat) : Word × Link :=
  let hdr := kind * 2 ^ 30 + seq * 2 ^ 20 + l.rxseq * 2 ^ 10 + (if l.acked then 2 ^ 9 else 0)
    + (if l.retryDue then 2 ^ 8 else 0) + cr.1 * 2 ^ 6 + cr.2
  (BitVec.ofNat 32 hdr, { l with retryDue := false })

/-- The port that a flit goes on (02 R33): the lower one for an even sequence number, the upper one for an odd one, and the
remaining one while the link runs on one port. -/
def Link.sideOf (l : Link) (seq : Nat) : Nat := if l.half then l.side else seq % 2

/-- Hands a flit to its port. -/
def Link.emit (l : Link) (seq : Nat) (flit : List Byte) : Link := { l with wire := l.wire ++ [(l.sideOf seq, flit)] }

/-- Sends what the credits and the replay buffer allow (02 R36, R37); `n` bounds the flits.
DESIGN CHOICE, safe: notes/assumptions/15.md. -/
def Link.pump : Nat → Link → Link
  | 0, l => l
  | n + 1, l =>
    match l.outq.find? fun x => 0 < l.credits x.1 with
    | some x =>
      if !l.up ∨ 512 ≤ l.replay.length then l
      else
        let seq := (l.txseq + 1) % 1024
        let cr := l.creditsDue
        let (hdr, l) := ({ l with txseq := seq, outq := l.outq.erase x }.returned cr).header x.1 seq cr
        let l := (l.emit seq (buildFlit hdr x.2)).addCredits x.1 (· - 1)
        Link.pump n { l with replay := aset l.replay seq (cr.1, cr.2, x.2) }
    | none => l

/-- Sends an idle flit, whose sequence number is zero, when a retry request or credits are due and nothing else carries them. -/
def Link.idle (l : Link) : Link :=
  if l.up && (l.retryDue || !l.freed.isEmpty) then
    let cr := l.creditsDue
    let (hdr, l) := (l.returned cr).header 3 0 cr
    l.emit 0 (buildFlit hdr [])
  else l

/-- How far a sequence number lies before another. -/
def seqBefore (a b : Nat) : Nat := (b + 1024 - a) % 1024

/-- The class of a flit from its payload's first message. -/
def payloadClass (bs : List Byte) : Nat := classOfOpc (leNat (bs.take 1) % 128)

/-- Replays every unacknowledged flit from ACKSEQ + 1, in order, each with the credits that it returned (02 R36). -/
def Link.replayFrom (l : Link) (ack : Nat) : Link :=
  let seqs := (l.replay.map (·.1)).mergeSort fun a b => seqBefore (ack + 1) a ≤ seqBefore (ack + 1) b
  let l := seqs.foldl (fun l q =>
    let x := aget (3, 0, []) l.replay q
    let (h, l) := l.header (payloadClass x.2.2) q (x.1, x.2.1)
    l.emit q (buildFlit h x.2.2)) l
  { l with replays := satInc 0xFFFF l.replays }

/-- Sends a replay that is due. -/
def Link.catchUp (l : Link) : Link :=
  match l.replayDue with
  | some a => { l with replayDue := none }.replayFrom a
  | none => l

/-- Sends what is due on a link: a replay, then what waits. -/
def Link.send (l : Link) : Link :=
  let l := l.catchUp
  (l.pump (l.outq.length + 1)).idle

/-- The ports that a link sends on. -/
def State.linkPorts (s : State) (g : Nat) : List Nat :=
  if (s.link g).half then [2 * g + (s.link g).side] else [2 * g, 2 * g + 1]

/-- The SerDes rail of a port's die is on (01 R20). -/
def State.serOn (s : State) (p : Nat) : Bool := s.power.rail.getLsbD (20 + p / 16)

/-- A port that is powered (02 R41): it is enabled, and its die has the SerDes rail; without it the port stays down (01 R20). -/
def State.portLive (s : State) (p : Nat) : Bool := (s.port p).en && s.serOn p

/-- Sends what is due on a link, unless one of its ports sends a pattern or training flits instead (02 R41). -/
def State.sendOn (s : State) (g : Nat) : State :=
  if (s.linkPorts g).any fun p => (s.port p).tmode != 0 then s else s.modLink g Link.send

/-- The link to a package, if its route entry is usable; the entry of the package itself is ignored (02 R43, R44).
DEDUCED, unsafe: notes/assumptions/28.md. -/
def State.routeTo (s : State) (pkg : Nat) : Option Nat :=
  let r := aget {} s.arm.routes pkg
  if r.valid && pkg != s.arm.pkgid then some r.group else none

/-- Sends a message to its package; without a usable route nothing is sent.
DEDUCED, unsafe: notes/assumptions/28.md. -/
def State.sendMsg (s : State) (m : FabMsg) : State :=
  match s.routeTo m.dstPkg with
  | some g => (s.modLink g fun l => { l with outq := l.outq ++ [(classOfOpc m.opc, msgBytes m)] }).sendOn g
  | none => s

/-- The next request tag that no request waits for. -/
def State.freeTag (s : State) : Option Nat :=
  ((List.range 4096).map fun i => (s.arm.nextTag + i) % 4096).find? fun t => !ahas s.arm.waits t

/-- Sends a request whose reply `kind` and `x` wait for (0 an MCW of write `x`, 1 an INV of word `x`). The tag reserves the place
of the reply (02 R38): a request waits while none is free. One to a package without a usable route completes at once as unreachable
(R46). -/
def State.sendRequest (s : State) (m : FabMsg) (kind x : Nat) : State :=
  match s.freeTag with
  | some t =>
    let s := { s with arm := { s.arm with nextTag := (t + 1) % 4096, waits := aset s.arm.waits t (m.dstPkg, kind, x) } }
    if (s.routeTo m.dstPkg).isSome then s.sendMsg { m with tag := t }
    else s.prepend [event .doneMsg { msg := { tag := t } }]
  | none => { s with arm := { s.arm with unsent := s.arm.unsent ++ [(m, kind, x)] } }

/-- The first request that waits for a tag is sent. -/
def State.sendUnsent (s : State) : State :=
  match s.arm.unsent with
  | [] => s
  | (m, k, x) :: r => ({ s with arm := { s.arm with unsent := r } }).sendRequest m k x

/-- The unit address of a word of this package (02 R39). -/
def State.unitOf (s : State) (w : Nat) : Nat := s.arm.pkgid * 2 ^ 31 + w / 64

/-- The reply to a request. -/
def State.reply (s : State) (m : FabMsg) (opc comp : Nat) (mask pmask : BitVec 64) (words : List Word) : State :=
  s.sendMsg { opc := opc, srcComp := comp, srcPkg := s.arm.pkgid, dstPkg := m.srcPkg, tag := m.tag, mask := mask,
              unit := m.unit, pmask := pmask, words := words }

/-- The reply with data words to a request: a message of more than 13 data slots is split into two (02 R39). -/
def State.replyData (s : State) (m : FabMsg) (opc comp : Nat) (ws : List (Nat × Word × Bool)) : State :=
  let one (s : State) (ws : List (Nat × Word × Bool)) : State :=
    s.reply m opc comp (maskOf (ws.map (·.1))) (maskOf ((ws.filter fun x => x.2.2).map (·.1))) (ws.map (·.2.1))
  if ws.length ≤ 52 then one s ws else one (one s (ws.take 52)) (ws.drop 52)

end Sys2Proof.Machine
end

