-- ==== Sys2Proof/Machine/Mem.lean ====
section
/-!
DEFINITION. Machine/Mem.lean: stored words, the LLC, the word directory, L2, L1 and the scratchpad, word by word (03; 08), and
the clocks that say which component has applied which write (09 R190).
-/

namespace Sys2Proof.Machine

/-! ## Stored words -/

/-- The stored data of a word.
DESIGN CHOICE, unsafe: notes/assumptions/8.md. -/
def MemSys.storedData (m : MemSys) (w : Nat) : Word := BitVec.ofNat 32 (leNat (m.data.readAll (4 * w) 4))

/-- The stored check bits of a word. -/
def MemSys.storedCheck (m : MemSys) (w : Nat) : Byte := aget (encodeCheck (sigOf w) (m.storedData w)) m.chk w

/-- Stores a word with its check bits (03 R59). -/
def MemSys.store (m : MemSys) (w : Nat) (d : Word) (c : Byte) : MemSys :=
  { m with data := m.data.writeAll (4 * w) (wordBytes d),
           chk := if c = encodeCheck (sigOf w) d then adel m.chk w else aset m.chk w c }

/-- The keystream word of a word under the key of a draw (05 R107). -/
def keyWord (key w : Nat) : Word :=
  (Config.aesEncrypt key (BitVec.ofNat 128 (w / 4)) >>> (32 * (w % 4))).setWidth 32

/-- The key of a key id, as the Plinths hold it (05 R106, R107). -/
def State.keyOf (s : State) (kid : Nat) : Option Nat := (s.ctx kid).key

/-- A stack's registers. -/
def MemSys.stack (m : MemSys) (p : Nat) : Stack := aget {} m.plinths p

/-- Changes a stack's registers. -/
def MemSys.modStack (m : MemSys) (p : Nat) (f : Stack → Stack) : MemSys := { m with plinths := amod {} m.plinths p f }

/-! ## Rows (03 R69 to R73) -/

/-- The place of a row of a bank of a channel in a map. -/
def rowKey (ch bank row : Nat) : Nat := (ch * 32 + bank) * 512 + row

/-- The place of a bank of a channel. -/
def bankKey (ch bank : Nat) : Nat := ch * 32 + bank

/-- The place of a bank of a slice of a channel. -/
def sliceKey (ch slice bank : Nat) : Nat := (ch * 16 + slice) * 32 + bank

/-- The row of a bank that a row is stored in: the indirection table, and the exchanged mapping of a running swap below its slice
count (03 R72, R73). -/
def MemSys.actualRow (m : MemSys) (ch bank slice row : Nat) : Nat :=
  let r := aget row m.indir (rowKey ch bank row)
  match aget? m.swaps ch with
  | some x => if x.bank = bank ∧ slice < x.count then (if r = x.p then x.q else if r = x.q then x.p else r) else r
  | none => r

/-- The counter of a row of a bank.
DEDUCED, safe: notes/assumptions/29.md. -/
def predIndex (bank row : Nat) : Nat := row % 64 ^^^ (bank % 8 * 8 + row / 64)

/-- The place of a counter. -/
def predKey (ch bank row : Nat) : Nat := (ch * 32 + bank) * 64 + predIndex bank row

/-- Activations that queue a swap (03 R85): values below 256 act as 256. -/
def Stack.threshold (k : Stack) : Nat := max 256 k.swapth

/-- Counts an activation of a physical row (03 R71). -/
def MemSys.activate (m : MemSys) (ch bank row : Nat) : MemSys :=
  let t := aget [] m.acts (bankKey ch bank)
  let set (t : List (Nat × Nat)) (m : MemSys) : MemSys := { m with acts := aset m.acts (bankKey ch bank) t }
  match t.find? fun x => x.1 == row with
  | some x =>
    if (m.stack (ch / 32)).threshold ≤ x.2 + 1 then
      { set (t.filter fun y => y.1 != row) m with swapq := amod [] m.swapq ch (· ++ [(bank, row)]) }
    else set (t.map fun y => if y.1 = row then (row, y.2 + 1) else y) m
  | none =>
    if t.length < 16 then set (t ++ [(row, 1)]) m
    else set ((t.map fun y => (y.1, y.2 - 1)).filter fun y => y.2 != 0) m

/-- An access of a slice to a row (03 R69, R71): the bank's counter moves on a hit or a conflict, a closed row is activated, and
the row stays open or is precharged.
DEDUCED, safe: notes/assumptions/29.md. -/
def MemSys.accessRow (m : MemSys) (ch slice bank row : Nat) : MemSys :=
  let k := predKey ch bank row
  let c := aget 2 m.preds k
  let opened := aget? m.rows (sliceKey ch slice bank)
  let c := match opened with
    | none => c
    | some r => if r = row then min 3 (c + 1) else c - 1
  let m := { m with preds := if c = 2 then adel m.preds k else aset m.preds k c }
  let m := if opened = some row then m else m.activate ch bank row
  { m with rows := if 2 ≤ c ∧ (m.stack (ch / 32)).idle ≠ 0 then aset m.rows (sliceKey ch slice bank) row
                   else adel m.rows (sliceKey ch slice bank) }

/-- An access to a word's row in DRAM. -/
def MemSys.touch (m : MemSys) (w : Nat) : MemSys :=
  let ch := physChannel m.span m.smap w
  m.accessRow ch (sliceOf w) (bankOf w) (m.actualRow ch (bankOf w) (sliceOf w) (physRow m.span w))

/-! ## Reading and writing stored words -/

/-- The stack of a word. -/
def MemSys.stackOf (m : MemSys) (w : Nat) : Nat := physStack m.span m.smap w

/-- Enters an entry in a Plinth's fault queue (03 R78, R85) and reports it to the host (04 R92): KIND 0 lasting,
1 uncorrectable. A full queue drops it. -/
def State.plinthFault (s : State) (kind w : Nat) : State :=
  let p := s.mem.stackOf w
  if (s.mem.stack p).fq.length < 16 then
    (s.modMem fun m => m.modStack p fun k => { k with fq := k.fq ++ [(kind, w)] }).postMbx 0x03
      (w / 2 ^ 32 % 32 + kind * 32) (BitVec.ofNat 32 w)
  else s.modMem fun m => m.modStack p fun k => { k with ovf := true }

/-- Counts a correction of a stack (03 R85). -/
def State.countCe (s : State) (w : Nat) : State :=
  s.modMem fun m => m.modStack (m.stackOf w) fun k => { k with ce := satInc 0xFFFF k.ce }

/-- Counts an uncorrectable word and enters it in the fault queue (03 R66). -/
def State.countUe (s : State) (w : Nat) : State :=
  (s.modMem fun m => m.modStack (m.stackOf w) fun k => { k with ue := satInc 0xFFFF k.ue }).plinthFault 1 w

/-- Reads a stored word through the decoder (03 R62, R65): the ciphertext, its poison, and the counts. -/
def State.readStored (s : State) (w : Nat) : Word × Bool × State :=
  let s := s.modMem fun m => m.touch w
  match judge (sigOf w) (s.mem.storedData w) (s.mem.storedCheck w) with
  | .clean d => (d, false, s)
  | .fixed d => (d, false, s.countCe w)
  | .poison => (s.mem.storedData w, true, s)
  | .bad => (s.mem.storedData w, true, s.countUe w)

/-- Writes a word to DRAM under a key id (05 R107), or the poison code (03 R64, R68). -/
def State.writeStored (s : State) (kid w : Nat) (d : Word) (psn : Bool) : State :=
  let s := s.modMem fun m => { m.touch w with holds := adel m.holds w }
  if psn then s.modMem fun m => m.store w 0 (poisonCheck (sigOf w))
  else
    let e := d ^^^ keyWord ((s.keyOf kid).getD 0) w
    s.modMem fun m => m.store w e (encodeCheck (sigOf w) e)

/-! ## Units of a cache -/

/-- Stands for a unit that is not held. -/
def noUnit : CUnit := { kid := 0 }

/-- The rank of a class in replacement: stream first, keep last (03 R79; 08 R173). -/
def EvClass.rank : EvClass → Nat
  | .stream => 0
  | .normal => 1
  | .keep => 2

/-- The class of a word under a policy word's thresholds (08 R173). -/
def classOf (pol : Word) (w : Nat) : EvClass :=
  let f := foldOf w
  if f < bitsOf pol 23 16 then .keep
  else if bitsOf pol 31 24 ≠ 0 ∧ bitsOf pol 31 24 ≤ f then .stream
  else .normal

/-- The unit to replace among units that may be replaced: the lowest class, then the least recently used.
DEDUCED, safe: notes/assumptions/96.md. -/
def victim : List (Nat × CUnit) → Option (Nat × CUnit)
  | [] => none
  | x :: xs =>
    match victim xs with
    | none => some x
    | some y =>
      if x.2.cls.rank < y.2.cls.rank ∨ (x.2.cls.rank = y.2.cls.rank ∧ x.2.use ≤ y.2.use) then some x else some y

/-- A cached word with fresh check bits (08 R182). -/
def cword (w : Nat) (d : Word) (psn : Bool) (st : WordState) (mask : BitVec 4) : CWord :=
  { d := d, c := encodeCheck (sigOf w) d, psn := psn, st := st, mask := mask }

/-- The poison code of a word (03 R64). -/
def poisonWord (w : Nat) (st : WordState) (mask : BitVec 4) : CWord :=
  { d := 0, c := poisonCheck (sigOf w), psn := true, st := st, mask := mask }

/-- What the code of a cached word says (03 R62; 08 R182). A poisoned word is not judged again. -/
def CWord.judge (c : CWord) (w : Nat) : Judged :=
  if c.psn then .poison else Machine.judge (sigOf w) c.d c.c

/-- A cached word with one error corrected. -/
def CWord.corrected (c : CWord) (w : Nat) (d : Word) : CWord := { c with d := d, c := encodeCheck (sigOf w) d }

/-! ## Words of host memory (04 R89)

Beside the words of device memory the caches of a die hold words of host memory, under numbers of their own. Their home is the host. -/

/-- The number of the first word of host memory. -/
def hostBase : Nat := 2 ^ 50

/-- The number under which the caches hold a word of host memory.
DEDUCED, safe: notes/assumptions/107.md. -/
def hostWord (w : Nat) : Nat := hostBase + w

/-- A number is that of a word of host memory. -/
def isHostWord (x : Nat) : Bool := decide (hostBase ≤ x)

/-- The location of a cached word. -/
def cachedLoc (x : Nat) : Loc := if isHostWord x then .host (x - hostBase) else .dev x

/-- A word of host memory as the host has it. -/
def MemSys.hostData (m : MemSys) (w : Nat) : Word := BitVec.ofNat 32 (leNat (m.hostmem.readAll (4 * w) 4))

/-- A word of host memory as the hub reads it from the host. CXL.cache is enabled at step 15 of the start (04 R100): before that no
word of host memory can be read.
DESIGN CHOICE, unsafe: notes/assumptions/126.md.
DEDUCED, unsafe: notes/assumptions/99.md. -/
def State.hostFetch (s : State) (w : Nat) : Word × Bool :=
  if s.hub.hdm then (s.mem.hostData w, ahas s.mem.hostbad w) else (0, true)

/-- Bytes of a word that a die held modified go to the host.
DESIGN CHOICE, unsafe: notes/assumptions/126.md. -/
def State.hostPut (s : State) (w : Nat) (d : Word) (mask : BitVec 4) (psn : Bool) : State :=
  if s.hub.hdm then
    s.modMem fun m =>
      { m with hostmem := m.hostmem.writeAll (4 * w) (wordBytes (mergeBytes mask (m.hostData w) d))
               hostbad := if psn ∨ (mask ≠ 15 ∧ ahas m.hostbad w) then aset m.hostbad w true else adel m.hostbad w }
  else s

/-- Advances the count of accesses.
DEDUCED, safe: notes/assumptions/96.md. -/
def State.tick (s : State) : State := s.modMem fun m => { m with age := m.age + 1 }

/-! ## The LLC (03 R79) -/

/-- The set of a unit in its LLC slice. -/
def llcSet (w : Nat) : Nat := (w / 64 ^^^ w / 2 ^ 22) % 65536

/-- A word of an LLC unit through the decoder (03 R59, R62, R66): one error is corrected and counted, an uncorrectable word is
counted and poisoned. The word as it is delivered, and the state with the counts.
DEDUCED, safe: notes/assumptions/103.md. -/
def State.llcJudge (s : State) (w : Nat) (c : CWord) : CWord × State :=
  match c.judge w with
  | .clean _ => (c, s)
  | .fixed d => (c.corrected w d, s.countCe w)
  | .poison => ({ c with psn := true }, s)
  | .bad => (poisonWord w c.st c.mask, s.countUe w)

/-- Writes back the dirty words of an LLC unit and drops it (03 R68, R79). -/
def State.llcEvict (s : State) (u : Nat) : State :=
  match aget? s.mem.llc u with
  | none => s
  | some x =>
    let s := x.words.foldl (fun s p =>
      if p.2.st = .modified ∨ p.2.psn then
        let (c, s) := s.llcJudge (u * 64 + p.1) p.2
        s.writeStored x.kid (u * 64 + p.1) c.d c.psn
      else s) s
    s.modMem fun m => { m with llc := adel m.llc u }

/-- Makes room for a unit in the LLC under a key id: a unit of another key id is written back and dropped (05 R108), and a
full set of the slice gives up its victim. -/
def State.llcRoom (s : State) (kid u : Nat) : State :=
  match aget? s.mem.llc u with
  | some x => if x.kid = kid then s else s.llcEvict u
  | none =>
    let same := s.mem.llc.filter fun p =>
      llcSet (p.1 * 64) = llcSet (u * 64) ∧ s.mem.stackOf (p.1 * 64) = s.mem.stackOf (u * 64)
    if same.length < 16 then s
    else
      match victim same with
      | some v => s.llcEvict v.1
      | none => s

/-- The word of an LLC unit held under a key id, if it is held. -/
def State.llcWord (s : State) (kid w : Nat) : Option CWord :=
  match aget? s.mem.llc (w / 64) with
  | some x => if x.kid = kid then aget? x.words (w % 64) else none
  | none => none

/-- Puts a word into the LLC. -/
def State.llcPut (s : State) (kid w : Nat) (cls : EvClass) (c : CWord) : State :=
  let s := (s.llcRoom kid (w / 64)).tick
  s.modMem fun m =>
    { m with llc := amod { kid := kid } m.llc (w / 64) fun x =>
        { x with words := aset x.words (w % 64) c, cls := cls, use := m.age } }

/-- An access sets the class of an LLC unit and makes it the most recently used (03 R79; 08 R173). -/
def State.llcTouch (s : State) (u : Nat) (cls : EvClass) : State :=
  let s := s.tick
  s.modMem fun m =>
    match aget? m.llc u with
    | some x => { m with llc := aset m.llc u { x with cls := cls, use := m.age } }
    | none => m

/-- Reads one word of DRAM into the LLC, unless the LLC holds it (03 R66); a poisoned word enters as the poison code (21 R447).
What the LLC holds of the unit under another key id is written back before that (05 R108). -/
def State.llcFill (s : State) (kid w : Nat) (cls : EvClass) : State :=
  match s.llcWord kid w with
  | some _ => s.llcTouch (w / 64) cls
  | none =>
    let (e, psn, s) := (s.llcRoom kid (w / 64)).readStored w
    s.llcPut kid w cls (if psn then poisonWord w .shared 15 else cword w (e ^^^ keyWord ((s.keyOf kid).getD 0) w) false .shared 15)

/-- The words that a fill brings with a word: the neighbours that FILL names (08 R176). -/
def fillWords (w fill : Nat) : List Nat := (List.range (min (w % 64 + fill) 63 + 1 - w % 64)).map (w + ·)

/-- The word that the LLC holds, as the home reads it: a word judged uncorrectable becomes poisoned in the LLC (03 R62, R66).
DEDUCED, safe: notes/assumptions/103.md. -/
def State.llcRead (s : State) (kid w : Nat) : Option CWord × State :=
  match s.llcWord kid w with
  | none => (none, s)
  | some c =>
    let (x, s) := s.llcJudge w c
    (some x, if x.psn = c.psn then s
             else s.modMem fun m => { m with llc := amod { kid := kid } m.llc (w / 64) fun u => { u with words := aset u.words (w % 64) x } })

/-- The word at the home, filled if need be: its value and its poison. -/
def State.homeWord (s : State) (kid w : Nat) (cls : EvClass) : Word × Bool × State :=
  if isHostWord w then
    let (d, psn) := s.hostFetch (w - hostBase)
    (d, psn, s)
  else
    match (s.llcFill kid w cls).llcRead kid w with
    | (some c, s) => (c.d, c.psn, s)
    | (none, s) => (0, true, s)

/-- Whether the LLC misses a word of device memory. -/
def State.llcMisses (s : State) (kid w : Nat) : Bool := !isHostWord w && (s.llcWord kid w).isNone

/-- The neighbours that FILL names come into the LLC (08 R176), as when a word has missed it. -/
def State.llcNear (s : State) (kid w : Nat) (cls : EvClass) (fill : Nat) (missed : Bool) : State :=
  if missed then ((fillWords w fill).drop 1).foldl (fun s x => s.llcFill kid x cls) s else s

/-- A write at the home (03 R65, R67): a full word takes the value and the writer's poison; a part of a word is merged, and
the word stays poisoned if it was. -/
def State.homeStore (s : State) (kid w : Nat) (cls : EvClass) (d : Word) (mask : BitVec 4) (psn : Bool) : State :=
  let s := s.modMem fun m => { m with holds := adel m.holds w }
  if isHostWord w then s.hostPut (w - hostBase) d mask psn
  else if mask = 15 then s.llcPut kid w cls (cword w d psn .modified 15)
  else
    let (old, oldPsn, s) := s.homeWord kid w cls
    s.llcPut kid w cls (cword w (mergeBytes mask old d) (oldPsn || psn) .modified 15)

/-! ## The word directory, L2 and L1 -/

/-- The place of a unit in the map of a die's L2. -/
def l2Key (die u : Nat) : Nat := die * 2 ^ 46 + u

/-- The place of a unit in the map of a core's L1. -/
def l1Key (core u : Nat) : Nat := core * 2 ^ 46 + u

/-- What the directory keeps for a word; for a word of host memory, the hub's directory (04 R89). -/
def State.dirWord (s : State) (w : Nat) : DirWord :=
  if isHostWord w then aget {} s.hub.hostdir (w - hostBase) else aget {} (aget {} s.mem.dir (w / 64)).words (w % 64)

/-- Changes what the directory keeps for a word. -/
def State.modDir (s : State) (w : Nat) (f : DirWord → DirWord) : State :=
  if isHostWord w then s.modHub fun h => { h with hostdir := amod {} h.hostdir (w - hostBase) f }
  else
    s.modMem fun m =>
      { m with dir := amod {} m.dir (w / 64) fun e =>
          { e with words := amod {} e.words (w % 64) f, use := m.age } }

/-- The hub acquires the line of a word of host memory from the host (04 R89). -/
def State.ownLine (s : State) (w : Nat) : State :=
  if isHostWord w then s.modHub fun h => { h with lines := aset h.lines ((w - hostBase) / 16) true } else s

/-- Removes a word from one L1 (08 R174). -/
def State.l1Drop (s : State) (core w : Nat) : State :=
  s.modMem fun m =>
    match aget? m.l1 (l1Key core (w / 64)) with
    | some x => { m with l1 := aset m.l1 (l1Key core (w / 64)) { x with words := adel x.words (w % 64) } }
    | none => m

/-- Removes a word from every L1 of a die that its L2's presence bits mark (08 R174). -/
def State.l1Invalidate (s : State) (die w : Nat) (but : Option Nat) : State :=
  match aget? s.mem.l2 (l2Key die (w / 64)) with
  | some x => (setBits 40 x.pres.toNat).foldl (fun s c => if but = some (die * 40 + c) then s else s.l1Drop (die * 40 + c) w) s
  | none => s

/-- An entry, or the compile in progress into it, is not stale yet. -/
def ChEntry.fine (e : ChEntry) : Bool := if e.busy.isSome then !e.late else !e.stale

/-- An entry, or the compile in progress into it, becomes stale (12 R266). -/
def ChEntry.spoil (e : ChEntry) : ChEntry := if e.busy.isSome then { e with late := true } else { e with stale := true }

/-- Makes stale every Chisel entry of a core that a test picks, and counts those that were not (12 R266, R268). -/
def Core.unwatch (c : Core) (hit : ChEntry → Bool) : Core :=
  let n := (c.chisel.filter fun e => hit e && e.fine).length
  { c with chisel := c.chisel.map fun e => if hit e then e.spoil else e, stale := min 0xFF (c.stale + n) }

/-- Reports a write, an invalidation or a recall of a word in a die's L2 to the cores that watch it (12 R266). -/
def State.watchLoc (s : State) (die : Nat) (x : Loc) : State :=
  { s with cores := amap s.cores fun c y => if dieOfCore c = die then y.unwatch fun e => e.watch.contains x else y }

/-- Such a report of a cached word. -/
def State.watchWrite (s : State) (die w : Nat) : State := s.watchLoc die (cachedLoc w)

/-- The word that a die's L2 holds. -/
def State.l2Word (s : State) (die kid w : Nat) : Option CWord :=
  match aget? s.mem.l2 (l2Key die (w / 64)) with
  | some x => if x.kid = kid then aget? x.words (w % 64) else none
  | none => none

/-- Changes a word of a unit that a die's L2 holds. -/
def State.l2Mod (s : State) (die w : Nat) (f : AMap CWord → AMap CWord) : State :=
  s.modMem fun m =>
    match aget? m.l2 (l2Key die (w / 64)) with
    | some x => { m with l2 := aset m.l2 (l2Key die (w / 64)) { x with words := f x.words } }
    | none => m

/-- A read of a word of a die's L2 through its decoder (08 R182): one error is corrected in place; an uncorrectable word is dropped
when it is clean, so that it is fetched again, and becomes poisoned when it is modified or partial.
DEDUCED, safe: notes/assumptions/103.md. -/
def State.l2Check (s : State) (die kid w : Nat) : State :=
  match s.l2Word die kid w with
  | none => s
  | some c =>
    match c.judge w with
    | .clean _ => s
    | .fixed d => s.l2Mod die w fun ws => aset ws (w % 64) (c.corrected w d)
    | .poison => if c.psn then s else s.l2Mod die w fun ws => aset ws (w % 64) { c with psn := true }
    | .bad =>
      if c.st = .shared then s.l2Mod die w fun ws => adel ws (w % 64)
      else s.l2Mod die w fun ws => aset ws (w % 64) { c with psn := true }

/-- Sends what a die's L2 holds modified of a word to its home (08 R175), without changing the state of the word there. -/
def State.l2WriteBack (s : State) (die w : Nat) : State :=
  match aget? s.mem.l2 (l2Key die (w / 64)) with
  | none => s
  | some x =>
    let s := s.l2Check die x.kid w
    match s.l2Word die x.kid w with
    | none => s
    | some c =>
      match c.st with
      | .shared => s
      | .modified => s.homeStore x.kid w x.cls c.d 15 c.psn
      | .partly => s.homeStore x.kid w x.cls c.d c.mask c.psn

/-- An invalidation of a word at a die, or a recall that keeps it shared (03 R81; 08 R174, R175): modified data goes home,
the L1s drop the word, and watching Chisel entries become stale, also of a word for which the L2 had no way. -/
def State.l2Invalidate (s : State) (die w : Nat) (keep : Bool) : State :=
  let s := s.watchWrite die w
  match aget? s.mem.l2 (l2Key die (w / 64)) with
  | none => s
  | some x =>
    match aget? x.words (w % 64) with
    | none => s
    | some c =>
      let s := s.l2WriteBack die w
      let s := if keep then s else s.l1Invalidate die w none
      if keep then
        let (d, psn, s) := s.homeWord x.kid w x.cls
        if c.st = .shared then s else s.l2Mod die w fun ws => aset ws (w % 64) (cword w d psn .shared 15)
      else s.l2Mod die w fun ws => adel ws (w % 64)

/-- Writes back and drops a whole L2 unit of a die (08 R175; 05 R108), which its directory entry then no longer lists. -/
def State.l2Evict (s : State) (die u : Nat) : State :=
  match aget? s.mem.l2 (l2Key die u) with
  | none => s
  | some x =>
    let s := x.words.foldl (fun s p =>
      let w := u * 64 + p.1
      let s := (s.l2WriteBack die w).l1Invalidate die w none
      let s := s.watchWrite die w
      s.modDir w fun e => { e with sh := setBit e.sh die false, m := e.m && !e.sh.getLsbD die }) s
    s.modMem fun m => { m with l2 := adel m.l2 (l2Key die u) }

/-- The slice and set of a unit in an L2 (08 R175). -/
def l2Set (u : Nat) : Nat := u % 2 ^ 31 % 48 * 1024 + u % 2 ^ 31 / 48 % 1024

/-- A tile operation that is under way pins a unit (11 R232). -/
def State.pinned (s : State) (x : CUnit) : Bool := x.pins.any fun id => ahas s.ops id

/-- Makes room for a unit in a die's L2 under a key id. A set whose units are all pinned gives none up (11 R232). -/
def State.l2Room (s : State) (die kid u : Nat) : State :=
  match aget? s.mem.l2 (l2Key die u) with
  | some x => if x.kid = kid then s else s.l2Evict die u
  | none =>
    let same := s.mem.l2.filter fun p => p.1 / 2 ^ 46 = die ∧ l2Set (p.1 % 2 ^ 46) = l2Set u
    if same.length < 16 then s
    else
      match victim (same.filter fun p => !s.pinned p.2) with
      | some v => s.l2Evict die (v.1 % 2 ^ 46)
      | none => s

/-- No way is left for a unit in a die's L2: all 16 are pinned (11 R232). -/
def State.l2Full (s : State) (die u : Nat) : Bool :=
  !ahas s.mem.l2 (l2Key die u)
    && decide (16 ≤ (s.mem.l2.filter fun p => p.1 / 2 ^ 46 = die ∧ l2Set (p.1 % 2 ^ 46) = l2Set u).length)

/-- Puts a word into a die's L2. Where its set is full of pinned units, no way is left for it: what it holds modified is written at
its home at once.
DEDUCED, safe: notes/assumptions/104.md. -/
def State.l2Put (s : State) (die kid w : Nat) (cls : EvClass) (c : CWord) : State :=
  let s := (s.l2Room die kid (w / 64)).tick
  if s.l2Full die (w / 64) then (if c.st = .shared then s else s.homeStore kid w cls c.d c.mask c.psn)
  else s.modMem fun m =>
    { m with l2 := amod { kid := kid } m.l2 (l2Key die (w / 64)) fun x =>
        { x with words := aset x.words (w % 64) c, cls := cls, use := m.age } }

/-- The dies other than one. -/
def otherDies (die : Nat) : List Nat := (List.range 4).filter (· != die)

/-! ## Copies that other packages and the host hold -/

/-- The remote packages whose copies of a word a request revokes (02 R46): the modifier, and for a write the sharers too, but not
those that have given their copy up. -/
def State.remoteHolders (s : State) (w : Nat) (write : Bool) (but : Option Nat) : List Nat :=
  let e := aget {} s.mem.dir (w / 64)
  let x := s.dirWord w
  let ps :=
    if x.rst = 2 then [e.rlist.getD x.ridx 1024]
    else if x.rst = 1 ∧ write then
      ((if e.rovf then (s.arm.routes.filter fun p => p.2.valid && p.1 != s.arm.pkgid).map (·.1) else e.rlist).filter fun p =>
        !x.gone.contains p)
    else []
  ps.filter fun p => p < 1024 && but != some p && (s.routeTo p).isSome

/-- Sends an INV for a word to a package (02 R46). -/
def State.sendInv (s : State) (w pkg : Nat) : State :=
  s.sendRequest { opc := 0x06, srcComp := 5, srcPkg := s.arm.pkgid, dstPkg := pkg, mask := maskOf [w % 64], unit := s.unitOf w } 1 w

/-- Revokes the copies of a word that packages hold: what then names the word waits for their answers (03 R82). -/
def State.recallFrom (s : State) (w : Nat) (ps : List Nat) : State :=
  ps.foldl (fun s p => s.sendInv w p) (s.modMem fun m => { m with recalls := aset m.recalls w ps })

/-- The set of an entry in the word directory: 32,768 sets of 16 ways (03 R80; PRESUMED, unsafe: notes/assumptions/9.md). -/
def dirSet (u : Nat) : Nat := u % 32768

/-- The entry that the word directory of a unit's Plinth gives up for the unit: the least recently used of a full set.
DEDUCED, safe: notes/assumptions/105.md. -/
def MemSys.dirVictim (m : MemSys) (u : Nat) : Option (Nat × DirEntry) :=
  if ahas m.dir u then none
  else
    let same := m.dir.filter fun p => dirSet p.1 = dirSet u ∧ m.stackOf (p.1 * 64) = m.stackOf (u * 64)
    if same.length < 16 then none
    else same.foldl (fun (b : Option (Nat × DirEntry)) p =>
      match b with
      | none => some p
      | some q => if p.2.use < q.2.use then some p else some q) none

/-- The words of the entry that the word directory would give up for a unit, whose copies other packages hold, with those packages. -/
def State.roomHolders (s : State) (u : Nat) : List (Nat × List Nat) :=
  match if u < 2 ^ 31 then s.mem.dirVictim u else none with
  | none => []
  | some v => (v.2.words.map fun p => (v.1 * 64 + p.1, s.remoteHolders (v.1 * 64 + p.1) true none)).filter fun p => !p.2.isEmpty

/-- Makes room in the word directory for a unit (03 R81): the entry given up invalidates every holder and collects the modified
data. One of which other packages hold words is not given up before they have answered: a request that needs room waits for that.
DEDUCED, safe: notes/assumptions/105.md. -/
def State.dirRoom (s : State) (u : Nat) : State :=
  match if (s.roomHolders u).isEmpty ∧ u < 2 ^ 31 then s.mem.dirVictim u else none with
  | none => s
  | some v =>
    let s := v.2.words.foldl (fun s p => (List.range 4).foldl (fun s d => s.l2Invalidate d (v.1 * 64 + p.1) false) s) s
    s.modMem fun m => { m with dir := adel m.dir v.1 }

/-- A read of a word has to wait at its home (03 R82; 04 R88; 02 R46): for a back-invalidation of its line, for a recall of the
word, or for the modifier of another package. -/
def State.heldHome (s : State) (w : Nat) : Bool :=
  !isHostWord w && (ahas s.hub.snoops (w / 16) || ahas s.mem.recalls w || ahas s.hub.filter (w / 16)
    || !(s.remoteHolders w false none).isEmpty)

/-- A read of a word by a die has to wait at its home: for the same, or for the room that its unit needs in the word directory. -/
def State.heldAway (s : State) (w : Nat) : Bool := s.heldHome w || (!isHostWord w && !(s.roomHolders (w / 64)).isEmpty)

/-- Read shared (03 R81): a modified word is recalled from its owner, and the die is added to SH. -/
def State.readShared (s : State) (die w : Nat) : State :=
  let s := (s.dirRoom (w / 64)).ownLine w
  let e := s.dirWord w
  let s := if e.m then
      (otherDies die).foldl (fun s d => if e.sh.getLsbD d then s.l2Invalidate d w true else s) s else s
  let own := e.m && e.sh.getLsbD die
  if own then s else s.modDir w fun e => { e with sh := setBit e.sh die true, m := false }

/-- Invalidates the copies of a word in every die but one, and in that one too when `all` (03 R81). -/
def State.revoke (s : State) (w : Nat) (but : Option Nat) : State :=
  (List.range 4).foldl (fun s d => if but = some d then s else s.l2Invalidate d w false) s

/-- Read for modification (03 R81): every other die's copy is invalidated, and the die becomes the owner. What the die holds of the
unit under another key id is written back before that (05 R108). -/
def State.readForMod (s : State) (die kid w : Nat) : State :=
  let s := (((s.l2Room die kid (w / 64)).dirRoom (w / 64)).ownLine w).revoke w (some die)
  s.modDir w fun e => { e with sh := setBit 0 die true, m := true, rst := 0 }

/-- The word at its home with every die's copy invalidated (03 R81: write or atomic at the home). -/
def State.homeOnly (s : State) (w : Nat) : State :=
  let s := s.revoke w none
  if (s.dirWord w).sh = 0 then s else s.modDir w fun e => { e with sh := 0, m := false }

/-- The number of remote packages that the directory shows for a word's unit. -/
def State.remotes (s : State) (w : Nat) : List Nat := (aget {} s.mem.dir (w / 64)).rlist

/-- A word that a die's L2 lacks, read shared from its home and put into the L2. -/
def State.l2Fetch (s : State) (die kid w : Nat) (cls : EvClass) : Word × Bool × State :=
  let (d, psn, s) := (s.readShared die w).homeWord kid w cls
  (d, psn, s.l2Put die kid w cls (cword w d psn .shared 15))

/-- Brings a neighbour that FILL names into a die's L2, unless the L2 holds it: one that its home holds back arrives later
(08 R176; 03 R82). -/
def State.l2Bring (s : State) (die kid : Nat) (cls : EvClass) (x : Nat) : State :=
  if (s.l2Word die kid x).isSome then s
  else if s.heldAway x then s.append [{ op := .homeReadShared, arg := { die := die, kid := kid, w := x, cls := cls } }]
  else (s.l2Fetch die kid x cls).2.2

/-- A word as a die's L2 reads it (08 R175, R176, R182): from the L2; or merged with what its home holds when only part of it is
present; or from the home. On a miss the FILL neighbours come along, into the L2, and into the LLC when it missed too. -/
def State.l2Read (s : State) (die kid w : Nat) (cls : EvClass) (fill : Nat) : Word × Bool × State :=
  let s := (s.l2Room die kid (w / 64)).l2Check die kid w
  match s.l2Word die kid w with
  | some c =>
    if c.st = .partly then
      let (old, oldPsn, s) := s.homeWord kid w cls
      let d := mergeBytes c.mask old c.d
      (d, c.psn || oldPsn, s.l2Put die kid w cls (cword w d (c.psn || oldPsn) .modified 15))
    else (c.d, c.psn, s.l2Put die kid w cls c)
  | none =>
    let near := (fillWords w fill).drop 1
    let missed := s.llcMisses kid w
    let (d, psn, s) := s.l2Fetch die kid w cls
    (d, psn, (near.foldl (fun s x => s.l2Bring die kid cls x) s).llcNear kid w cls fill missed)

/-- The word as its home has it after a recall of what a die holds modified (03 R81). -/
def State.recallWord (s : State) (w : Nat) : State :=
  if (s.dirWord w).m then
    ((List.range 4).foldl (fun s d => if (s.dirWord w).sh.getLsbD d then s.l2Invalidate d w true else s) s).modDir w
      fun e => { e with m := false }
  else s

/-- A word as a component without an L2 reads it at its home: the hub, a Plinth (09 R190; 14 R301). -/
def State.homeRead (s : State) (kid w : Nat) (cls : EvClass) (fill : Nat) : Word × Bool × State :=
  let missed := s.llcMisses kid w
  let (d, psn, s) := ((s.recallWord w).ownLine w).homeWord kid w cls
  (d, psn, s.llcNear kid w cls fill missed)

/-- Merges bytes into a byte memory under a mask. -/
def Memory.merge (m : Memory) (a : Nat) (d : Word) (mask : BitVec 4) : Memory :=
  let old : Word := BitVec.ofNat 32 (leNat (m.readAll a 4))
  m.writeAll a (wordBytes (mergeBytes mask old d))

/-- The word of host memory that a die's L2 holds.
DEDUCED, safe: notes/assumptions/107.md. -/
def State.hostHeld (s : State) (die w : Nat) : Option CWord := s.l2Word die 0 (hostWord w)

/-- A die's copy of a word of host memory is recalled (04 R89): what it holds modified goes to the host. -/
def State.hostRecall (s : State) (die w : Nat) : State := s.l2Invalidate die (hostWord w) false

/-- The word that a core's L1 holds. -/
def State.l1Word (s : State) (core kid w : Nat) : Option CWord :=
  match aget? s.mem.l1 (l1Key core (w / 64)) with
  | some x => if x.kid = kid then aget? x.words (w % 64) else none
  | none => none

/-- The L1 unit that holds a logged write. -/
def logUnit (e : LogEntry) : Nat :=
  match e.loc with
  | .dev w => w / 64
  | .host w => hostWord w / 64
  | _ => 0

/-- The units of a set that the interval logs of a core's teams pin (08 R174).
DEDUCED, unsafe: notes/assumptions/97.md. -/
def State.logPins (s : State) (core set : Nat) : List (Nat × Nat) :=
  (s.teams.flatMap fun p =>
    if p.2.core = core then (p.2.log.filter fun e => logUnit e % 64 = set).map fun e => (p.1, logUnit e) else []).eraseDups

/-- Lets a set of a core's L1 hold at most so many cached units: one more than that gives up the next to be replaced.
DEDUCED, unsafe: notes/assumptions/97.md. -/
def State.l1Trim (s : State) (core set ways : Nat) : State :=
  let same := s.mem.l1.filter fun p => p.1 / 2 ^ 46 = core ∧ p.1 % 64 = set
  match if same.length ≤ ways then none else victim same with
  | some k => s.modMem fun m => { m with l1 := adel m.l1 k.1 }
  | none => s

/-- Puts a word into a core's L1: 64 sets of 8 ways, indexed by W[11:6], of which those that logs pin are not to be had; the L2
unit's presence bit is set (08 R174). A unit that the L2 does not hold stays out of the L1, since no presence bit could mark it.
DEDUCED, safe: notes/assumptions/104.md. -/
def State.l1Put (s : State) (core kid w : Nat) (cls : EvClass) (c : CWord) : State :=
  let s := s.tick
  let u := w / 64
  let held := ahas s.mem.l2 (l2Key (dieOfCore core) u)
  let ways := if held then 8 - (s.logPins core (u % 64)).length else 0
  let s := if ahas s.mem.l1 (l1Key core u) ∨ !held then s else s.l1Trim core (u % 64) (ways - 1)
  if ways = 0 then s
  else
    s.modMem fun m =>
      { m with
        l1 := amod { kid := kid } m.l1 (l1Key core u) fun x =>
          { (if x.kid = kid then x else { kid := kid }) with
            words := aset (if x.kid = kid then x.words else []) (w % 64) c, cls := cls, use := m.age }
        l2 := match aget? m.l2 (l2Key (dieOfCore core) u) with
          | some x => aset m.l2 (l2Key (dieOfCore core) u) { x with pres := setBit x.pres (core % 40) true }
          | none => m.l2 }

/-- A read of a word of a core's L1 through its decoder (08 R182): one error is corrected in place; an uncorrectable word, which is
never the only copy, is dropped and fetched again.
DEDUCED, safe: notes/assumptions/103.md. -/
def State.l1Check (s : State) (core kid w : Nat) : State :=
  let put (f : AMap CWord → AMap CWord) : State :=
    s.modMem fun m => { m with l1 := amod { kid := kid } m.l1 (l1Key core (w / 64)) fun x => { x with words := f x.words } }
  match s.l1Word core kid w with
  | none => s
  | some c =>
    match c.judge w with
    | .clean _ => s
    | .fixed d => put fun ws => aset ws (w % 64) (c.corrected w d)
    | .poison => if c.psn then s else put fun ws => aset ws (w % 64) { c with psn := true }
    | .bad => put fun ws => adel ws (w % 64)

/-- An access sets the class of an L1 unit and makes it the most recently used (08 R173). -/
def State.l1Touch (s : State) (core u : Nat) (cls : EvClass) : State :=
  let s := s.tick
  s.modMem fun m =>
    match aget? m.l1 (l1Key core u) with
    | some x => { m with l1 := aset m.l1 (l1Key core u) { x with cls := cls, use := m.age } }
    | none => m

/-- A word through a core's L1 (08 R174, R176): on a miss it and the FILL neighbours that the L1 lacks come from the L2. -/
def State.l1Read (s : State) (core kid w : Nat) (cls : EvClass) (fill : Nat) : Word × Bool × State :=
  let s := s.l1Check core kid w
  match s.l1Word core kid w with
  | some c => (c.d, c.psn, s.l1Touch core (w / 64) cls)
  | none =>
    let die := dieOfCore core
    let (d, psn, s) := s.l2Read die kid w cls fill
    let s := s.l1Put core kid w cls (cword w d psn .shared 15)
    (d, psn, ((fillWords w fill).drop 1).foldl (fun s x =>
      if (s.l1Word core kid x).isSome then s
      else if (s.l2Word die kid x).isNone && s.heldAway x then s.l2Bring die kid cls x
      else
        let (d, psn, s) := s.l2Read die kid x cls 0
        s.l1Put core kid x cls (cword x d psn .shared 15)) s)

/-- PREF of a word (08 R176; 18 R377): the L1 and the L2 come to hold it and its FILL neighbours, with the class of the policy. -/
def State.prefWord (s : State) (core kid w : Nat) (cls : EvClass) (fill : Nat) : State :=
  let die := dieOfCore core
  (fillWords w fill).foldl (fun s x =>
    if x ≠ w ∧ (s.l2Word die kid x).isNone ∧ s.heldAway x then s.l2Bring die kid cls x
    else
      let (d, psn, s) := (s.l1Check core kid x).l2Read die kid x cls 0
      if (s.l1Word core kid x).isSome then s.l1Touch core (x / 64) cls else s.l1Put core kid x cls (cword x d psn .shared 15)) s

/-! ## Clocks (09 R190) -/

/-- Component k of a clock. -/
def VClock.comp (v : VClock) : Nat → Nat
  | 0 => v.d0
  | 1 => v.d1
  | 2 => v.d2
  | 3 => v.d3
  | 4 => v.h
  | _ => v.p

/-- A clock with component k advanced. -/
def VClock.bump (v : VClock) (k : Nat) : VClock :=
  match k with
  | 0 => { v with d0 := v.d0 + 1 }
  | 1 => { v with d1 := v.d1 + 1 }
  | 2 => { v with d2 := v.d2 + 1 }
  | 3 => { v with d3 := v.d3 + 1 }
  | 4 => { v with h := v.h + 1 }
  | _ => { v with p := v.p + 1 }

/-- The componentwise maximum. -/
def VClock.join (a b : VClock) : VClock :=
  { d0 := max a.d0 b.d0, d1 := max a.d1 b.d1, d2 := max a.d2 b.d2, d3 := max a.d3 b.d3, h := max a.h b.h, p := max a.p b.p }

/-- CanApply (09 R190). -/
def canApply (o : Nat) (stamp vc : VClock) : Bool :=
  stamp.comp o == vc.comp o + 1 && (List.range 6).all fun k => k == o || stamp.comp k ≤ vc.comp k

/-- The clock of a component. -/
def State.vc (s : State) (e : Nat) : VClock := aget {} s.mem.vcs e

/-- Applies a stamped write at a component, if CanApply holds. A write applied everywhere is forgotten. -/
def State.tryApply (s : State) (e id : Nat) : State :=
  match aget? s.mem.writes id with
  | none => s
  | some w =>
    match w.stamp with
    | none => s
    | some st =>
      if w.togo.contains e && canApply w.comp st (s.vc e) then
        let togo := w.togo.filter (· != e)
        s.modMem fun m =>
          { m with vcs := aset m.vcs e ((s.vc e).join st)
                   writes := if togo.isEmpty then adel m.writes id else aset m.writes id { w with togo := togo } }
      else s

/-- The writes that a component can apply now. -/
def State.applicable (s : State) (e : Nat) : List Nat :=
  (s.mem.writes.filter fun p => match p.2.stamp with
    | some st => p.2.togo.contains e && canApply p.2.comp st (s.vc e)
    | none => false).map (·.1)

/-- Applies at a component what can be applied, up to a number of times over. -/
def State.applyUpTo (e : Nat) : Nat → State → State
  | 0, s => s
  | n + 1, s =>
    match s.applicable e with
    | [] => s
    | ids => State.applyUpTo e n (ids.foldl (fun s id => s.tryApply e id) s)

/-- Applies at a component every write that can be applied, until none is left (09 R190). -/
def State.applyAll (s : State) (e : Nat) : State := State.applyUpTo e (s.mem.writes.length + 1) s

/-- Stamps a write at its own component (09 R190, PerformAtDie and the H and P rules). -/
def State.stampWrite (s : State) (id : Nat) : State :=
  match aget? s.mem.writes id with
  | none => s
  | some w =>
    let v := (s.vc w.comp).bump w.comp
    s.modMem fun m =>
      { m with vcs := aset m.vcs w.comp v
               writes := aset m.writes id { w with stamp := some v, core := none,
                                                   togo := (List.range 6).filter (· != w.comp) } }

/-- A write enters the machine; its identifier. -/
def State.newWrite (s : State) (w : Write) : Nat × State :=
  let (id, s) := s.fresh
  (id, s.modMem fun m => { m with writes := aset m.writes id w })

/-- What an atomic operation makes of the old word (18 R382); `f` gives the f32 operations. -/
def aluAtom (f : Nat → Word → Word → Word) (op : Nat) (old d new : Word) : Word :=
  match op with
  | 0 => old + d
  | 1 => old &&& d
  | 2 => old ||| d
  | 3 => old ^^^ d
  | 4 => if BitVec.sle old d then old else d
  | 5 => if BitVec.sle old d then d else old
  | 6 => if old ≤ d then old else d
  | 7 => if old ≤ d then d else old
  | 11 => d
  | 12 => if old = d then new else old
  | o => f o old d

/-! ## Scratchpad (08 R177 to R179) -/

/-- The place of a scratchpad word on a core: bank and row. -/
def spadKey (core bank row : Nat) : Nat := (core * 40 + bank) * 4096 + row

/-- The stored word of a scratchpad bank; zero when nothing has been stored. -/
def MemSys.bankWord (m : MemSys) (core bank row : Nat) : CWord := aget { d := 0, c := 0 } m.spad (spadKey core bank row)

/-- Stores a scratchpad word with its check bits; zero is what nothing stored reads as. -/
def MemSys.setBank (m : MemSys) (core bank row : Nat) (d : Word) (c : Byte) : MemSys :=
  { m with spad := if d = 0 ∧ c = 0 then adel m.spad (spadKey core bank row)
                   else aset m.spad (spadKey core bank row) { d := d, c := c } }

/-- A word of a bank as the decoder reads it (03 R62 with Sig 0): its data, if it can be read. -/
def MemSys.bankData (m : MemSys) (core bank row : Nat) : Option Word :=
  match judge 0 (m.bankWord core bank row).d (m.bankWord core bank row).c with
  | .clean d => some d
  | .fixed d => some d
  | _ => none

/-- The XOR of words that can all be read. -/
def xorAll : List (Option Word) → Option Word
  | [] => some 0
  | none :: _ => none
  | some x :: xs => (xorAll xs).map (x ^^^ ·)

/-- The other data banks of a bank's parity group. -/
def partners (bank : Nat) : List Nat := ((List.range 4).map (bank / 4 * 4 + ·)).filter (· != bank)

/-- Rebuilds a word from its partners and the parity word (08 R179).
DEDUCED, safe: notes/assumptions/106.md. -/
def MemSys.rebuild (m : MemSys) (core bank row : Nat) : Option Word :=
  xorAll (m.bankData core (32 + bank / 4) row :: (partners bank).map fun b => m.bankData core b row)

/-- A data word of a bank as the parity of its group takes it: corrected; the poison code counts as the zero that it stores. -/
def MemSys.bankShare (m : MemSys) (core bank row : Nat) : Option Word :=
  match judge 0 (m.bankWord core bank row).d (m.bankWord core bank row).c with
  | .clean d => some d
  | .fixed d => some d
  | .poison => some 0
  | .bad => none

/-- Writes a data word of a row, or its poison code, or nothing, and brings the parity of its group up to date (08 R177, R179): the
XOR of the four data words. A partner that cannot be read counts as what it is rebuilt to, and is poisoned where it cannot be rebuilt.
DEDUCED, safe: notes/assumptions/106.md. -/
def MemSys.writeRow (m : MemSys) (core bank row : Nat) (new : Option (Word × Bool)) : MemSys :=
  let old := ((List.range 4).map (bank / 4 * 4 + ·)).map fun b =>
    (b, match m.bankShare core b row with
        | some d => some d
        | none => m.rebuild core b row)
  let value (x : Nat × Option Word) : Word :=
    match if x.1 = bank then new else none with
    | some (v, bad) => if bad then 0 else v
    | none => x.2.getD 0
  let m := old.foldl (fun m x => if x.2.isNone then m.setBank core x.1 row 0 0xFF else m) m
  let m := match new with
    | some (v, bad) => if bad then m.setBank core bank row 0 0xFF else m.setBank core bank row v (encodeCheck 0 v)
    | none => m
  let p := old.foldl (fun p x => p ^^^ value x) 0
  m.setBank core (32 + bank / 4) row p (encodeCheck 0 p)

/-- A parity word found uncorrectable is recomputed from its four data words (08 R179). -/
def MemSys.checkParity (m : MemSys) (core bank row : Nat) : MemSys :=
  match m.bankData core (32 + bank / 4) row with
  | some _ => m
  | none => m.writeRow core bank row none

/-- Reads a scratchpad word (08 R179): corrected; rebuilt and written back; or poisoned. -/
def State.padRead (s : State) (core bank row : Nat) : Word × Bool × State :=
  let x := s.mem.bankWord core bank row
  match judge 0 x.d x.c with
  | .clean d => (d, false, s)
  | .fixed d => (d, false, s.modCore core fun c => { c with ce := satInc 0xFFFF c.ce })
  | .poison => (0, true, s.modCore core fun c => { c with psn := satInc 0xFF c.psn })
  | .bad =>
    match s.mem.rebuild core bank row with
    | some d => (d, false, (s.modMem fun m => m.setBank core bank row d (encodeCheck 0 d)).modCore core
        fun c => { c with rb := satInc 0xFF c.rb })
    | none => (0, true, (s.modMem fun m => (m.setBank core bank row 0 0xFF).checkParity core bank row).modCore core
        fun c => { c with psn := satInc 0xFF c.psn })

/-- Writes a scratchpad word (08 R177): the masked bytes, the parity word, and poison as the poison code (R179). A part of a
poisoned word is merged and the word stays poisoned (03 R67). -/
def State.padWrite (s : State) (core bank row : Nat) (d : Word) (mask : BitVec 4) (psn : Bool) : State :=
  let (old, oldPsn, s) := if mask = 15 then (0, false, s) else s.padRead core bank row
  let v := if mask = 15 then d else mergeBytes mask old d
  s.modMem fun m => m.writeRow core bank row (some (v, psn || (mask != 15 && oldPsn)))

/-- The place of a byte offset of a team's scratchpad (06 R126; 08 R177): core, bank, row. -/
def Team.padPlace (t : Team) (o : Nat) : Nat × Nat × Nat :=
  (t.core, o / 4 % 32, t.granules.getD (o / 4096) 0 * 32 + o % 4096 / 128)

end Sys2Proof.Machine
end

