-- ==== Sys2Proof/Machine/Xlate.lean ====
section
/-!
DEFINITION. Machine/Xlate.lean: policy words, address spaces, translation, and the words that an access names (08 R161 to R172;
18 R371, R375).
-/

namespace Sys2Proof.Machine

/-! ## Policy words (08 R170, R171; 09 R197, R198) -/

/-- The ORDER field. -/
def polOrder (p : Word) : Nat := bitsOf p 2 0

/-- The SCOPE field. -/
def polScope (p : Word) : Nat := bitsOf p 5 3

/-- The SPACE field. -/
def polSpace (p : Word) : Nat := bitsOf p 7 6

/-- The USE field. -/
def polUse (p : Word) : Nat := bitsOf p 10 8

/-- The FILL field. -/
def polFill (p : Word) : Nat := bitsOf p 15 11

/-- The kinds of access that a policy word is checked for (08 R171; 09 R197). -/
inductive AccessKind where
  | load
  | burstLoad
  | check
  | store
  | burstStore
  | multicast
  | atomRet
  | atomNon (op : Nat)
  | prefetch
  deriving DecidableEq, Repr

/-- The orders that a kind accepts (08 R171). -/
def AccessKind.orders : AccessKind → List Nat
  | .load | .burstLoad | .check => [0, 1, 2, 5]
  | .store | .burstStore | .multicast => [0, 1, 3, 5]
  | .atomRet | .atomNon _ => [0, 1, 2, 3, 4, 5]
  | .prefetch => [0]

/-- The operations of a commutative atomic (09 R198). -/
def commutes (op : Nat) : Bool := op ≤ 9

/-- The declared uses that a kind allows (09 R197, R198; 18 R383). -/
def AccessKind.usesOk (k : AccessKind) (use : Nat) : Bool :=
  match use with
  | 0 => true
  | 1 => match k with
    | .atomNon op => commutes op
    | _ => false
  | 2 => k != .prefetch
  | 3 => match k with
    | .store | .burstStore | .multicast | .atomNon _ => true
    | _ => false
  | 4 => k == .load || k == .burstLoad || k == .check
  | _ => false

/-- Whether a kind writes. -/
def AccessKind.writes : AccessKind → Bool
  | .store | .burstStore | .multicast | .atomRet | .atomNon _ => true
  | _ => false

/-- The checks of 08 R171 on a policy word. -/
def policyOk (k : AccessKind) (p : Word) : Bool :=
  polOrder p ≤ 5 && polScope p ≤ 5 && polUse p ≤ 4
    && (polUse p == 0 || polOrder p == 1)
    && k.orders.contains (polOrder p)
    && !(polSpace p == 3 && k.writes)
    && k.usesOk (polUse p)

/-! ## Translation (08 R161 to R167) -/

/-- What a translation is for. -/
inductive XKind where
  | read | write | fetch
  deriving DecidableEq, Repr

/-- A page-table entry breaks a rule of 08 R162 at a level. -/
def pteBad (e : Nat) (n : Nat) : Bool :=
  let v := fun i => e.testBit i
  let pa := e / 4096 % 2 ^ 40 * 4096
  let leaf := v 1
  let isLeaf := n = 0 || leaf
  e / 2 ^ 52 != 0 || e / 64 % 64 != 0
    || (n != 0 && v 5)                              -- SZ64 at level 0 only
    || (n = 0 && !leaf) || (n ≥ 3 && leaf)
    || (v 4 && !(n = 0 && !v 5))                    -- HOST only in a 4 KiB leaf
    || (!isLeaf && (v 2 || v 3 || v 4 || v 5))      -- a non-leaf entry grants nothing
    || (!v 4 && pa ≥ 2 ^ 39)
    || (isLeaf && n = 2 && pa % 2 ^ 30 != 0)
    || (isLeaf && n = 1 && pa % 2 ^ 21 != 0)
    || (isLeaf && n = 0 && v 5 && pa % 2 ^ 16 != 0)

/-- The size of the page that a leaf at a level maps (08 R162). -/
def leafSize (e n : Nat) : Nat :=
  if n = 2 then 2 ^ 30 else if n = 1 then 2 ^ 21 else if e.testBit 5 then 2 ^ 16 else 2 ^ 12

/-- Why a translation does not come about: a fault of a kind, or a word of a table that its home holds back (03 R82). -/
inductive XFail where
  | fault (kind : Nat)
  | held (w : Nat)
  deriving DecidableEq, Repr

/-- A read of a word by a die has to wait at the word's home: its L2 does not hold the word.
DEDUCED, safe: notes/assumptions/35.md. -/
def State.blocked (s : State) (die kid w : Nat) : Bool := (s.l2Word die kid w).isNone && s.heldAway w

/-- Reads a page-table entry under a key id, through the die's L2 (08 R162): the entry and whether it is poisoned.
DEDUCED, safe: notes/assumptions/35.md. -/
def State.readEntry (s : State) (die kid pa : Nat) : Except XFail (Nat × Bool) × State :=
  let w := pa / 4
  if !(backed s.mem.span w && (s.keyOf kid).isSome) then (.ok (0, true), s)
  else if s.blocked die kid w then (.error (.held w), s)
  else if s.blocked die kid (w + 1) then (.error (.held (w + 1)), s)
  else
    let (a, p, s) := s.l2Read die kid w .normal 0
    let (b, q, s) := s.l2Read die kid (w + 1) .normal 0
    (.ok (a.toNat + b.toNat * 2 ^ 32, p || q), s)

/-- Walk (08 R163), from level `n - 1` down: the entry to hold, or why there is none. -/
def State.walk (s : State) (die ctx va : Nat) (kind : XKind) : Nat → Nat → Except XFail TlbEntry × State
  | 0, _ => (.error (.fault 3), s)
  | n + 1, t =>
    match s.readEntry die ctx (t + 8 * (va / 2 ^ (12 + 9 * n) % 512)) with
    | (.error x, s) => (.error x, s)
    | (.ok (e, psn), s) =>
      if psn then (.error (.fault 5), s)
      else if !e.testBit 0 then (.error (.fault 0), s)
      else if pteBad e n then (.error (.fault 3), s)
      else if n = 0 ∧ !e.testBit 5 ∧ !e.testBit 4 then (.error (.fault 4), s)
      else if n = 0 ∨ e.testBit 1 then
        if kind = .write ∧ !e.testBit 2 then (.error (.fault 1), s)
        else if kind = .fetch ∧ !e.testBit 3 then (.error (.fault 2), s)
        else
          let size := leafSize e n
          (.ok { ctx := ctx, va := va / size * size, size := size, pa := e / 4096 % 2 ^ 40 * 4096,
                 w := e.testBit 2, x := e.testBit 3, host := e.testBit 4, use := s.mem.age }, s)
      else s.walk die ctx va kind n (e / 4096 % 2 ^ 40 * 4096)

/-- Whether a held translation covers an address of a context. -/
def TlbEntry.covers (e : TlbEntry) (ctx va : Nat) : Bool := e.ctx == ctx && va / e.size * e.size == e.va

/-- Whether a held translation grants what an access needs (08 R167). -/
def TlbEntry.grants (e : TlbEntry) : XKind → Bool
  | .read => true
  | .write => e.w
  | .fetch => e.x

/-- The entries of the four TLBs (08 R165). -/
def tlbSize : Nat → Nat
  | 0 => 256
  | 1 => 128
  | 2 => 64
  | _ => 32

/-- Removes the least recently used of the entries that may go. -/
def dropOldest (es : List TlbEntry) (may : TlbEntry → Bool) : List TlbEntry :=
  match (es.filter may).foldl (fun (b : Option TlbEntry) e =>
      match b with
      | none => some e
      | some x => if e.use < x.use then some e else some x) none with
  | some x => es.erase x
  | none => es

/-- The set of a page in the load-store TLB: 32 sets of 8 ways (PRESUMED, unsafe: notes/assumptions/9.md). -/
def tlbSet (va : Nat) : Nat := va / 65536 % 32

/-- Adds an entry to a TLB, with the replacement of 08 R165.
DEDUCED, safe: notes/assumptions/108.md. -/
def tlbAdd (tlb : Nat) (es : List TlbEntry) (e : TlbEntry) : List TlbEntry :=
  let es' :=
    if tlb = 0 then
      let same := es.filter fun x => tlbSet x.va = tlbSet e.va
      if same.length < 8 then es else dropOldest es fun x => tlbSet x.va = tlbSet e.va
    else if es.length < tlbSize tlb then es
    else if tlb = 2 then es.drop 1
    else if tlb = 3 then dropOldest es fun x => x.pins.isEmpty
    else dropOldest es fun _ => true
  es' ++ [e]

/-- Pins an instruction page for a launch that fetches it: the first 24 pages that the launch fetches on the core stay pinned, and
eight entries are never pinned (08 R165).
DEDUCED, safe: notes/assumptions/108.md. -/
def pinPage (es : List TlbEntry) (launch : Nat) (e : TlbEntry) : TlbEntry :=
  if launch = 0 ∨ e.pins.contains launch ∨ 24 ≤ (es.filter fun x => x.pins.contains launch).length
      ∨ (e.pins.isEmpty ∧ 24 ≤ (es.filter fun x => !x.pins.isEmpty).length) then e
  else { e with pins := e.pins ++ [launch] }

/-- Translates an address of a context on a core through one of its TLBs (08 R163, R167): the physical byte address and
whether it is host memory, or why there is none. -/
def State.translate (s : State) (core tlb ctx va : Nat) (kind : XKind) (launch : Nat) :
    Except XFail (Nat × Bool) × State :=
  let es := aget [] s.tlbs (core * 4 + tlb)
  let pin (e : TlbEntry) : TlbEntry := if tlb = 3 then pinPage es launch e else e
  match es.find? fun e => e.covers ctx va && e.grants kind with
  | some e =>
    let es := es.map fun x => if x == e && tlb != 2 then pin { x with use := s.mem.age } else x
    (.ok (e.pa + (va - e.va), e.host), { s with tlbs := aset s.tlbs (core * 4 + tlb) es }.tick)
  | none =>
    let es := es.filter fun e => !e.covers ctx va
    match s.walk (dieOfCore core) ctx va kind 5 ((s.ctx ctx).ptroot * 65536) with
    | (.error x, s) => (.error x, { s with tlbs := aset s.tlbs (core * 4 + tlb) es })
    | (.ok e, s) =>
      (.ok (e.pa + (va - e.va), e.host), { s with tlbs := aset s.tlbs (core * 4 + tlb) (tlbAdd tlb es (pin e)) }.tick)

/-- Whether a replica entry covers an address (18 R374, R375). -/
def Replica.covers (x : Replica) (va : Nat) : Bool :=
  x.used && x.len != 0 && x.va.toNat * 2 ^ 21 ≤ va && va < (x.va.toNat + x.len) * 2 ^ 21

/-- The replica entry of a context that covers an address. -/
def Ctx.replicaOf (c : Ctx) (va : Nat) : Option Replica := (c.reps.map (·.2)).find? fun x => x.covers va

/-- The physical address of an access after the replica rule (18 R375). -/
def State.replicated (s : State) (ctx die va pa : Nat) : Nat :=
  match (s.ctx ctx).replicaOf va with
  | some x => aget 0 x.pa die * 2 ^ 21 + (va - x.va.toNat * 2 ^ 21)
  | none => pa

/-- Where a physical byte address stands (03 R53). -/
def State.locOf (s : State) (pa : Nat) (host : Bool) : Loc :=
  if host then .host (pa / 4) else if backed s.mem.span (pa / 4) then .dev (pa / 4) else .none

/-- The physical address of a translated access and whether it is host memory, after the replica rule (18 R375): the address of
every access in the range of a used entry is replaced, whatever the walk ended in. -/
def State.placed (s : State) (ctx die va : Nat) (x : Nat × Bool) : Nat × Bool :=
  match (s.ctx ctx).replicaOf va with
  | some _ => (s.replicated ctx die va x.1, false)
  | none => x

/-! ## The words of an access -/

/-- The agent that makes an access: its place, core, TLB and context, and the component whose events its accesses are. -/
structure Agent where
  ref  : Nat
  core : Nat
  tlb  : Nat
  ctx  : Nat
  comp : Nat := core / 40
  deriving DecidableEq, Repr

/-- The agent of a thread: compute threads use the load-store TLB, access-processor programs the engine TLB (08 R165). -/
def State.agentOf (s : State) (r : Nat) : Agent :=
  { ref := r, core := s.coreOf r, tlb := if refKind r = .ap then 2 else 0, ctx := s.ctxOf r, comp := s.compOf r }

/-- The team that a cohort-scratchpad address names (08 R172): a team of the same cohort that has not exited.
DEDUCED, safe: notes/assumptions/75.md. -/
def State.cohortTeam (s : State) (u ix : Nat) : Option Nat :=
  let t := s.team u
  (s.teams.find? fun p => p.2.launch = t.launch ∧ p.2.coh = t.coh ∧ p.2.ix = ix).map (·.1)

/-- The word addresses that an access of some bytes touches, from its aligned start. -/
def wordsFrom (a size : Nat) : List Nat := (List.range (max 1 (size / 4))).map (a / 4 + ·)

/-- The request of an agent's die, or of its component without an L2, for a word that the word's home holds back. -/
def Agent.askFor (g : Agent) (w : Nat) (cls : EvClass) : Event :=
  event .homeReadShared { die := g.comp, core := g.core, kid := g.ctx, w := w, cls := cls }

/-- The locations of an access in its space, or the reason why it does not complete (08 R161, R172, R181, R168).
DEDUCED, safe: notes/assumptions/75.md. -/
def State.resolve (s : State) (g : Agent) (pol : Word) (a : Dword) (size : Nat) (kind : XKind) :
    Except Excuse (List Loc) × State :=
  let u := refTeam g.ref
  if polSpace pol = 0 ∨ polSpace pol = 3 then
    if !canonical a then (.error (trap 0x06 0 a), s)
    else if a.toNat % size ≠ 0 then (.error (trap 0x07 0 a), s)
    else if refKind g.ref = .steward ∧ a.toNat < 524288 then
      (.ok ((wordsFrom a.toNat size).map fun w => .sram (refSid g.ref) (4 * w)), s)
    else
      let va := a.toNat % 2 ^ 57
      match s.translate g.core g.tlb g.ctx va kind (s.team u).launch with
      | (.error (.fault k), s) => (.error (.fault va k g.tlb), s)
      | (.error (.held w), s) => (.error (.await (g.askFor w .normal)), s)
      | (.ok x, s) =>
        let (pa, host) := s.placed g.ctx (dieOfCore g.core) va x
        (.ok ((wordsFrom pa size).map fun w => s.locOf (4 * w) host), s)
  else if a.toNat % size ≠ 0 then (.error (trap 0x07 0 a), s)
  else if polSpace pol = 1 then
    if a.toNat < (s.team u).spad ∧ refKind g.ref ≠ .steward then
      (.ok ((wordsFrom a.toNat size).map fun w => .pad u (4 * w)), s)
    else (.error (trap 0x08 1 a), s)
  else
    match s.cohortTeam u (a.toNat / 2 ^ 19 % 16) with
    | some v =>
      if a.toNat < 2 ^ 23 ∧ a.toNat % 2 ^ 19 < (s.team v).spad ∧ refKind g.ref ≠ .steward then
        (.ok ((wordsFrom (a.toNat % 2 ^ 19) size).map fun w => .pad v (4 * w)), s)
      else (.error (trap 0x08 2 a), s)
    | none => (.error (trap 0x08 2 a), s)

/-! ## Reading and writing one word -/

/-- The word address that tags a logged write's check bits. -/
def Loc.word : Loc → Nat
  | .dev w => w
  | .host w => w
  | _ => 0

/-- A logged write as it is read and published: its data through the decoder, and its poison (08 R174). -/
def LogEntry.judged (e : LogEntry) : Word × Bool :=
  match judge (sigOf e.loc.word) e.data e.chk with
  | .clean d => (d, e.psn)
  | .fixed d => (d, e.psn)
  | _ => (0, true)

/-- The logged plain writes of a team to a word, oldest first (09 R202). -/
def Team.logged (t : Team) (x : Loc) : List LogEntry := t.log.filter fun e => e.loc = x ∧ e.atom.isNone

/-- A word as a team that has logged writes reads it (09 R202). -/
def overLog (es : List LogEntry) (d : Word) (psn : Bool) : Word × Bool :=
  es.foldl (fun x e =>
    let y := e.judged
    (mergeBytes e.mask x.1 y.1, if e.mask = 15 then y.2 else x.2 || y.2)) (d, psn)

/-- The writes performed at a core and not yet at its die, oldest first (09 R191). -/
def State.coreWrites (s : State) (core w : Nat) (host : Bool) : List Write :=
  (s.mem.writes.map (·.2)).filter fun x => x.core = some core ∧ x.w = w ∧ x.atom.isNone ∧ x.out.isSome = host

/-- A word with the writes over it that its core has performed. -/
def overCore (ws : List Write) (d : Word) (psn : Bool) : Word × Bool :=
  ws.foldl (fun x e => (mergeBytes e.mask x.1 e.data, if e.mask = 15 then e.psn else x.2 || e.psn)) (d, psn)

/-- A device word as a core reads it, without a team's log (09 R191): the core's own writes, L1, L2, home. -/
def State.readCore (s : State) (core kid w : Nat) (pol : Word) : Word × Bool × State :=
  if (s.keyOf kid).isNone then (0, true, s)
  else
    let (d, psn, s) := (s.applyAll (dieOfCore core)).l1Read core kid w (classOf pol w) (polFill pol)
    let (d, psn) := overCore (s.coreWrites core w false) d psn
    (d, psn, s)

/-- A cached word as a steward reads it (14 R301), as an event of its own component: a die steward through the L2 of its die, another
steward at the word's home. -/
def State.readSteward (s : State) (comp kid x : Nat) (pol : Word) : Word × Bool × State :=
  let s := s.applyAll comp
  if comp < 4 then s.l2Read comp kid x (classOf pol x) (polFill pol) else s.homeRead kid x (classOf pol x) (polFill pol)

/-- A device word as a thread on a core reads it (09 R191, R202): the team's log over what its core reads. -/
def State.readDev (s : State) (core kid team w : Nat) (pol : Word) : Word × Bool × State :=
  if (s.keyOf kid).isNone then (0, true, s)
  else
    let (d, psn, s) := s.readCore core kid w pol
    let (d, psn) := overLog ((s.team team).logged (.dev w)) d psn
    (d, psn, s)

/-- A word of host memory as a thread on a core reads it: the team's log, the core's own writes, L1, L2, the host (04 R89).
DEDUCED, unsafe: notes/assumptions/99.md. -/
def State.readHost (s : State) (core team w : Nat) (pol : Word) : Word × Bool × State :=
  let (d, psn, s) := (s.applyAll (dieOfCore core)).l1Read core 0 (hostWord w) (classOf pol w) (polFill pol)
  let (d, psn) := overCore (s.coreWrites core w true) d psn
  let (d, psn) := overLog ((s.team team).logged (.host w)) d psn
  (d, psn, s)

/-- A word through the constant cache of a core (08 R172): a value that the word has held since the cache took it for the launch. -/
def State.readConst (s : State) (core kid team w : Nat) (pol : Word) : Word × Bool × State :=
  let key := (s.team team).launch * 2 ^ 37 + w
  match aget? (aget [] s.mem.kcache core) key with
  | some c => (c.d, c.psn, s)
  | none =>
    let (d, psn, s) := s.readCore core kid w pol
    (d, psn, s.modMem fun m =>
      let k := aget [] m.kcache core
      let k := if k.length < 4096 then k else k.drop 1
      { m with kcache := aset m.kcache core (aset k key (cword w d psn .shared 15)) })

/-- A word that no home keeps: scratchpad, steward memory. -/
def State.readLocal (s : State) : Loc → Word × Bool × State
  | .pad v o =>
    let (c, b, r) := (s.team v).padPlace o
    s.padRead c b r
  | .sram k o => (BitVec.ofNat 32 (leNat ((aget [] s.hub.sram k : Memory).readAll o 4)), false, s)
  | _ => (0, true, s)

/-- ReadWord (14 R308): one word of a location.
DEDUCED, unsafe: notes/assumptions/99.md. -/
def State.readLoc (s : State) (g : Agent) (pol : Word) : Loc → Word × Bool × State
  | .dev w =>
    if refKind g.ref = .steward then
      (if (s.keyOf g.ctx).isNone then (0, true, s) else s.readSteward g.comp g.ctx w pol)
    else if polSpace pol = 3 then s.readConst g.core g.ctx (refTeam g.ref) w pol
    else s.readDev g.core g.ctx (refTeam g.ref) w pol
  | .host w =>
    if refKind g.ref = .steward then s.readSteward g.comp 0 (hostWord w) pol
    else s.readHost g.core (refTeam g.ref) w pol
  | x => s.readLocal x

/-- A write of a word that no home keeps, performed at once: scratchpad, steward memory.
DEDUCED, unsafe: notes/assumptions/99.md. -/
def State.writeLocal (s : State) (d : Word) (mask : BitVec 4) (psn : Bool) : Loc → State
  | .pad v o =>
    let (c, b, r) := (s.team v).padPlace o
    s.padWrite c b r d mask psn
  | .sram k o => s.modHub fun h => { h with sram := amod [] h.sram k fun m => Memory.merge m o d mask }
  | _ => s

end Sys2Proof.Machine
end

