-- ==== Sys2Proof/Machine/Fetch.lean ====
section
/-!
DEFINITION. Machine/Fetch.lean: packets, headers, clauses and chains (14 R284 to R292; 15 R322; 16 R327): what a thread fetches
at its PC, and the checks that it meets before any word of its chain executes.
-/

namespace Sys2Proof.Machine

/-- Fetches one word at an address (16 R327; 07 R157): a fetch fault parks, a poisoned word is consumed.
DEDUCED, safe: notes/assumptions/35.md. -/
def State.fetchWord (s : State) (r : Nat) (va : BitVec 57) : Except Excuse Word × State :=
  if refKind r = .steward ∧ va.toNat < 524288 then
    (.ok (s.readLoc (s.agentOf r) 0 (.sram (refSid r) va.toNat)).1, s)
  else
    let g : Agent := { s.agentOf r with tlb := if refKind r = .ap then 2 else 3 }
    let die := dieOfCore g.core
    match s.translate g.core g.tlb g.ctx va.toNat .fetch (s.team (refTeam r)).launch with
    | (.error (.fault k), s) => (.error (.fault va.toNat k g.tlb), s)
    | (.error (.held w), s) => (.error (.await (g.askFor w .normal)), s)
    | (.ok x, s) =>
      let (pa, host) := s.placed g.ctx die va.toNat x
      match s.locOf pa host with
      | .dev w =>
        if (s.keyOf g.ctx).isNone then (.error (trap 0x11), s)
        else if s.blocked g.comp g.ctx w then (.error (.await (g.askFor w .normal)), s)
        else
          let (d, psn, s) := if refKind r = .steward then s.readSteward g.comp g.ctx w 0 else s.l2Read die g.ctx w .normal 0
          if psn then (.error (trap 0x11), s) else (.ok d, s)
      | .host w =>
        let (d, psn, s) := if refKind r = .steward then s.readSteward g.comp 0 (hostWord w) 0
          else s.l2Read die 0 (hostWord w) .normal 0
        if psn then (.error (trap 0x11), s) else (.ok d, s)
      | _ => (.error (trap 0x11), s)

/-! ## The packet header (14 R285) -/

/-- KIND of a header. -/
def hdrKind (h : Word) : Nat := bitsOf h 31 30

/-- WAIT of a header. -/
def hdrWait (h : Word) : Nat := bitsOf h 29 18

/-- FLA of a header. -/
def hdrFla (h : Word) : Nat := bitsOf h 17 14

/-- FLB of a header. -/
def hdrFlb (h : Word) : Nat := bitsOf h 13 10

/-- The guard predicate of a slot. -/
def hdrGuard (h : Word) (slot : Nat) : Fin 8 := Fin.ofNat 8 (bitsOf h (3 * slot) (3 * slot - 2))

/-- The checks of 14 R286. -/
def headerBad (h : Word) : Bool :=
  decide (2 ≤ hdrKind h) || (12 ≤ hdrFla h && hdrFla h ≤ 14) || (12 ≤ hdrFlb h && hdrFlb h ≤ 14) || h.getLsbD 0
    || (hdrKind h == 0 && (hdrWait h != 0 || hdrFla h != 0 || hdrFlb h != 0))

/-- The flags of the clause of a packet whose own header does not start one (14 R287): the nearest clause start before it,
at most `n` packets away. -/
def State.clauseFlags (s : State) (r : Nat) (packet : BitVec 57) : Nat → Except Excuse (Option (Nat × Nat)) × State
  | 0 => (.ok none, s)
  | n + 1 =>
    match s.fetchWord r (packet - 16) with
    | (.error x, s) => (.error x, s)
    | (.ok h, s) =>
      if hdrKind h = 1 then (.ok (some (hdrFla h, hdrFlb h)), s) else s.clauseFlags r (packet - 16) n

/-- A chain as fetched: the header of its packet, the flags of its clause, and its words with their addresses. -/
structure Chain where
  hdr   : Word
  fla   : Nat
  flb   : Nat
  words : List (BitVec 57 × Word)
  deriving DecidableEq, Repr

/-- The words of a chain from an address (14 R291): a word whose chain bit is set is joined by the next slot's. -/
def State.chainWords (s : State) (r : Nat) (pc : BitVec 57) : Nat → Except Excuse (List (BitVec 57 × Word)) × State
  | 0 => (.ok [], s)
  | n + 1 =>
    match s.fetchWord r pc with
    | (.error x, s) => (.error x, s)
    | (.ok w, s) =>
      if w.getLsbD 31 ∧ bitsOf pc 3 2 ≠ 3 then
        match s.chainWords r (pc + 4) n with
        | (.error x, s) => (.error x, s)
        | (.ok ws, s) => (.ok ((pc, w) :: ws), s)
      else (.ok [(pc, w)], s)

/-- Fetches the chain at a PC with its header and clause (14 R284 to R287). -/
def State.fetchChain (s : State) (r : Nat) (pc : BitVec 57) : Except Excuse Chain × State :=
  match s.fetchWord r (packetOf pc) with
  | (.error (.fault _ k t), s) => (.error (.fault pc.toNat k t), s)
  | (.error x, s) => (.error x, s)
  | (.ok h, s) =>
    if bitsOf pc 3 2 = 0 ∨ headerBad h then (.error (trap 0x01 h), s)
    else
      match s.chainWords r pc 3 with
      | (.error x, s) => (.error x, s)
      | (.ok ws, s) =>
        if hdrKind h = 1 then (.ok { hdr := h, fla := hdrFla h, flb := hdrFlb h, words := ws }, s)
        else
          match s.clauseFlags r (packetOf pc) 15 with
          | (.error x, s) => (.error x, s)
          | (.ok none, s) => (.error (trap 0x01 ((ws.map (·.2)).headD 0)), s)
          | (.ok (some (a, b)), s) => (.ok { hdr := h, fla := a, flb := b, words := ws }, s)

/-! ## The checks of a chain (14 R291; 15 R322) -/

/-- Whether a list names something twice. -/
def hasDup {α : Type} [DecidableEq α] : List α → Bool
  | [] => false
  | x :: xs => xs.contains x || hasDup xs

/-- The major opcode of a word. -/
def majorOf (w : Word) : Nat := bitsOf w 30 26

/-- The instructions of the words that decode. -/
def decodedOf (ws : List Word) : List Instr :=
  ws.filterMap fun w => match decode w.toNat with
    | .ok i => some i
    | .error _ => none

/-- A malformed chain (14 R291).
DEDUCED, safe: notes/assumptions/43.md. -/
def chainBad (c : Chain) : Bool :=
  let ws := c.words.map (·.2)
  let is := decodedOf ws
  c.words.any (fun p => p.2.getLsbD 31 && bitsOf p.1 3 2 == 3)
    || hasDup (ws.filterMap fun w => pipeClass (majorOf w))
    || ws.any (fun w => w.getLsbD 31 && pipeClass (majorOf w) == some .c)
    || hasDup (is.filterMap instrDst)
    || hasDup ((is.filterMap instrFs).filterMap fun fs =>
        let f := if fs then c.flb else c.fla
        if f < 12 then some f else none)
    || hasDup (is.flatMap namedDqs)

/-- One word of a chain, ready to execute. -/
structure ChainWord where
  pc    : BitVec 57
  word  : Word
  instr : Instr
  guard : Fin 8
  deriving DecidableEq, Repr

/-- The barrier that an encoding names.
DEDUCED, unsafe: notes/assumptions/40.md. -/
def instrBar : Instr → Option Nat
  | .binit b _ => some b.val
  | .barv b => some b.val
  | .barw b => some b.val
  | .bdrop b => some b.val
  | .bwait b _ => some b.val
  | .btest b _ => some b.val
  | .bphase b => some b.val
  | .cpld _ bar ben _ _ _ => if ben then some bar.val else none
  | .cpst _ bar ben _ _ _ => if ben then some bar.val else none
  | .cpfill bar ben _ _ _ => if ben then some bar.val else none
  | _ => none

/-- The accumulator that an encoding names. -/
def instrAcc : Instr → Option Nat
  | .tmma _ _ acc _ _ => some acc.val
  | .tmmaSc _ _ acc _ _ _ => some acc.val
  | .tmms _ _ acc _ _ _ => some acc.val
  | .tzero _ _ acc => some acc.val
  | .tlda _ _ acc _ => some acc.val
  | .tdrain _ _ acc _ _ => some acc.val
  | .chrun _ _ acc _ _ => some acc.val
  | _ => none

/-- An instruction that stewards only, or access-processor programs only, may name (20 R416, R441).
DEDUCED, unsafe: notes/assumptions/40.md. -/
def outOfPlace (kind : RefKind) : Instr → Bool
  | .gath _ _ _ _ _ _ _ => kind == .lane
  | .scat _ _ _ _ _ _ => kind == .lane
  | .dqsend _ _ _ _ => kind == .lane
  | .sysrd imm => kind != .steward && (imm == 0x20 || imm == 0x21)
  | .syswr _ imm => kind != .steward && imm == 0x20
  | _ => false

/-- The selectors of the scales are in range (10 R221). -/
def scaleSelOk (protect : Bool) (m sel : Nat) : Bool :=
  let a := sel % 8
  let b := sel / 8 % 8
  if protect then m != 64 && decide (a ≤ 2) && decide (b ≤ 2)
  else decide (a ≤ (if m = 64 then 2 else 5)) && decide (b ≤ 5)

/-- What the threads of a bundle are allotted: barriers, accumulators, the mode of their launch, and the M of their groups. -/
structure Allot where
  bars    : Nat
  accs    : Nat
  protect : Bool := false
  ms      : List Nat := []
  deriving DecidableEq, Repr

/-- A multiplying tile instruction is illegal where it stands: at M = 64 its accumulator has no even pair in the allotment (11 R230), or
a selector of its scales is out of range (10 R221). -/
def Allot.illegalTile (a : Allot) : Instr → Bool
  | .tmma _ _ acc _ _ => a.ms.contains 64 && (acc.val % 2 == 1 || decide (a.accs ≤ acc.val + 1))
  | .tmms _ _ acc _ _ _ => a.ms.contains 64 && (acc.val % 2 == 1 || decide (a.accs ≤ acc.val + 1))
  | .chrun _ _ acc _ _ => a.ms.contains 64 && (acc.val % 2 == 1 || decide (a.accs ≤ acc.val + 1))
  | .tmmaSc _ _ acc _ _ imm =>
    a.ms.contains 64 && (acc.val % 2 == 1 || decide (a.accs ≤ acc.val + 1)) || a.ms.any fun m => !scaleSelOk a.protect m imm.toNat
  | _ => false

/-- An encoding that is reserved where it stands (15 R321, R322): a number beyond the team's allotment, a tile instruction that the M or
the mode of the bundle's groups makes illegal, or an instruction or register of another place. -/
def reservedHere (kind : RefKind) (a : Allot) (i : Instr) : Bool :=
  outOfPlace kind i
    || (kind == .lane && ((match instrBar i with
          | some b => decide (a.bars ≤ b)
          | none => false)
        || (match instrAcc i with
          | some n => decide (a.accs ≤ n)
          | none => false)
        || a.illegalTile i))

/-- Decodes the words of a chain in order (15 R322): the first reserved word traps with itself in XINFO. -/
def decodeWords (here : Instr → Bool) (hdr : Word) : List (BitVec 57 × Word) → Except Excuse (List ChainWord)
  | [] => .ok []
  | (pc, w) :: r =>
    match decode w.toNat with
    | .error _ => .error (trap 0x01 w)
    | .ok i =>
      if here i then .error (trap 0x01 w)
      else
        match decodeWords here hdr r with
        | .error x => .error x
        | .ok ws => .ok ({ pc := pc, word := w, instr := i, guard := hdrGuard hdr (bitsOf pc 3 2) } :: ws)

/-- The checks of 15 R322 on a fetched chain: the chain, each word, and the scalar profile.
DEDUCED, safe: notes/assumptions/43.md. -/
def checkChain (kind : RefKind) (a : Allot) (c : Chain) : Except Excuse (List ChainWord) :=
  if chainBad c then .error (trap 0x01 ((c.words.map (·.2)).headD 0))
  else
    match decodeWords (reservedHere kind a) c.hdr c.words with
    | .error x => .error x
    | .ok ws =>
      if kind = .lane then .ok ws
      else
        match ws.find? fun w => !scalarOk (kind = .ap) w.instr with
        | some w => .error (trap 0x01 w.word)
        | none => .ok ws

/-! ## Waits before issue (14 R288, R289) -/

/-- The clause wait is not met: the packet starts a clause that the thread enters, and a flag of WAIT is set. -/
def clauseWaits (t : Thread) (hdr : Word) : Bool :=
  hdrKind hdr == 1 && (t.entered || t.page != packetOf t.pc) && hdrWait hdr &&& t.cf.toNat != 0

/-- A real flag that a word of the chain selects is already set in the thread (14 R289). -/
def flagWaits (t : Thread) (c : Chain) (ws : List ChainWord) : Bool :=
  (ws.filterMap fun w => instrFs w.instr).any fun fs => flagSet t (if fs then c.flb else c.fla)

end Sys2Proof.Machine
end

