-- ==== Sys2Proof/Machine/Chain.lean ====
section
/-!
DEFINITION. Machine/Chain.lean: the run of one bundle through one chain (06 R132; 07 R143 to R152; 14 R291, R292). The meaning of
a single instruction is a parameter, so that Step.lean can pass it in.
-/

namespace Sys2Proof.Machine

/-- What a meaning answers. -/
abbrev Out := Host.Outcome State Fault Refusal

/-- The lanes of a bundle that have not left it. -/
def State.present (s : State) (lanes : List Lane) : List Lane :=
  lanes.filter fun l => !(s.issue.left.any fun p => p.1 == l.ref)

/-- A reason by which a lane is not ready (06 R131). -/
def Excuse.unready : Excuse → Bool
  | .notReady => true
  | .await _ => true
  | _ => false

/-- A lane stands at the LAUNCHW at which it waited before a save: the word's guard was true, and its operand is known (13 R279). -/
def Lane.again (l : Lane) (w : ChainWord) : Bool := l.pre.redo.isSome && l.pre.pc == w.pc

/-- Prepares the execution of one word: the lanes are split by the guard. -/
def State.openWord (s : State) (lanes : List Lane) (w : ChainWord) : State :=
  let here := s.present lanes
  let clean (l : Lane) : Bool := l.again w || !l.pre.predPsn w.guard
  let on (l : Lane) : Bool := l.again w || l.pre.pred w.guard
  { s with issue := { s.issue with here := w.pc, word := w.word,
                                   act := here.filter fun l => clean l && on l,
                                   off := here.filter fun l => clean l && !on l,
                                   bad := here.filter fun l => !clean l,
                                   full := lanes.filter fun l => on l && clean l } }

/-- A lane with a poisoned guard consumes it (07 R157), unless the word has raised a cause in every thread of the bundle, which
ranks first (13 R271). -/
def State.closeWord (s : State) : State := s.issue.bad.foldl (fun s l => s.excuse l (trap 0x11)) s

/-- Executes the words of a chain in order. -/
def runWords (ex : Instr → State → Out) (lanes : List Lane) : List ChainWord → State → Out
  | [], s => .next s
  | w :: ws, s =>
    match ex w.instr (s.openWord lanes w) with
    | .next s => runWords ex lanes ws s.closeWord
    | r => r

/-- The place of a lane's partner in protected mode (07 R142). -/
def partnerRef (r : Nat) : Nat := if refLane r % 2 = 0 then r + 4 else r - 4

/-- The comparison of next PCs in protected mode (07 R143): a pair whose next PCs differ traps on both lanes. -/
def State.comparePcs (s : State) (lanes : List Lane) : State :=
  (s.present lanes).foldl (fun s l =>
    if refKind l.ref = .lane ∧ s.isProtected l.ref
        ∧ (s.present lanes).any (fun k => k.ref == partnerRef l.ref)
        ∧ (s.thread l.ref).pc ≠ (s.thread (partnerRef l.ref)).pc ∧ refLane l.ref % 2 = 0 then
      let s := s.excuse l (trap 0x12)
      match lanes.find? fun k => k.ref == partnerRef l.ref with
      | some k => s.excuse k (trap 0x12)
      | none => s
    else s) s

/-- What the partner of a lane that has left the bundle leaves it with (07 R143: a pair issues as one unit). -/
def Excuse.shared : Excuse → Excuse
  | .await _ => .notReady
  | x => x

/-- In protected mode the partner of a lane that has left the bundle leaves it too. -/
def State.leavePairs (s : State) (lanes : List Lane) : State :=
  (s.present lanes).foldl (fun s l =>
    if refKind l.ref = .lane ∧ s.isProtected l.ref then
      match s.issue.left.find? fun p => p.1 == partnerRef l.ref with
      | some p => s.excuse l p.2.shared
      | none => s
    else s) s

/-- A lane that has found no free block (07 R155). -/
def Excuse.blocked : Excuse → Bool
  | .block _ => true
  | _ => false

/-- The lanes that a run of a chain starts without, after one that some lanes have left: a lane that found no free block is judged
again when another lane is new among those that left, since that one may have taken the block (16 R337). -/
def nextGone (gone left : List (Nat × Excuse)) : List (Nat × Excuse) :=
  let firm := left.filter fun p => !p.2.blocked
  if (gone.filter fun p => !p.2.blocked).length < firm.length then firm else left

/-- Executes a chain (07 R152): a lane that does not complete makes no effect for any word of it, so when lanes have left, the
chain is executed again without them. `n` bounds the repetitions by the lanes of the bundle.
DEDUCED, unsafe: notes/assumptions/20.md. -/
def runChain (ex : Instr → State → Out) (lanes : List Lane) (ws : List ChainWord) (start : State) :
    Nat → List (Nat × Excuse) → Out
  | 0, _ => .next start
  | n + 1, gone =>
    let s := lanes.foldl (fun s l =>
      match gone.find? fun p => p.1 == l.ref with
      | some p => s.excuse l p.2
      | none => s) start
    match runWords ex lanes ws s with
    | .next t =>
      let t := (t.leavePairs lanes).comparePcs lanes
      if t.issue.left.length ≤ gone.length then .next t
      else runChain ex lanes ws start n (nextGone gone t.issue.left)
    | r => r

/-- The groups that have a lane in a list of places: team and group. -/
def groupsOf (refs : List Nat) : List (Nat × Nat) :=
  ((refs.filter fun r => refKind r = .lane).map fun r => (refTeam r, refGrp r)).eraseDups

/-- A group is converged and has all its live threads in the bundle (07 R148). -/
def State.groupWhole (s : State) (u g : Nat) : Bool :=
  ((aget noTeam s.issue.teams u).groups.getD g noGroup).conv && (s.liveRefs u g).all fun r => s.issue.all.contains r

/-- Every group of the bundle is whole. -/
def State.groupsWhole (s : State) : Bool := (groupsOf s.issue.all).all fun p => s.groupWhole p.1 p.2

/-- A group-collective instruction: ILLEGAL_CONVERGENCE in every thread of a bundle whose groups are not whole. -/
def collectiveGate (k : State → State) (s : State) : State := if s.groupsWhole then k s else s.excuseBundle (trap 0x02)

/-- The converged bit of a group is cleared when its live threads do not stand at one PC (07 R144). -/
def State.checkConverged (s : State) (u g : Nat) : State :=
  let live := s.liveRefs u g
  if live.all fun r => (s.thread r).pc = (s.thread (live.headD 0)).pc then s
  else s.modTeam u fun t => t.modGroup g fun x => { x with conv := false }

/-- Whether a thread waits at a rendezvous (07 R145, R146). -/
def Thread.meeting (t : Thread) : Bool :=
  match t.park with
  | .meet _ => true
  | _ => false

/-- An operation that an instruction of a group's waiting thread started, and whose translations and fault checks are not complete
(07 R146). -/
def Op.unchecked (o : Op) (u g : Nat) : Bool :=
  match o with
  | .tile o => (o.team == u && o.grp == g) || o.lanes.any fun r => refTeam r == u && refGrp r == g
  | .copy o => o.lanes.any fun r => refTeam r == u && refGrp r == g
  | .coll o => o.refs.any fun r => refTeam r == u && refGrp r == g
  | _ => false

/-- A rendezvous of a group (07 R145 to R147): when every live thread waits, all leave together if they wait at one
instruction, and otherwise each traps ILLEGAL_CONVERGENCE. CONV also waits until no earlier instruction of the group can fault. -/
def State.rendezvous (s : State) (u g : Nat) : State :=
  let live := s.liveRefs u g
  if live.isEmpty ∨ !(live.all fun r => (s.thread r).meeting) then s
  else
    let h := s.thread (live.headD 0)
    if live.all fun r => (s.thread r).pc = h.pc ∧ (s.thread r).park = h.park then
      if h.park = .meet true ∧ s.ops.any fun p => p.2.unchecked u g then s
      else
        let s := live.foldl (fun s r => s.modThread r fun t => { t with park := .none, pc := nextSlot t.pc }) s
        s.modTeam u fun t => t.modGroup g fun x => { x with conv := true }
    else live.foldl (fun s r =>
      let t := s.thread r
      s.takeTrap r { t with park := .none } t.pc 0x02 0 0) s

/-- Counts an issued bundle of a context on a core, and the window in which the core issues (01 R28). -/
def State.countBundle (s : State) (core ctx : Nat) : State :=
  let b := aget (0, 0) s.wear.busy core
  let b := if b.2 = 0 ∨ b.1 ≠ s.cyc then (s.cyc, b.2 + 1) else b
  { s with wear := { s.wear with issued := amod 0 s.wear.issued (core * 256 + ctx) (· + 1), busy := aset s.wear.busy core b } }

/-- Some lane of the bundle was ready, so that its chain issued (06 R131, R132). -/
def Issue.issued (i : Issue) : Bool := i.all.any fun r => !(i.left.any fun p => p.1 == r && p.2.unready)

/-- The triggers of rollbacks come first (13 R281), then events, then what was to be done before. -/
def State.prependAfterTriggers (s : State) (es : List Event) : State :=
  { s with agenda := (s.agenda.filter fun e => e.op == .rollback) ++ es ++ s.agenda.filter fun e => e.op != .rollback }

/-- The end of a chain: the events that its lanes caused are released, convergence and rendezvous are
judged, and a bundle that has issued is counted for wear (01 R28), one of an access-processor program too.
DEDUCED, unsafe: notes/assumptions/77.md. -/
def State.finish (s : State) (lanes : List Lane) : State :=
  let s := s.prependAfterTriggers (s.issue.out.map (·.2))
  let s := (s.present lanes).foldl (fun s l => if refKind l.ref = .ap then s.apRetire (refTeam l.ref) else s) s
  let s := (groupsOf s.issue.all).foldl (fun s p => (s.checkConverged p.1 p.2).rendezvous p.1 p.2) s
  let s := match s.issue.all with
    | r :: _ =>
      if s.issue.uncounted ∨ !s.issue.issued ∨ refKind r = RefKind.steward then s
      else s.countBundle (s.coreOf r) (s.ctxOf r)
    | [] => s
  { s with issue := {} }

/-- The address after a chain. -/
def afterChain (ws : List ChainWord) (pc : BitVec 57) : BitVec 57 := nextSlot ((ws.map (·.pc)).getLastD pc)

/-- A thread can be taken into a bundle: live, not parked, its team not stopped. -/
def State.issuable (s : State) (r : Nat) : Bool :=
  ahas s.threads r && !(s.thread r).exited && (s.thread r).park == .none
    && (refKind r == RefKind.steward || (s.team (refTeam r)).issues)

/-- The lanes of a bundle: those of its threads that can still be taken and stand at its PC (06 R132). -/
def State.lanesOf (s : State) (b : Bundle) : List Lane :=
  (b.refs.filter fun r => s.issuable r && (s.thread r).pc == b.pc).map fun r => { ref := r, pre := s.thread r }

/-- The state in which the words of a chain execute: the lanes' PCs at the address after the chain, their wait counts at 0
(06 R131), and a group whose live threads are not all in the bundle no longer converged (07 R144). -/
def State.openChain (s : State) (lanes : List Lane) (c : Chain) (ws : List ChainWord) (pc : BitVec 57) : State :=
  let refs := lanes.map fun l => l.ref
  let s := { s with issue := { s.issue with fla := c.fla, flb := c.flb } }
  let s := lanes.foldl (fun s l => s.setThread l.ref { l.pre with pc := afterChain ws pc, entered := false,
                                                                   page := packetOf pc, wait := 0, late := s.issue.cycle,
                                                                   replay := false, redo := none }) s
  (groupsOf refs).foldl (fun s p =>
    if (s.liveRefs p.1 p.2).all fun r => refs.contains r then s
    else s.modTeam p.1 fun t => t.modGroup p.2 fun x => { x with conv := false }) s

/-- The lanes that a test makes wait leave the bundle. -/
def State.dropIf (s : State) (lanes : List Lane) (waits : Lane → Bool) : State :=
  lanes.foldl (fun s l => if waits l then s.excuse l .notReady else s) s

/-- A team as what issues in a cycle sees it: a write of its presence registers in that cycle is not seen yet (12 R257). -/
def Team.seenAt (t : Team) (now : Nat) : Team :=
  match t.zold with
  | some x => if x.1 = now then { t with z := x.2 } else t
  | none => t

/-- What the threads of a bundle are allotted. -/
def State.allotOf (s : State) (lanes : List Lane) : Allot :=
  let r := match lanes with
    | l :: _ => l.ref
    | [] => 0
  let t := s.team (refTeam r)
  { bars := t.nbars, accs := t.accs, protect := s.isProtected r,
    ms := (lanes.map fun l => ((s.team (refTeam l.ref)).groupOf l.ref).m).eraseDups }

/-- One try of a bundle (06 R132), before what follows the end of its chain: the chain at its threads' PC is fetched; the lanes that
wait for their clause do not issue it (14 R288); it is checked, and executes in the lanes that wait for no flag (R289); with the
lanes that took part, and whether some waited before the chain.
DEDUCED, safe: notes/assumptions/18.md. -/
def tryBundle (ex : Instr → State → Out) (b : Bundle) (s : State) : Out × List Lane × Bool :=
  match s.lanesOf b with
  | [] => (.next s, [], false)
  | l0 :: ls =>
    let lanes := l0 :: ls
    let s := { s with issue := { act := lanes, all := lanes.map fun (l : Lane) => l.ref, first := s.nextId,
                                 teams := amap s.teams fun _ t => t.seenAt (s.cyc + b.cycle), cycle := b.cycle, pc := b.pc, here := b.pc } }
    match s.fetchChain l0.ref b.pc with
    | (.error x, s) => (.next (s.excuseAll fun _ => x), lanes, false)
    | (.ok c, s) =>
      let s := s.dropIf lanes fun l => clauseWaits l.pre c.hdr
      let late := !s.issue.left.isEmpty
      match checkChain (refKind l0.ref) (s.allotOf lanes) c with
      | .error x => (.next (s.excuseAll fun _ => x), lanes, late)
      | .ok ws =>
        let s := s.dropIf (s.present lanes) fun l => flagWaits l.pre c ws
        let waited := !s.issue.left.isEmpty
        let lanes := s.present lanes
        let s := { s with issue := { s.issue with left := [], all := lanes.map fun (l : Lane) => l.ref } }
        (runChain ex lanes ws (s.openChain lanes c ws b.pc) 68 [], lanes, waited)

/-- The run of one bundle. -/
def runBundle (ex : Instr → State → Out) (b : Bundle) (s : State) : Out :=
  match tryBundle ex b s with
  | (.next s, lanes, _) => .next (s.finish lanes)
  | (r, _, _) => r

/-- Whether threads that would issue together are ready (06 R131), as a try shows it; and the events that bring the words that
they wait for. The try itself has no effect.
DEDUCED, safe: notes/assumptions/18.md. -/
def State.probe (s : State) (ex : Instr → State → Out) (refs : List Nat) : Bool × List Event :=
  match tryBundle ex { cycle := 0, pc := (s.thread (refs.headD 0)).pc, refs := refs } s with
  | (.next t, _, waited) =>
    (!waited && !(t.issue.left.any fun p => p.2.unready), t.issue.left.filterMap fun p => match p.2 with
      | .await e => some e
      | _ => none)
  | _ => (true, [])

end Sys2Proof.Machine
end

