-- ==== Sys2Proof/Machine/Control.lean ====
section
/-!
DEFINITION. Machine/Control.lean: branches, calls, rendezvous, YIELD, EXIT, TRAPI and NOP (16 R324 to R333), immediate and
register moves (R334, R335), and extended blocks (R336, R337; 07 R155).
-/

namespace Sys2Proof.Machine

/-! ## Transfers -/

/-- PacketAddress + 16 OFF + 4 SLOT (16 R324). -/
def State.branchTarget (s : State) (slot : Fin 4) (off : BitVec 16) : BitVec 57 :=
  packetOf s.issue.here + 16 * off.signExtend 57 + BitVec.ofNat 57 (4 * slot.val)

/-- The return address of a call (16 R325), unpoisoned. -/
def State.returnAddress (s : State) : Val := { v := ofVa (nextSlot s.issue.here) }

/-- A transfer of control in a lane: the next chain is fetched at the target (16 R327) and its clause wait is checked
(14 R288). -/
def State.transfer (s : State) (r : Nat) (pc : BitVec 57) : State :=
  s.modThread r fun t => { t with pc := pc, entered := true }

/-- BRA (16 R324). -/
def execBra (slot : Fin 4) (off : BitVec 16) (s : State) : Out :=
  .next (s.forLanes fun s l => s.transfer l.ref (s.branchTarget slot off))

/-- The prediction of a conditional branch of an access-processor program (12 R253): taken when it goes backward.
DEDUCED, unsafe: notes/assumptions/39.md. -/
def predictTaken (here target : BitVec 57) : Bool := decide (target.toNat ≤ here.toNat)

/-- A conditional branch of an access-processor program (12 R253): the program runs on along the predicted path and the branch
is unresolved from then on; at most eight are.
DEDUCED, unsafe: notes/assumptions/39.md. -/
def apBranch (taken : Bool) (target : BitVec 57) (s : State) (l : Lane) : State :=
  let u := refTeam l.ref
  if 8 ≤ (s.team u).ap.branches.length then s.excuse l .notReady
  else
    let guess := predictTaken s.issue.here target
    let go (b : Bool) (t : Thread) : Thread := if b then { t with pc := target, entered := true } else t
    let br : ApBranch := { right := guess == taken, saved := go taken (s.thread l.ref), instr := (s.team u).ap.count,
                           first := s.nextId }
    (s.modThread l.ref (go guess)).modTeam u fun t => { t with ap := { t.ap with branches := t.ap.branches ++ [br] } }

/-- BRP in a lane (16 R324): the condition is consumed. -/
def condLane (p : Fin 8) (neg : Bool) (slot : Fin 4) (off : BitVec 16) (s : State) (l : Lane) : State :=
  if l.pre.predPsn p then s.excuse l (trap 0x11)
  else if refKind l.ref = .ap then apBranch (l.pre.pred p != neg) (s.branchTarget slot off) s l
  else if l.pre.pred p != neg then s.transfer l.ref (s.branchTarget slot off)
  else s

/-- BRP (16 R324). -/
def execBrp (p : Fin 8) (neg : Bool) (slot : Fin 4) (off : BitVec 16) (s : State) : Out :=
  .next (s.forLanes (condLane p neg slot off))

/-- CALL (16 R324). -/
def execCall (slot : Fin 4) (off : BitVec 16) (s : State) : Out :=
  .next (s.forLanes fun s l => (s.push l.ref s.returnAddress).transfer l.ref (s.branchTarget slot off)).pushOff

/-- The next PCs of a pair in protected mode differ at a branch to a register (07 R143), which ranks before what is wrong with a target
(13 R271): the targets, or the target and the address after the chain where the partner's guard is false. -/
def State.pairTargets (b : State) (l : Lane) (sa : Src) : Bool :=
  refKind l.ref == .lane && b.isProtected l.ref &&
    match b.issue.full.find? fun k => k.ref == partnerRef l.ref, b.issue.off.find? fun k => k.ref == partnerRef l.ref with
    | some k, _ =>
      match readAll b l [sa] .none, readAll b k [sa] .none with
      | .ok x, .ok y => x.map (·.v) != y.map (·.v)
      | _, _ => false
    | none, some k =>
      match readAll b l [sa] .none with
      | .ok x => argAt x 0 != ofVa (b.thread k.ref).pc
      | _ => false
    | none, none => false

/-- One lane of a register branch (16 R326): the target is consumed and checked. -/
def regBranchLane (sa : Src) (link : Bool) (b s : State) (l : Lane) : State :=
  match readConsumed s l [sa] with
  | .error x => s.excuse l x
  | .ok vs =>
    let t := argAt vs 0
    if b.pairTargets l sa then s.excuse l (trap 0x12)
    else if !canonical t then s.excuse l (trap 0x06 0 t)
    else if t.toNat % 4 ≠ 0 then s.excuse l (trap 0x07 0 t)
    else
      let s := popSrcs s l [sa]
      let s := if link then s.push l.ref s.returnAddress else s
      s.transfer l.ref (t.setWidth 57)

/-- BRX (16 R326). -/
def execBrx (sa : Src) (s : State) : Out := .next (s.forLanes (regBranchLane sa false s))

/-- CALLX (16 R326). -/
def execCallx (sa : Src) (s : State) : Out := .next (s.forLanes (regBranchLane sa true s)).pushOff

/-- RET (16 R326); its return-address predictor affects timing only. -/
def execRet (sa : Src) (s : State) : Out := .next (s.forLanes (regBranchLane sa false s))

/-! ## Rendezvous (07 R145, R146; 16 R328) -/

/-- A lane begins to wait at a rendezvous: its PC stays there. The end of the chain judges whether the group leaves. -/
def meetLane (conv : Bool) (s : State) (l : Lane) : State :=
  s.modThread l.ref fun t => { t with pc := s.issue.here, park := .meet conv }

/-- JOIN. -/
def execJoin (s : State) : Out := .next (s.forLanes (meetLane false))

/-- CONV. -/
def execConv (s : State) : Out := .next (s.forLanes (meetLane true))

/-! ## YIELD, EXIT, TRAPI, NOP -/

/-- YIELD (16 R330): the thread's wait count is 0 and it is not ready at the start of the next window. -/
def execYield (s : State) : Out := .next (s.forLanes fun s l => s.modThread l.ref fun t => { t with wait := 0, skip := true })

/-- Removes a holder from a block of its group; an empty mask returns the block to the team pool (07 R155). -/
def State.releaseBlock (s : State) (r k : Nat) : State :=
  s.modTeam (refTeam r) fun t => t.modGroup (refGrp r) fun g =>
    match g.xmap k with
    | some x =>
      if x.holders.getLsbD (refLane r) then
        let h := setBit x.holders (refLane r) false
        if h = 0 then g.setXmap k none else g.setXmap k (some { x with holders := h })
      else g
    | none => g

/-- The physical blocks of a team that no group maps. -/
def Team.freeBlocks (t : Team) : List Nat :=
  (List.range t.xpool).filter fun b => !(t.groups.any fun g =>
    [g.x0, g.x1, g.x2].any fun x => match x with
      | some y => y.phys == b
      | none => false)

/-- Maps a block for its first holder, its registers cleared (07 R155). -/
def State.mapBlock (s : State) (r k b : Nat) : State :=
  s.modTeam (refTeam r) fun t =>
    let t := { t with ext := afilter t.ext fun key _ => decide (key / 512 ≠ b) }
    t.modGroup (refGrp r) fun g => g.setXmap k (some { phys := b, holders := setBit 0 (refLane r) true })

/-- Takes a block for a lane: as one more holder, or from the pool; none when the lane must park. -/
def State.acquire (s : State) (r k : Nat) : Option State :=
  let t := s.team (refTeam r)
  match (t.groupOf r).xmap k with
  | some x => some (s.modTeam (refTeam r) fun t => t.modGroup (refGrp r) fun g =>
      g.setXmap k (some { x with holders := setBit x.holders (refLane r) true }))
  | none =>
    match t.freeBlocks with
    | b :: _ => some (s.mapBlock r k b)
    | [] => none

/-- Grants the parked XACQs of a team in the order they parked, while blocks serve them (07 R155; 16 R337): the thread issues
its chain again, as a holder. -/
def State.grantBlocks (s : State) (u : Nat) : State :=
  (s.team u).xwait.foldl (fun s r =>
    match (s.thread r).park with
    | .xacq k =>
      match s.acquire r k with
      | some s =>
        let s := s.modThread r fun t => { t with park := .none }
        s.modTeam u fun t => { t with xwait := t.xwait.filter (· != r) }
      | none => s
    | _ => s.modTeam u fun t => { t with xwait := t.xwait.filter (· != r) }) s

/-- The event that looks whether a team has ended (16 R331). -/
def teamEndEvent (u : Nat) : Event := { op := .teamEnd, arg := { id := u } }

/-- A request that is a quantum access or a commutative contribution (09 R198, R199). -/
def Req.heldWork (x : Req) : Bool := polUse x.pol == 3 || polUse x.pol == 1

/-- Whether a quantum access or a commutative contribution of a thread has not been performed (09 R196): one made before the
bundle's chain, or with `own` one of that chain.
DESIGN CHOICE, unsafe: notes/assumptions/98.md. -/
def State.quantumPending (s : State) (r : Nat) (own : Bool := false) : Bool :=
  s.reqs.any fun p => decide (own ∨ p.1 < s.issue.first) && p.2.by (s.primary r) && p.2.heldWork

/-- Whether a team has requests whose accesses a release of its threads covers (09 R189, R196, R198, R202): with `quantum`, also
those that only its team barrier waits for. -/
def State.unreleased (s : State) (u : Nat) (quantum : Bool) : Bool :=
  s.reqs.any fun p => (refKind p.2.ref == .lane) && refTeam p.2.ref == u && p.2.kind != .prefetch
    && (quantum || polUse p.2.pol != 3)

/-- Whether a thread has such requests of its own from before the bundle's chain, so that a release of it waits (09 R187, R195). -/
def State.releaseHolds (s : State) (r : Nat) : Bool :=
  s.reqs.any fun p => decide (p.1 < s.issue.first) && p.2.by r && p.2.kind != .prefetch
    && polUse p.2.pol != 3

/-- The requests that earlier words of its chain have made for a thread and that a release in the chain comes after. -/
def State.ownRequests (s : State) (r : Nat) : List Nat :=
  (s.reqs.filter fun p => decide (s.issue.first ≤ p.1) && p.2.by r && p.2.kind != .prefetch && polUse p.2.pol != 3).map (·.1)

/-- The visible threads among places: in a protected launch the primaries (07 R142). -/
def State.visible (s : State) (rs : List Nat) : List Nat := rs.filter fun r => !s.isProtected r || refLane r % 2 == 0

/-- The live threads of teams. -/
def State.liveOf (s : State) (us : List Nat) : List Nat :=
  us.flatMap fun u => (teamRefs u (s.team u).groups.length).filter fun r => !(s.thread r).exited

/-- A cohort or launch barrier passes when every live visible member waits at it and what their arrivals release has been performed
(19 R399; 09 R195, R198). -/
def State.passAll (s : State) (us : List Nat) (p : Park) : State :=
  let live := s.liveOf us
  if live.isEmpty ∨ !((s.visible live).all fun r => (s.thread r).park == p) ∨ us.any fun u => s.unreleased u false then s
  else live.foldl (fun s r => s.modThread r fun t => if t.park = p then { t with park := .none, pc := nextSlot t.pc } else t) s

/-- Judges the cohort barrier and the launch barrier of a team. -/
def State.passBars (s : State) (u : Nat) : State :=
  let t := s.team u
  let s := s.passAll ((s.teams.filter fun p => p.2.launch = t.launch ∧ p.2.coh = t.coh).map (·.1)) .cbar
  s.passAll ((s.teams.filter fun p => p.2.launch = t.launch).map (·.1)) .gbar

/-- A thread ends (16 R331; 12 R248): it releases its blocks, an access-processor program ends with status 0, a steward stops. Who looks
whether its team ends is another event. -/
def State.leave (s : State) (r : Nat) : State :=
  match refKind r with
  | .ap => s.apEnd (refTeam r) 0
  | .steward => s.modThread r fun t => { t with park := .halted }
  | .lane =>
    let s := s.modThread r fun t => { t with exited := true, handler := false, park := .none }
    let s := (List.range 3).foldl (fun s k => s.releaseBlock r k) s
    (s.grantBlocks (refTeam r)).passBars (refTeam r)

/-- The event that looks whether the team of a thread that has ended is at its end. -/
def endEvents (r : Nat) : List Event := if refKind r = .steward then [] else [teamEndEvent (refTeam r)]

/-- EXIT in one lane (16 R331): it waits for the quantum accesses of the thread, in its place for those of its own chain (09 R199). -/
def exitLane (s : State) (l : Lane) : State :=
  if s.quantumPending l.ref then s.excuse l .notReady
  else if refKind l.ref = .ap ∧ (s.team (refTeam l.ref)).speculative then s.excuse l .notReady
  else if s.quantumPending l.ref true then s.modThread l.ref fun t => { t with park := .leaving }
  else (s.leave l.ref).emitAll l.ref (endEvents l.ref)

/-- The threads in EXIT whose quantum accesses have been performed end (09 R199). -/
def State.leaveAll (s : State) : State :=
  s.threads.foldl (fun s p =>
    if p.2.park = .leaving ∧ !s.quantumPending p.1 true then (s.leave p.1).prepend (endEvents p.1) else s) s

/-- EXIT. -/
def execExit (s : State) : Out := .next (s.forLanes exitLane)

/-- TRAPI (16 R332). -/
def execTrapi (imm : BitVec 15) (s : State) : Out := .next (s.excuseAll fun _ => trap 0x0F (imm.setWidth 32))

/-- NOP (16 R333). -/
def execNop (s : State) : Out := .next s

/-! ## Moves -/

/-- MOVI (16 R334). -/
def execMovi (imm : BitVec 16) (d : Dst) (s : State) : Out := .next (valueOp [] d (fun _ => imm.signExtend 64) s)

/-- MOVH.k (16 R334): bits 16k + 15 to 16k of q0 are replaced. -/
def moveHigh (k : Nat) (imm : BitVec 16) (d : Dst) (s : State) : State :=
  unOp (.q 0) d (fun q => (q &&& ~~~((0xFFFF : Dword) <<< (16 * k))) ||| (imm.setWidth 64 <<< (16 * k))) s

/-- MOVH.1 (16 R334). -/
def execMovh1 (imm : BitVec 16) (d : Dst) (s : State) : Out := .next (moveHigh 1 imm d s)

/-- MOVH.2 (16 R334). -/
def execMovh2 (imm : BitVec 16) (d : Dst) (s : State) : Out := .next (moveHigh 2 imm d s)

/-- MOVH.3 (16 R334). -/
def execMovh3 (imm : BitVec 16) (d : Dst) (s : State) : Out := .next (moveHigh 3 imm d s)

/-- PUT (16 R335). -/
def execPut (sa : Src) (d : Dst) (s : State) : Out := .next (unOp sa d id s)

/-- One lane of SEL (16 R335): both sources are read, and a poisoned predicate poisons the result. -/
def selLane (sa : Src) (sb : SSrc) (p : Fin 8) (d : Dst) (s : State) (l : Lane) : State :=
  match readAll s l [sa, sb.long] d with
  | .error x => s.excuse l x
  | .ok vs =>
    let v := if l.pre.pred p then argAt vs 0 else argAt vs 1
    (popSrcs s l [sa]).produce l.ref d { v := v, psn := anyPsn vs || l.pre.predPsn p }

/-- SEL (16 R335). -/
def execSel (sa : Src) (sb : SSrc) (p : Fin 8) (d : Dst) (s : State) : Out := .next (s.forLanes (selLane sa sb p d)).pushOff

/-! ## Extended blocks -/

/-- One lane of XACQ (07 R155; 16 R336, R337): it parks when the pool is empty, and its chain waits whole.
DEDUCED, unsafe: notes/assumptions/102.md. -/
def xacqLane (k : Nat) (s : State) (l : Lane) : State :=
  let t := s.team (refTeam l.ref)
  if (t.heldBlock l.ref k).isSome then s
  else if t.xpool = 0 then s.excuse l (trap 0x0A (BitVec.ofNat 32 k))
  else
    match s.acquire l.ref k with
    | some s => s
    | none => s.excuse l (.block k)

/-- XACQ. -/
def execXacq (k : Fin 8) (s : State) : Out := .next (s.forLanes (xacqLane k.val))

/-- XREL (07 R155; 16 R336): blocks that return are granted to parked XACQs. -/
def execXrel (k : Fin 8) (s : State) : Out :=
  let s := s.forLanes fun s l => s.releaseBlock l.ref k.val
  .next (s.actTeams.foldl (fun s u => s.grantBlocks u) s)

end Sys2Proof.Machine
end

