-- ==== Sys2Proof/Machine/Access.lean ====
section
/-!
DEFINITION. Machine/Access.lean: what the memory instructions share (18 R371 to R373): the policy check, the resolution of a
lane's address, requests and writes with the events that carry them out, interval logs (09 R202, R203), pairs of protected
launches (07 R143), and the range scoreboard (08 R180).
-/

namespace Sys2Proof.Machine

/-! ## The policy check (08 R171) -/

/-- The policy word that a lane's instruction reads (18 R371). -/
def Lane.pol (l : Lane) (m : Fin 8) : Word := l.pre.m[m]

/-- Runs an instruction when the policy word of every active lane passes a check; otherwise ILLEGAL_POLICY in every thread of
the bundle. DEDUCED, unsafe: notes/assumptions/11.md. -/
def policyGateBy (ok : Word → Bool) (m : Fin 8) (k : State → State) (s : State) : State :=
  match s.issue.act.find? fun l => !ok (l.pol m) with
  | some k => s.excuseEach fun l => trap 0x03 (if ok (l.pol m) then k.pol m else l.pol m)
  | none => k s

/-- The check of a kind of access. -/
def policyGate (kind : AccessKind) : Fin 8 → (State → State) → State → State := policyGateBy (policyOk kind)

/-! ## Pairs of protected launches (07 R143) -/

/-- The other lane of a lane's pair, when both are active in the bundle. -/
def State.partner (b : State) (l : Lane) : Option Lane :=
  if refKind l.ref = .lane ∧ b.isProtected l.ref then b.issue.act.find? fun k => k.ref = partnerRef l.ref else none

/-- A lane whose accesses its primary makes for it. -/
def State.shadowed (b : State) (l : Lane) : Bool := refLane l.ref % 2 == 1 && (b.partner l).isSome

/-- The lanes that receive what a lane's access returns: itself, and its shadow.
DEDUCED, safe: notes/assumptions/62.md. -/
def State.receivers (b : State) (l : Lane) : List Lane := l :: (b.partner l).toList

/-- The places that one request of a lane serves. -/
def State.served (s : State) (r : Nat) : List Nat :=
  if refKind r = .lane ∧ s.isProtected r ∧ refLane r % 2 = 0 then [r, r + 4] else [r]

/-- The partner of a lane is in the bundle, and its guard is false: it makes no access. -/
def State.partnerOff (b : State) (l : Lane) : Bool :=
  refKind l.ref == .lane && b.isProtected l.ref && b.issue.off.any fun k => k.ref == partnerRef l.ref

/-- What the operands of a lane's store or atomic make of the access differs from its partner's: `view` is what is compared. A partner
that makes no access differs. -/
def State.pairDiffersBy (b : State) (view : List Dword → List Dword) (l : Lane) (srcs : List Src) : Bool :=
  match b.partner l with
  | none => b.partnerOff l
  | some k =>
    match readAll b l srcs .none, readAll b k srcs .none with
    | .ok x, .ok y => view (x.map (·.v)) != view (y.map (·.v))
    | _, _ => false

/-- The operands of a lane differ from its partner's. -/
def State.pairDiffers (b : State) (l : Lane) (srcs : List Src) : Bool := b.pairDiffersBy id l srcs

/-- An address and data of which the low n bits count. -/
def lowData (n : Nat) : List Dword → List Dword
  | [] => []
  | a :: ds => a :: ds.map fun d => d &&& BitVec.ofNat 64 (2 ^ n - 1)

/-! ## The range scoreboard (08 R180) -/

/-- Whether two byte intervals meet. -/
def meets (a b : Nat × Nat) : Bool := decide (a.1 < b.2) && decide (b.1 < a.2)

/-- Whether a copy holds an access of its team to an interval of a space. -/
def CopyOp.holds (o : CopyOp) (space : Nat) (iv : Nat × Nat) (write : Bool) : Bool :=
  let gen := (space == 0 || space == 3) && o.glo.any fun g => meets g iv
  let loc := space == polSpace o.pol && meets o.lrange iv
  let written := match o.kind with
    | .cpst => gen
    | _ => loc
  written || (write && (gen || loc))

/-- Whether a copy in flight holds an access of a thread. -/
def State.copyHolds (s : State) (r space : Nat) (iv : Nat × Nat) (write : Bool) : Bool :=
  s.ops.any fun p =>
    match p.2 with
    | .copy o => o.team == refTeam r && o.core == s.coreOf r && refKind r != .steward && o.holds space iv write
    | _ => false

/-! ## Writes and their events -/

/-- A write that is made at the home of its word: a stream write, or one of a component without an L2 (03 R81; 09 R190). -/
def Write.atHome (x : Write) : Bool := x.cls == .stream || decide (4 ≤ x.comp)

/-- The other components, which apply a write after its own (09 R190). -/
def otherComps (c : Nat) : List Nat := (List.range 6).filter (· != c)

/-- The events that carry a write to its home (03 R81): a write at the home, or the request that obtains the word for its die. -/
def Write.events (x : Write) (id : Nat) : List Event :=
  [if x.atHome then event .homeWrite { id := id, die := x.comp, w := x.w, kid := x.kid }
   else event .homeReadForModification { die := x.comp, w := x.w, kid := x.kid },
   event .performAtDie { id := id, die := x.comp, w := x.w }]

/-- The events of an atomic at its home. -/
def atomEvents (id comp w : Nat) : List Event := [event .homeAtomic { id := id, die := comp, w := w }]

/-- The events that bring a stamped write to the other components. -/
def applyEvents (id comp : Nat) : List Event := (otherComps comp).map fun e => event .writeApply { id := id, die := e }

/-- Starts a write: it is performed at its core, and its events follow. A word that is not of device memory is reached in one event.
DESIGN CHOICE, unsafe: notes/assumptions/98.md. -/
def State.startWrite (s : State) (x : Write) : List Event × State :=
  let (id, s) := s.newWrite x
  (if x.out.isSome then [event .performAtDie { id := id, die := x.comp, w := x.w }]
   else match x.atom with
    | none => x.events id
    | some _ => atomEvents id x.comp x.w, s)

/-- Where a write stands that is not of device memory. -/
def Loc.out : Loc → Option Loc
  | .dev _ => Option.none
  | x => some x

/-- The core that performs a thread's store before its die does (09 R191): of device or host memory. -/
def State.storeCore (s : State) (r : Nat) : Loc → Option Nat
  | .dev _ => s.coreFor r
  | .host _ => s.coreFor r
  | _ => none

/-- The write of one word by a thread, for a request. -/
def State.writeBy (s : State) (r req : Nat) (pol : Word) (d : Word) (mask : BitVec 4) (x : Loc) : Write :=
  { comp := s.compOf r, core := s.storeCore r x, kid := s.ctxOf r, w := x.word, data := d, mask := mask, psn := false, req := req,
    cls := classOf pol x.word, fill := polFill pol, out := x.out }

/-- Whether a store is logged in a rollback launch (09 R202): plain, or relaxed with USE quantum, in generic space.
DEDUCED, safe: notes/assumptions/26.md. -/
def storeLogged (pol : Word) : Bool :=
  polSpace pol == 0 && (polOrder pol == 0 || (polOrder pol == 1 && polUse pol == 3))

/-- Whether a store publishes the log and escapes (09 R203): a release or SC store, or a relaxed one with USE unpaired or
non-ordering. -/
def storeEscapes (pol : Word) : Bool :=
  polOrder pol == 3 || polOrder pol == 5 || (polOrder pol == 1 && (polUse pol == 0 || polUse pol == 2))

/-- Whether a non-returning atomic is logged: USE quantum or commutative.
DEDUCED, safe: notes/assumptions/26.md. -/
def redLogged (pol : Word) : Bool := polSpace pol == 0 && polOrder pol == 1 && (polUse pol == 3 || polUse pol == 1)

/-- Whether an order is a release. -/
def isRelease (order : Nat) : Bool := order == 3 || order == 4 || order == 5

/-! ## Addresses -/

/-- The interval of an access. -/
def interval (a : Dword) (size : Nat) : Nat × Nat := (a.toNat, a.toNat + size)

/-- Whether an access of a thread waits for an earlier one of its own that is not complete (09 R186, R187; 18 R384): it names a
word that the earlier one names; the earlier one is a fence or an acquire, which orders it; or it is itself a release.
DEDUCED, unsafe: notes/assumptions/44.md. -/
def State.orderHolds (s : State) (r : Nat) (pol : Word) (ls : List Loc) : Bool :=
  let unordered := polUse pol == 2 || polUse pol == 3 || polUse pol == 4
  s.reqs.any fun p =>
    let x := p.2
    decide (p.1 < s.issue.first) && x.by r && x.kind != .prefetch &&
      (ls.any (fun l => x.locs.contains l)
        || (x.kind == .fence && !unordered)
        || (x.kind != .fence && [2, 4, 5].contains (polOrder x.pol) && polUse pol != 4)
        || (isRelease (polOrder pol) && x.kind != .fence && polUse x.pol != 3))

/-- Whether an access of an access-processor program waits: a load past an unresolved branch whose use is not speculative
(12 R253), or a store or atomic while an older instruction has not settled (R255).
DEDUCED, unsafe: notes/assumptions/60.md. -/
def State.apHolds (s : State) (r : Nat) (pol : Word) (write : Bool) : Bool :=
  refKind r == .ap && (if write then !s.apAllSettled (refTeam r) else (s.team (refTeam r)).speculative && polUse pol != 4)

/-- Resolves an address of a lane and applies the order of its thread and the range scoreboard: the locations, or the reason why
the lane waits or stops. -/
def State.reach (s : State) (l : Lane) (pol : Word) (a : Dword) (size : Nat) (write : Bool) :
    Except Excuse (List Loc) × State :=
  match s.resolve (s.agentOf l.ref) pol a size (if write then .write else .read) with
  | (.error x, s) => (.error x, s)
  | (.ok ls, s) =>
    if s.copyHolds l.ref (polSpace pol) (interval a size) write || s.orderHolds l.ref pol ls || s.apHolds l.ref pol write then
      (.error .notReady, s)
    else (.ok ls, s)

/-- The linear id that an error record names (20 R438): all ones where no team is concerned. -/
def State.tidOf (s : State) (r : Nat) : Word :=
  match refKind r with
  | .steward => 0xFFFFFFFF
  | _ => BitVec.ofNat 32 (s.team (refTeam r)).tid

/-- The record of an access to an unbacked word (03 R53; 20 R438): one for each lane of an access, with the virtual address of
the first such word.
DEDUCED, unsafe: notes/assumptions/95.md. -/
def State.unbackedRecord (s : State) (r : Nat) (a : Dword) (ls : List Loc) : State :=
  match ls.findIdx? fun x => x == Loc.none with
  | some i => s.errRecord (s.ctxOf r) 0 4 (s.tidOf r) (if i = 0 then a else BitVec.ofNat 64 (a.toNat / 4 * 4 + 4 * i))
  | none => s

/-! ## Requests -/

/-- Enters a request. -/
def State.addReq (s : State) (x : Req) : Nat × State :=
  let (id, s) := s.fresh
  (id, { s with reqs := aset s.reqs id x })

/-! ## Interval logs (09 R202, R203) -/

/-- Starts the publication of one logged entry of a team (09 R202) as a write of the request `req`: its identifier and events. An
entry found uncorrectable is published as a poisoned word (08 R174). -/
def State.publishEntry (s : State) (t : Team) (req : Nat) (e : LogEntry) : (Nat × List Event) × State :=
  let (d, psn) := e.judged
  let x : Write := { comp := dieOfCore t.core, core := if e.atom.isNone then some t.core else none, kid := t.ctx, w := e.loc.word,
                     data := d, mask := e.mask, psn := psn, atom := if psn then none else e.atom, req := req,
                     out := e.loc.out }
  let id := s.nextId
  let (es, s) := s.startWrite x
  ((id, es), s)

/-- What follows a write when it is performed. -/
def MemSys.setNext (m : MemSys) (id : Nat) (es : List Event) : MemSys :=
  match aget? m.writes id with
  | some x => { m with writes := aset m.writes id { x with next := es } }
  | none => m

/-- Each write of a list is followed by the next one. -/
def State.linkWrites (s : State) (ws : List (Nat × List Event)) : State :=
  (ws.zip (ws.drop 1)).foldl (fun s p => s.modMem fun m => m.setNext p.1.1 p.2.2) s

/-- Publishes a team's interval log for a thread: a request, of which every entry is performed at the die in log order, and the log
is emptied. -/
def State.publishLog (s : State) (u r : Nat) : List Event × State :=
  let t := s.team u
  if t.log.isEmpty then ([], s)
  else
    let (id, s) := s.addReq { ref := r, flag := 15, kind := .publish, core := t.core, kid := t.ctx, pol := 0, va := 0, off := 0,
                              locs := t.log.map (·.loc), left := t.log.length }
    let (ws, s) := t.log.foldl (fun (p : List (Nat × List Event) × State) e =>
      let (x, s) := p.2.publishEntry t id e
      (p.1 ++ [x], s)) ([], s)
    ((ws.map (·.2)).headD [], (s.linkWrites ws).modTeam u fun t => { t with log := [] })

/-- Publishes the log and marks the interval escaped.
DEDUCED, safe: notes/assumptions/70.md. -/
def State.escapeLog (s : State) (u r : Nat) : List Event × State :=
  let (es, s) := s.publishLog u r
  (es, s.modTeam u fun t => { t with escaped := true })

/-- The publications of a team's log that have not been performed. -/
def State.publishing (s : State) (u : Nat) : List Nat :=
  (s.reqs.filter fun p => p.2.kind == .publish && refTeam p.2.ref == u).map (·.1)

/-- What an escaping instruction of a lane does first in a rollback launch (09 R203): the log is published, and what the instruction
then causes follows the publication.
DEDUCED, safe: notes/assumptions/70.md. -/
def State.escapeBy (s : State) (r : Nat) : State :=
  if s.isRollback r then
    let (es, s) := s.escapeLog (refTeam r) r
    let s := s.emitNow r es
    match (s.publishing (refTeam r)).getLast? with
    | some id => { s with issue := { s.issue with hold := (r, id) :: s.issue.hold } }
    | none => s
  else s

/-- Enters a write in the log, whose unit is pinned in the L1 (08 R174). A log that reaches 4,096 words, or whose unit finds every way
of its set pinned, is published and the interval escapes (09 R203). -/
def State.logWrite (s : State) (r : Nat) (e : LogEntry) : State :=
  let e := { e with chk := encodeCheck (sigOf e.loc.word) e.data }
  let s := s.modTeam (refTeam r) fun t => { t with log := t.log ++ [e] }
  let t := s.team (refTeam r)
  let n := (s.logPins t.core (logUnit e % 64)).length
  let s := s.l1Trim t.core (logUnit e % 64) (8 - n)
  if 4096 ≤ t.log.length ∨ 8 < n then s.escapeBy r else s

/-! ## What requests wait for -/

/-- The words of device memory among locations. -/
def devWords (ls : List Loc) : List Nat := ls.filterMap fun x => match x with
  | .dev w => some w
  | _ => none

/-- Whether a word must come from its home: neither the core's L1 nor the die's L2 holds it. -/
def State.missing (s : State) (core kid w : Nat) : Bool :=
  (s.l1Word core kid w).isNone && (s.l2Word (dieOfCore core) kid w).isNone

/-- Whether the constant cache of an agent's core holds a word that its launch reads through it (08 R172). -/
def State.constHeld (s : State) (g : Agent) (pol : Word) (w : Nat) : Bool :=
  polSpace pol == 3 && ahas (aget [] s.mem.kcache g.core) ((s.team (refTeam g.ref)).launch * 2 ^ 37 + w)

/-- Whether an agent's read of a word of device memory must reach the word's home. -/
def State.lacks (s : State) (g : Agent) (pol : Word) (w : Nat) : Bool :=
  if refKind g.ref = .steward then decide (4 ≤ g.comp) || (s.l2Word g.comp g.ctx w).isNone
  else !s.constHeld g pol w && s.missing g.core g.ctx w

/-- The parts of a command (03 R54): one for each package channel that its words lie in, in pattern order. -/
def partsOf {α : Type} (word : α → Nat) (xs : List α) : List (List α) :=
  ((xs.map fun x => channelOf (word x)).eraseDups).map fun c => xs.filter fun x => channelOf (word x) = c

/-- The events of parts that are looked up in the LLC and filled from DRAM (03 R54, R55). -/
def partEvents (kid id : Nat) (pol : Word) (ws : List Nat) : List Event :=
  (partsOf (fun w => w) ws).map fun p =>
    event .memoryPart { id := id, kid := kid, ch := channelOf (p.headD 0), words := p, val := pol }

/-- The events that bring the words of a read to a die (03 R54, R81): its parts, then each word's home. -/
def State.fetchEvents (s : State) (g : Agent) (id : Nat) (pol : Word) (ws : List Nat) : List Event :=
  let need := ws.filter fun w => s.lacks g pol w
  partEvents g.ctx id pol need
    ++ need.map fun w => event .homeReadShared { id := id, die := g.comp, core := g.core, kid := g.ctx, w := w, cls := classOf pol w }

/-- A request that writes. -/
def ReqKind.isWrite : ReqKind → Bool
  | .store | .atom _ _ | .cas | .publish | .burst true => true
  | _ => false

/-- A request that only writes. -/
def ReqKind.onlyWrites : ReqKind → Bool
  | .store | .publish | .burst true => true
  | _ => false

/-- Fences complete (18 R384): those before which no request of their thread is still to complete. An acquire fence waits for
reads only. -/
def State.endFences (s : State) : State :=
  s.reqs.foldl (fun s p =>
    if p.2.kind == .fence && !(s.reqs.any fun y => decide (y.1 < p.1) && y.2.by p.2.ref && y.2.kind != .prefetch
        && polUse y.2.pol != 2 && polUse y.2.pol != 3 && (polOrder p.2.pol != 2 || !y.2.kind.onlyWrites)) then
      { (s.served p.2.ref).foldl (fun s r => s.clearFlag r p.2.flag) s with reqs := adel s.reqs p.1 }
    else s) s

/-- The flag of a request clears in every lane it serves, the request is forgotten, and what follows it goes on. -/
def State.endReq (s : State) (id : Nat) (x : Req) : State :=
  let s := (s.served x.ref ++ x.lanes).foldl (fun s r => s.clearFlag r x.flag) s
  let es := aget [] s.after id
  (({ s with reqs := adel s.reqs id, after := adel s.after id }).endFences).prepend es

/-- One part of a request is done: a write of a store, or a lane of a word-burst command (18 R381). The last ends it. -/
def State.countDown (s : State) (id : Nat) : State :=
  match aget? s.reqs id with
  | none => s
  | some x => if x.left ≤ 1 then s.endReq id x else { s with reqs := aset s.reqs id { x with left := x.left - 1 } }

/-- A request that returns nothing completes. -/
def State.finishReq (s : State) (id : Nat) (x : Req) : State := (s.endReq id x).countDown x.cmd

/-- The request of a read completes in every lane it serves: the value is put where it is awaited and the flag clears. -/
def State.answer (s : State) (id : Nat) (x : Req) (v : Val) : State :=
  ((s.served x.ref ++ x.lanes).foldl (fun s r => s.deliver r id v) s).finishReq id x

/-- One of the writes of a request has been performed. -/
def State.wrote (s : State) (id : Nat) : State :=
  match aget? s.reqs id with
  | none => s
  | some x => if x.left ≤ 1 then s.finishReq id x else { s with reqs := aset s.reqs id { x with left := x.left - 1 } }

/-- Puts an event after those that wait, unless it already waits. -/
def addEvent (e : Event) (es : List Event) : List Event := if es.contains e then es else es ++ [e]

/-- An event that names a word waits (03 R82; 04 R88): at the hub while the word's line is back-invalidated, at its home while a
recall of the word is outstanding. -/
def State.waitAt (s : State) (w : Nat) (e : Event) : Option State :=
  if ahas s.hub.snoops (w / 16) then some (s.modHub fun h => { h with snoops := amod [] h.snoops (w / 16) (addEvent e) })
  else if ahas s.mem.recalls w then some (s.modMem fun m => { m with homeq := amod [] m.homeq w (addEvent e) })
  else none

/-- An event that names words waits for the first of them that it has to wait for. -/
def State.waitAny (s : State) (ws : List Nat) (e : Event) : Option State := ws.findSome? fun w => s.waitAt w e

/-! ## What a home holds back (03 R81, R82; 04 R88; 02 R46; 05 R111) -/

/-- A request that its home can serve: a backed word under a live key id. -/
def State.serves (s : State) (kid w : Nat) : Bool := (s.keyOf kid).isSome && backed s.mem.span w

/-- An event waits for the copies of a word that packages hold, which are revoked. -/
def State.recallWait (s : State) (w : Nat) (ps : List Nat) (e : Event) : State :=
  (s.modMem fun m => { m with homeq := amod [] m.homeq w (addEvent e) }).recallFrom w ps

/-- Sends BISnp for a line that the host may cache (04 R88): the event waits for the reply. -/
def State.snoopLine (s : State) (line : Nat) (e : Event) : State :=
  s.modHub fun h => { h with snoops := amod [] h.snoops line (· ++ [e]), filter := adel h.filter line }

/-- Whether a request for a word has to wait, and for what (03 R82; 04 R88; 02 R46): an outstanding recall, the host's copy of
the line, or the copies of other packages. -/
def State.hold (s : State) (w : Nat) (write : Bool) (but : Option Nat) (e : Event) : Option State :=
  match s.waitAt w e with
  | some s => some s
  | none =>
    if ahas s.hub.filter (w / 16) then some (s.snoopLine (w / 16) e)
    else
      match s.remoteHolders w write but with
      | [] => none
      | ps => some (s.recallWait w ps e)

/-- A request that enters a unit in the word directory waits while the entry that would make room has copies in other packages (03 R81).
DEDUCED, safe: notes/assumptions/105.md. -/
def State.roomHold (s : State) (w : Nat) (e : Event) : Option State :=
  match s.roomHolders (w / 64) with
  | [] => none
  | (v, ps) :: _ =>
    match s.waitAt v e with
    | some s => some s
    | none => some (s.recallWait v ps e)

/-- Whether a read of a word by a component has to wait. -/
def State.readHold (s : State) (comp w : Nat) (e : Event) : Option State :=
  match s.hold w false none e with
  | some s => some s
  | none => if comp < 4 then s.roomHold w e else none

/-- The pages that the list of a Cast of n pages takes. -/
def listPages (n : Nat) : Nat := ceilDiv (n + 2) 8192

/-- The first page of a buffer of a context. -/
def Ctx.buffer (x : Ctx) (b : Bool) : Nat := if b then x.bufb else x.bufa

/-- The page of the building buffer that receives the copy of a virtual page (05 R110). -/
def Ctx.copyOf (x : Ctx) (b : Build) (v : Nat) : Nat := x.buffer b.toB + listPages b.all.length + b.all.idxOf v

/-- The first of consecutive words for which a request has to wait. -/
def State.spanHold (s : State) (w n : Nat) (write : Bool) (e : Event) : Option State :=
  ((List.range n).map (w + ·)).findSome? fun x => s.hold x write none e

/-- A copy of a page waits at the homes of the words that it reads and of those that it writes (03 R82). -/
def State.pageHold (s : State) (src dst : Nat) (e : Event) : Option State :=
  match s.spanHold (src * 16384) 16384 false e with
  | some s => some s
  | none => s.spanHold (dst * 16384) 16384 true e

/-- The pages of a word's page that a running build of a key id has not copied yet. -/
def State.uncopied (s : State) (kid w : Nat) : List (Nat × Nat) :=
  match (s.ctx kid).build with
  | some b => if b.point then b.pages.filter fun p => p.2 = w / 16384 else []
  | none => []

/-- The copy that a write to a page not yet copied brings about first (05 R111) has to wait. -/
def State.copyHold (s : State) (kid w : Nat) (e : Event) : Option State :=
  let x := s.ctx kid
  match x.build with
  | some b => (s.uncopied kid w).findSome? fun p => s.pageHold p.2 (x.copyOf b p.1) e
  | none => none

/-- Whether a write or atomic of a word at its home has to wait. -/
def State.writeHold (s : State) (kid w : Nat) (e : Event) : Option State :=
  match s.hold w true none e with
  | some s => some s
  | none => s.copyHold kid w e

/-- Whether a write of a word by a die's L2 has to wait. -/
def State.dieHold (s : State) (kid w : Nat) (e : Event) : Option State :=
  match s.writeHold kid w e with
  | some s => some s
  | none => s.roomHold w e

/-- An agent's read waits for the first word that its home holds back. -/
def State.agentHold (s : State) (g : Agent) (pol : Word) (ls : List Loc) (e : Event) : Option State :=
  (devWords ls).findSome? fun w => if s.serves g.ctx w && s.lacks g pol w then s.readHold g.comp w e else none

/-- The event being executed, to be tried again. -/
def State.again (s : State) (op : Instr) : Event := { op := op, arg := s.ev }

/-- The event being executed has waited for a recall of a word that a package which is down did not answer: it completes with a
poisoned value, or is discarded (02 R48). -/
def State.isLost (s : State) (w : Nat) : Bool := s.ev.lost.contains w

/-- The number that the words of a read make. -/
def wordsNat : List Word → Nat
  | [] => 0
  | w :: ws => w.toNat + 2 ^ 32 * wordsNat ws

/-- The value that a load delivers (18 R376; 07 R150). -/
def loadValue (size : Nat) (signed : Bool) (off : Nat) (ws : List Word) : Dword :=
  let x := wordsNat ws / 2 ^ (8 * off) % 2 ^ (8 * size)
  if signed then BitVec.ofInt 64 (signedOf (8 * size) x) else BitVec.ofNat 64 x

end Sys2Proof.Machine
end

