-- ==== Sys2Proof/Machine/LoadStore.lean ====
section
/-!
DEFINITION. Machine/LoadStore.lean: loads, stores, PREF, PCHK and the replies of memory (18 R376, R377, R387; 08 R183).
-/

namespace Sys2Proof.Machine

/-! ## Loads -/

/-- The address of an ML or MS access (18 R371). -/
def offAddr (a : Dword) (off : BitVec 4) (size : Nat) : Dword := a + off.signExtend 64 * BitVec.ofNat 64 size

/-- Gives a pushed value to every lane that a lane's access serves. -/
def State.giveAll (s b : State) (l : Lane) (d : Dst) (v : Val) : State :=
  (b.receivers l).foldl (fun s k => s.produce k.ref d v) s

/-- Sets the flag of a long-latency instruction in every lane that a lane's access serves. -/
def State.flagAll (s b : State) (l : Lane) (fs : Bool) : State :=
  (b.receivers l).foldl (fun s k => s.setFlag k.ref (b.issue.flag fs)) s

/-- A read of a lane: its request enters, what it returns is awaited, and its events follow. -/
def State.startRead (s b : State) (l : Lane) (fs : Bool) (d : Dst) (pol : Word) (a : Dword) (kind : ReqKind) (ls : List Loc) :
    State :=
  let s := s.unbackedRecord l.ref a ls
  let g := s.agentOf l.ref
  let (id, s) := s.addReq { ref := l.ref, flag := b.issue.flag fs, kind := kind, core := g.core, kid := g.ctx, pol := pol,
                            va := a, off := a.toNat % 4, locs := ls }
  let s := (s.giveAll b l d { pend := some id }).flagAll b l fs
  s.emitAll l.ref (s.fetchEvents g id pol (devWords ls) ++ [event .memoryReply { id := id }])

/-- One lane of a load-like read: a poisoned address performs no access and pushes a poisoned zero (18 R372). -/
def readLane (b : State) (size : Nat) (kind : ReqKind) (m : Fin 8) (fs : Bool) (sa : Src) (off : BitVec 4) (d : Dst)
    (s : State) (l : Lane) : State :=
  if b.shadowed l then popSrcs s l [sa]
  else
    match readAll b l [sa] d with
    | .error x => s.excuse l x
    | .ok vs =>
      if anyPsn vs then (popSrcs s l [sa]).giveAll b l d { psn := true }
      else
        let a := offAddr (argAt vs 0) off size
        match s.reach l (l.pol m) a size false with
        | (.error x, s) => s.excuse l x
        | (.ok ls, s) => (popSrcs s l [sa]).startRead b l fs d (l.pol m) a kind ls

/-- A load in every active lane (18 R376). -/
def loadOp (size : Nat) (signed : Bool) (m : Fin 8) (fs : Bool) (sa : Src) (off : BitVec 4) (d : Dst) (s : State) : State :=
  policyGate .load m (fun s => (s.forLanes (readLane s size (.load size signed) m fs sa off d)).pushOff) s

/-- LD.i8. -/
def execLdI8 (m : Fin 8) (fs : Bool) (sa : Src) (off : BitVec 4) (d : Dst) (s : State) : Out :=
  .next (loadOp 1 true m fs sa off d s)

/-- LD.i16. -/
def execLdI16 (m : Fin 8) (fs : Bool) (sa : Src) (off : BitVec 4) (d : Dst) (s : State) : Out :=
  .next (loadOp 2 true m fs sa off d s)

/-- LD.i32. -/
def execLdI32 (m : Fin 8) (fs : Bool) (sa : Src) (off : BitVec 4) (d : Dst) (s : State) : Out :=
  .next (loadOp 4 true m fs sa off d s)

/-- LD.w8. -/
def execLdW8 (m : Fin 8) (fs : Bool) (sa : Src) (off : BitVec 4) (d : Dst) (s : State) : Out :=
  .next (loadOp 1 false m fs sa off d s)

/-- LD.w16. -/
def execLdW16 (m : Fin 8) (fs : Bool) (sa : Src) (off : BitVec 4) (d : Dst) (s : State) : Out :=
  .next (loadOp 2 false m fs sa off d s)

/-- LD.w32. -/
def execLdW32 (m : Fin 8) (fs : Bool) (sa : Src) (off : BitVec 4) (d : Dst) (s : State) : Out :=
  .next (loadOp 4 false m fs sa off d s)

/-- LD.b64. -/
def execLdB64 (m : Fin 8) (fs : Bool) (sa : Src) (off : BitVec 4) (d : Dst) (s : State) : Out :=
  .next (loadOp 8 false m fs sa off d s)

/-- PCHK (18 R387): a read that pushes 1 when the word is poisoned. -/
def execPchk (m : Fin 8) (fs : Bool) (sa : Src) (s : State) : Out :=
  .next (policyGate .check m (fun s => (s.forLanes (readLane s 4 .check m fs sa 0 .none)).pushOff) s)

/-! ## Replies -/

/-- Reads the words of a request (08 R183). -/
def State.readWords (s : State) (g : Agent) (pol : Word) : List Loc → List (Word × Bool) × State
  | [] => ([], s)
  | x :: xs =>
    let (d, p, s) := s.readLoc g pol x
    let (r, s) := s.readWords g pol xs
    ((d, p) :: r, s)

/-- What a request returns: the value and its poison. A read that a package which is down has held up returns poison (02 R48). -/
def State.replyValue (s : State) (x : Req) : Val × State :=
  let lost := (devWords x.locs).any s.isLost
  match x.kind with
  | .load size signed =>
    let (ws, s) := s.readWords (s.agentOf x.ref) x.pol x.locs
    ({ v := loadValue size signed x.off (ws.map (·.1)), psn := ws.any (·.2) || lost }, s)
  | .check =>
    let (ws, s) := s.readWords (s.agentOf x.ref) x.pol x.locs
    ({ v := ofBool64 (ws.any (·.2) || lost) }, s)
  | _ => (x.vals.headD {}, s)

/-- The words of a PREF come to the L1 and the L2 (18 R377), those of a steward to its L2. -/
def State.prefWords (s : State) (g : Agent) (pol : Word) (ls : List Loc) : State :=
  ls.foldl (fun s x =>
    let go (kid w c : Nat) : State :=
      if refKind g.ref = .steward then (s.readSteward g.comp kid w pol).2.2
      else s.prefWord g.core kid w (classOf pol c) (polFill pol)
    match x with
    | .dev w => if (s.keyOf g.ctx).isNone then s else go g.ctx w w
    | .host w => go 0 (hostWord w) w
    | _ => s) s

/-- What a reply has to wait for: a read for the words that its agent lacks, an atomic for its read-modify-write. -/
def State.replyHold (s : State) (x : Req) (e : Event) : Option State :=
  match x.kind with
  | .load _ _ | .check | .prefetch => s.agentHold (s.agentOf x.ref) x.pol x.locs e
  | _ => if x.vals.isEmpty then s.waitAny (devWords x.locs) e else none

/-- MEMORY_REPLY (07 R150; 08 R183): the value of a request arrives, or the fills of a PREF have arrived. -/
def execMemoryReply (s : State) : Out :=
  let id := s.ev.id
  match aget? s.reqs id with
  | none => .next s
  | some x =>
    match s.replyHold x (s.again .memoryReply), x.kind with
    | some s, _ => .next s
    | none, .fence => .next s.endFences
    | none, .burst _ => .next s
    | none, .prefetch => .next ((s.prefWords (s.agentOf x.ref) x.pol x.locs).finishReq id x)
    | none, _ =>
      let (v, s) := s.replyValue x
      .next (s.answer id x v)

/-! ## Stores -/

/-- The word of the data of a store that goes to its i-th word, and the byte mask (03 R65). -/
def storeWord (size off : Nat) (data : Nat) (i : Nat) : Word × BitVec 4 :=
  if size < 4 then (BitVec.ofNat 32 (data * 2 ^ (8 * off)), BitVec.ofNat 4 ((2 ^ size - 1) * 2 ^ off))
  else (BitVec.ofNat 32 (data / 2 ^ (32 * i)), 15)

/-- One word of a store: logged in a rollback launch, or started as a write; a word that is not backed is discarded. The count is
of the writes started. -/
def State.putWord (s : State) (r : Nat) (req : Nat) (pol : Word) (d : Word) (mask : BitVec 4) (x : Loc) : Nat × State :=
  if x = Loc.none then (0, s)
  else if s.isRollback r && storeLogged pol then
    (0, s.logWrite r { loc := x, data := d, mask := mask, psn := false, atom := none, ref := r })
  else
    let (es, s) := s.startWrite (s.writeBy r req pol d mask x)
    (1, s.emitAll r es)

/-- The words of a store, in order: how many writes were started. -/
def State.putWords (s : State) (r req : Nat) (pol : Word) (size off data : Nat) : List (Nat × Loc) → Nat × State
  | [] => (0, s)
  | (i, x) :: xs =>
    let (d, mask) := storeWord size off data i
    let (n, s) := s.putWord r req pol d mask x
    let (k, s) := s.putWords r req pol size off data xs
    (n + k, s)

/-- A store of a lane whose locations are known: a store that is not logged publishes the log first (09 R203), and the flag is
set while writes are under way (14 R289). -/
def State.startStore (s b : State) (l : Lane) (fs : Bool) (pol : Word) (a : Dword) (size : Nat) (data : Nat) (ls : List Loc) :
    State :=
  let s := s.unbackedRecord l.ref a ls
  let s := if storeEscapes pol then s.escapeBy l.ref else s
  let g := s.agentOf l.ref
  let (id, s) := s.addReq { ref := l.ref, flag := b.issue.flag fs, kind := .store, core := g.core, kid := g.ctx, pol := pol,
                            va := a, off := a.toNat % 4, locs := ls }
  let (n, s) := s.putWords l.ref id pol size (a.toNat % 4) data ((List.range ls.length).zip ls)
  if n = 0 then { s with reqs := adel s.reqs id }
  else
    let s := { s with reqs := amod (noReq) s.reqs id fun x => { x with left := n } }
    s.flagAll b l fs
where
  /-- Stands for a request that does not exist. -/
  noReq : Req := { ref := 0, flag := 15, kind := .store, core := 0, kid := 0, pol := 0, va := 0, off := 0, locs := [] }

/-- The source after a source: SB + 1 of ST.b128 (15 R318). -/
def nextSrc : Src → Src
  | .n i => .n (i + 1)
  | .e i => .e (i + 1)
  | x => x

/-- One lane of a store (18 R376): address and data are consumed, and a pair's operands are compared. -/
def storeLane (b : State) (size : Nat) (m : Fin 8) (fs : Bool) (sa sb : Src) (off : BitVec 4) (s : State) (l : Lane) : State :=
  let srcs := if size = 16 then [sa, sb, nextSrc sb] else [sa, sb]
  match readConsumed b l srcs with
  | .error x => s.excuse l x
  | .ok vs =>
    if b.pairDiffersBy (lowData (8 * min size 8)) l srcs then s.excuse l (trap 0x12)
    else if b.shadowed l then popSrcs s l srcs
    else
      let a := offAddr (argAt vs 0) off size
      match s.reach l (l.pol m) a size true with
      | (.error x, s) => s.excuse l x
      | (.ok ls, s) =>
        let data := (argAt vs 1).toNat % 2 ^ (8 * min size 8) + (argAt vs 2).toNat * 2 ^ 64
        (popSrcs s l srcs).startStore b l fs (l.pol m) a size data ls

/-- A store in every active lane. -/
def storeOp (size : Nat) (m : Fin 8) (fs : Bool) (sa sb : Src) (off : BitVec 4) (s : State) : State :=
  policyGate .store m (fun s => s.forLanes (storeLane s size m fs sa sb off)) s

/-- ST.b8. -/
def execStB8 (m : Fin 8) (fs : Bool) (sa sb : Src) (off : BitVec 4) (s : State) : Out := .next (storeOp 1 m fs sa sb off s)

/-- ST.b16. -/
def execStB16 (m : Fin 8) (fs : Bool) (sa sb : Src) (off : BitVec 4) (s : State) : Out := .next (storeOp 2 m fs sa sb off s)

/-- ST.b32. -/
def execStB32 (m : Fin 8) (fs : Bool) (sa sb : Src) (off : BitVec 4) (s : State) : Out := .next (storeOp 4 m fs sa sb off s)

/-- ST.b64. -/
def execStB64 (m : Fin 8) (fs : Bool) (sa sb : Src) (off : BitVec 4) (s : State) : Out := .next (storeOp 8 m fs sa sb off s)

/-- ST.b128. -/
def execStB128 (m : Fin 8) (fs : Bool) (sa sb : Src) (off : BitVec 4) (s : State) : Out :=
  .next (storeOp 16 m fs sa sb off s)

/-! ## PREF -/

/-- One lane of PREF (18 R377): it does nothing for an operand that cannot be read, for a poisoned, non-canonical or misaligned
address, in a scratchpad, or where the walk would fault. -/
def prefLane (b : State) (m : Fin 8) (fs : Bool) (sa : Src) (off : BitVec 4) (s : State) (l : Lane) : State :=
  match readAll b l [sa] .none with
  | .error x => if x.unready then s.excuse l x else s
  | .ok vs =>
    let s := popSrcs s l [sa]
    let pol := l.pol m
    if b.shadowed l ∨ anyPsn vs ∨ polSpace pol = 1 ∨ polSpace pol = 2 then s
    else
      let a := offAddr (argAt vs 0) off 4
      match s.resolve (s.agentOf l.ref) pol a 4 .read with
      | (.error x, _) => if x.unready then s.excuse l x else s
      | (.ok ls, s) =>
        let ls := ls.filter fun x => x != Loc.none
        let g := s.agentOf l.ref
        let (id, s) := s.addReq { ref := l.ref, flag := b.issue.flag fs, kind := .prefetch, core := g.core, kid := g.ctx,
                                  pol := pol, va := a, off := 0, locs := ls }
        (s.flagAll b l fs).emitAll l.ref
          (s.fetchEvents g id pol (devWords ls) ++ [event .memoryReply { id := id }])

/-- PREF. -/
def execPref (m : Fin 8) (fs : Bool) (sa : Src) (off : BitVec 4) (s : State) : Out :=
  .next (policyGate .prefetch m (fun s => s.forLanes (prefLane s m fs sa off)) s)

end Sys2Proof.Machine
end

