-- ==== Sys2Proof/Machine/Flags.lean ====
section
/-!
DEFINITION. Machine/Flags.lean: the floating-point flags and modes of FPCTL (10 R207 to R209) and the stochastic-rounding
state (10 R219). The completion flags are in Machine/Feed.lean.
-/

namespace Sys2Proof.Machine

/-- The five flags that a floating-point instruction can raise (10 R207). -/
structure FpFlags where
  nv : Bool := false
  dz : Bool := false
  of : Bool := false
  uf : Bool := false
  nx : Bool := false
  deriving DecidableEq, Repr

/-- The flags of two operations. -/
def FpFlags.join (a b : FpFlags) : FpFlags :=
  { nv := a.nv || b.nv, dz := a.dz || b.dz, of := a.of || b.of, uf := a.uf || b.uf, nx := a.nx || b.nx }

/-- The flags in their places in FPCTL: NV 8, DZ 9, OF 10, UF 11, NX 12. -/
def FpFlags.word (f : FpFlags) : Word :=
  (if f.nv then 0x100 else 0) ||| (if f.dz then 0x200 else 0) ||| (if f.of then 0x400 else 0)
    ||| (if f.uf then 0x800 else 0) ||| (if f.nx then 0x1000 else 0)

/-- FPFlag (14 R308): raises flags in a lane (10 R208). -/
def State.raise (s : State) (r : Nat) (f : FpFlags) : State := s.modThread r fun t => { t with fpctl := t.fpctl ||| f.word }

/-- FTZ (10 R207). -/
def Thread.ftz (t : Thread) : Bool := t.fpctl.getLsbD 4

/-- The writable bits of FPCTL (17 R353). -/
def fpctlMask : Word := 0x1F13

/-- How a value is rounded (10 R209, R219). `draw` is the upper 24 bits of a stochastic state. -/
inductive Mode where
  | rne | rz | ru | rd
  | sr (draw : Nat)
  deriving DecidableEq, Repr

/-- The mode that a code of FPCTL.RM names. -/
def modeOf : Nat → Mode
  | 0 => .rne
  | 1 => .rz
  | 2 => .ru
  | _ => .rd

/-- The mode of FPCTL (10 R207). -/
def Thread.mode (t : Thread) : Mode := modeOf (bitsOf t.fpctl 1 0)

/-- The mode that an RM field names in a thread; `.sr` is resolved by the conversions. -/
def Thread.rm (t : Thread) : Rm → Mode
  | .rn => .rne
  | .rz => .rz
  | .ru => .ru
  | .rd => .rd
  | _ => t.mode

/-- The mode that an RM2 field names in a thread. -/
def Thread.rm2 (t : Thread) : Rm2 → Mode
  | .dyn => t.mode
  | .rz => .rz
  | .ru => .ru
  | .rd => .rd

/-- The stochastic-rounding state after it advances (10 R219).
DEDUCED, unsafe: notes/assumptions/22.md. -/
def srNext (x : Word) : Word :=
  let x := x ^^^ (x <<< 13)
  let x := x ^^^ (x >>> 17)
  x ^^^ (x <<< 5)

/-- The draw of a stochastic state. -/
def srMode (x : Word) : Mode := .sr (x.toNat / 256)

/-- The reset value of the stochastic-rounding state (07 R159). -/
def srReset (grp lane : Nat) : Word := 0x6A09E667 ^^^ BitVec.ofNat 32 (32 * grp + lane)

end Sys2Proof.Machine
end

