-- ==== Sys2Proof/Machine/Num.lean ====
section
/-!
DEFINITION. Machine/Num.lean: exact numbers, the IEEE formats, rounding, arithmetic, and the functions of 17 R356 to the last
bit (10 R205 to R211).
-/

namespace Sys2Proof.Machine

/-- An exact value: (-1)^neg m 2^e, an infinity, or a NaN, signalling or not. -/
inductive Num where
  | nan (sig : Bool)
  | inf (neg : Bool)
  | fin (neg : Bool) (m : Nat) (e : Int)
  deriving DecidableEq, Repr

/-- A zero. -/
def Num.zero (neg : Bool) : Num := .fin neg 0 0

/-- The value of a whole number. -/
def Num.ofInt (x : Int) : Num := .fin (decide (x < 0)) x.natAbs 0

/-- 2^n for n at or above 0, else 1. -/
def pow2 (n : Int) : Nat := 2 ^ n.toNat

/-! ## Rounding -/

/-- Rounds the magnitude m 2^e to a whole number of units 2^k: the number of units, and whether a part was dropped. -/
def roundUnits (mode : Mode) (neg : Bool) (m : Nat) (e k : Int) : Nat × Bool :=
  if k ≤ e then (m * pow2 (e - k), false)
  else
    let d := pow2 (k - e)
    let q := m / d
    let r := m % d
    let up := match mode with
      | .rne => decide (d < 2 * r) || (decide (2 * r = d) && q % 2 == 1)
      | .rz => false
      | .ru => !neg && r != 0
      | .rd => neg && r != 0
      | .sr draw => decide (2 ^ 24 ≤ r * 2 ^ 24 / d + draw) && r != 0
    (if up then q + 1 else q, r != 0)

/-- An IEEE format (10 R205): exponent bits, fraction bits, bias, and whether FTZ bears on it. -/
structure Fmt where
  ebits : Nat
  mbits : Nat
  bias  : Nat
  flush : Bool
  deriving DecidableEq, Repr

/-- f64. -/
def fmt64 : Fmt := { ebits := 11, mbits := 52, bias := 1023, flush := false }

/-- f32. -/
def fmt32 : Fmt := { ebits := 8, mbits := 23, bias := 127, flush := true }

/-- f16. -/
def fmt16 : Fmt := { ebits := 5, mbits := 10, bias := 15, flush := true }

/-- bf16. -/
def fmtB16 : Fmt := { ebits := 8, mbits := 7, bias := 127, flush := true }

/-- The width of a format. -/
def Fmt.width (f : Fmt) : Nat := 1 + f.ebits + f.mbits

/-- The exponent of the smallest normal number. -/
def Fmt.emin (f : Fmt) : Int := 1 - (f.bias : Int)

/-- The code of an infinity, without its sign. -/
def Fmt.infCode (f : Fmt) : Nat := (2 ^ f.ebits - 1) * 2 ^ f.mbits

/-- The canonical NaN (10 R205). -/
def Fmt.canon (f : Fmt) : Nat := f.infCode + 2 ^ (f.mbits - 1)

/-- A sign bit over a code. -/
def Fmt.signed (f : Fmt) (neg : Bool) (code : Nat) : Nat := (if neg then 2 ^ (f.ebits + f.mbits) else 0) + code

/-- The value of a code of an IEEE format; with `ftz` a subnormal reads as a zero (10 R211). -/
def Fmt.decode (f : Fmt) (ftz : Bool) (x : Nat) : Num :=
  let m := x % 2 ^ f.mbits
  let e := x / 2 ^ f.mbits % 2 ^ f.ebits
  let neg := x.testBit (f.ebits + f.mbits)
  if e = 2 ^ f.ebits - 1 then (if m = 0 then .inf neg else .nan (m < 2 ^ (f.mbits - 1)))
  else if e = 0 then (if ftz && f.flush then .zero neg else .fin neg m (f.emin - f.mbits))
  else .fin neg (m + 2 ^ f.mbits) ((e : Int) - f.bias - f.mbits)

/-- Whether an overflow gives the largest finite number in a mode (IEEE 754 7.4); stochastic rounding does so where it rounds
toward zero (DEDUCED, unsafe: notes/assumptions/10.md). -/
def overflowFinite (mode : Mode) (neg : Bool) : Bool :=
  match mode with
  | .rne => false
  | .rz => true
  | .ru => neg
  | .rd => !neg
  | .sr _ => true

/-- Rounds an exact value into an IEEE format (14 R308 RoundToF..): the code and the flags of the rounding, tininess being
detected after rounding (10 R208) and results flushed by FTZ (R211).
DEDUCED, unsafe: notes/assumptions/10.md. -/
def Fmt.round (f : Fmt) (mode : Mode) (ftz : Bool) : Num → Nat × FpFlags
  | .nan _ => (f.canon, {})
  | .inf neg => (f.signed neg f.infCode, {})
  | .fin neg m e =>
    if m = 0 then (f.signed neg 0, {})
    else
      let ex := (log2 m : Int) + e
      let k := max ex f.emin - f.mbits
      let (q, nx) := roundUnits mode neg m e k
      let code := (k - (f.emin - f.mbits)).toNat * 2 ^ f.mbits + q
      if f.infCode ≤ code then
        let trunc := match mode with
          | .sr _ => decide (q = (roundUnits .rz neg m e k).1)
          | _ => true
        (f.signed neg (if overflowFinite mode neg && trunc then f.infCode - 1 else f.infCode), { of := true, nx := true })
      else if code < 2 ^ f.mbits then
        if ftz && f.flush && code != 0 then (f.signed neg 0, { uf := true, nx := true })
        else (f.signed neg code, { uf := nx, nx := nx })
      else
        let q' := (roundUnits mode neg m e (ex - f.mbits)).1
        let tiny := decide (ex < f.emin) && decide (q' < 2 ^ (f.mbits + 1))
        (f.signed neg code, { uf := tiny && nx, nx := nx })

/-! ## Arithmetic -/

/-- A value is a signalling NaN. -/
def Num.isSig : Num → Bool
  | .nan sig => sig
  | _ => false

/-- A value is a NaN. -/
def Num.isNan : Num → Bool
  | .nan _ => true
  | _ => false

/-- Whether a value is negative, by its sign. -/
def Num.neg? : Num → Bool
  | .nan _ => false
  | .inf n => n
  | .fin n _ _ => n

/-- The value with the opposite sign. -/
def Num.negate : Num → Num
  | .nan s => .nan s
  | .inf n => .inf (!n)
  | .fin n m e => .fin (!n) m e

/-- The signed mantissa of a finite value in units of 2^k, for k at or below its exponent. -/
def signedAt (neg : Bool) (m : Nat) (e k : Int) : Int := if neg then -(m * pow2 (e - k) : Nat) else (m * pow2 (e - k) : Nat)

/-- Exact addition. A sum that is exactly zero takes the sign that IEEE 754 6.3 gives it in the mode. -/
def Num.add (mode : Mode) : Num → Num → Num × FpFlags
  | .nan a, y => (.nan false, { nv := a || y.isSig })
  | x, .nan b => (.nan false, { nv := b || x.isSig })
  | .inf a, .inf b => if a = b then (.inf a, {}) else (.nan false, { nv := true })
  | .inf a, _ => (.inf a, {})
  | _, .inf b => (.inf b, {})
  | .fin a m e, .fin b n g =>
    let k := min e g
    let v := signedAt a m e k + signedAt b n g k
    if v = 0 then (.zero (if a = b then a else mode == .rd), {})
    else (.fin (decide (v < 0)) v.natAbs k, {})

/-- Exact multiplication. -/
def Num.mul : Num → Num → Num × FpFlags
  | .nan a, y => (.nan false, { nv := a || y.isSig })
  | x, .nan b => (.nan false, { nv := b || x.isSig })
  | .inf a, .inf b => (.inf (a != b), {})
  | .inf a, .fin b n _ => if n = 0 then (.nan false, { nv := true }) else (.inf (a != b), {})
  | .fin a m _, .inf b => if m = 0 then (.nan false, { nv := true }) else (.inf (a != b), {})
  | .fin a m e, .fin b n g => (.fin (a != b) (m * n) (e + g), {})

/-- Exact a × b + c (10 R210; 17 R354). -/
def Num.fma (mode : Mode) (a b c : Num) : Num × FpFlags :=
  let (p, f) := a.mul b
  if p.isNan then (.nan false, { nv := f.nv || c.isSig })
  else p.add mode c

/-- Whether x is below y, neither being a NaN. -/
def Num.lt : Num → Num → Bool
  | .inf a, .inf b => a && !b
  | .inf a, _ => a
  | _, .inf b => !b
  | .fin a m e, .fin b n g => decide (signedAt a m e (min e g) < signedAt b n g (min e g))
  | _, _ => false

/-- Whether x equals y, zeros being equal, neither being a NaN. -/
def Num.eq : Num → Num → Bool
  | .inf a, .inf b => a == b
  | .fin a m e, .fin b n g => decide (signedAt a m e (min e g) = signedAt b n g (min e g))
  | _, _ => false

/-- FMIN and FMAX (17 R349): `less` says whether its first argument is the one to give. -/
def Num.pick (less : Num → Num → Bool) (a b : Num) (first : Bool) : Num × FpFlags :=
  let f : FpFlags := { nv := a.isSig || b.isSig }
  if a.isNan && b.isNan then (.nan false, f)
  else if a.isNan then (b, f)
  else if b.isNan then (a, f)
  else if a.eq b then (if first = a.neg? then a else b, f)
  else (if less a b then a else b, f)

/-- FMIN. -/
def Num.min (a b : Num) : Num × FpFlags := Num.pick Num.lt a b true

/-- FMAX. -/
def Num.max (a b : Num) : Num × FpFlags := Num.pick (fun x y => y.lt x) a b false

/-- The sum of two values scaled by a power of two. -/
def Num.scale (x : Num) (k : Int) : Num :=
  match x with
  | .fin n m e => .fin n m (e + k)
  | y => y

/-- A value rounded to an integral value (17 R351), with the flags of the rounding. -/
def Num.integral (mode : Mode) : Num → Num × FpFlags
  | .nan s => (.nan false, { nv := s })
  | .inf n => (.inf n, {})
  | .fin n m e =>
    let (q, nx) := roundUnits mode n m e 0
    (.fin n q 0, { nx := nx })

/-! ## Functions (17 R356) -/

/-- A magnitude known to lie strictly between m 2^e and (m + 1) 2^e, as a value that rounds as it does. -/
def between (neg : Bool) (m : Nat) (e : Int) : Num := .fin neg (4 * m + 1) (e - 2)

/-- The value m 2^e, or one strictly above it by less than 2^e. -/
def exactOr (exact : Bool) (neg : Bool) (m : Nat) (e : Int) : Num := if exact then .fin neg m e else between neg m e

/-- The whole part of a square root, by its bits. -/
def isqrt (n : Nat) : Nat → Nat → Nat
  | 0, r => r
  | i + 1, r => isqrt n i (if (r + 2 ^ i) * (r + 2 ^ i) ≤ n then r + 2 ^ i else r)

/-- The whole part of the square root of n. -/
def sqrtFloor (n : Nat) : Nat := isqrt n (log2 n / 2 + 1) 0

/-- The fraction bits of the fixed-point computations. -/
def fixBits : Nat := 720

/-- π in units of 2^-720. -/
def fixPi : Nat :=
  0x3243f6a8885a308d313198a2e03707344a4093822299f31d0082efa98ec4e6c89452821e638d01377be5466cf34e90c6cc0ac29b7c97c50dd3f84d5b5b54709179216d5d98979fb1bd1310ba698dfb5ac2ffd72dbd01adfb7b8e1

/-- The natural logarithm of 2 in units of 2^-720. -/
def fixLn2 : Nat :=
  0xb17217f7d1cf79abc9e3b39803f2f6af40f343267298b62d8a0d175b8baafa2be7b876206debac98559552fb4afa1b10ed2eae35c138214427573b291169b8253e96ca16224ae8c51acbda11317c387eb9ea9bc3b136603b256f

/-- A product of fixed-point numbers. -/
def fixMul (a b : Nat) : Nat := a * b / 2 ^ fixBits

/-- The exponential series from term t = y^i / i!. -/
def expSeries (y : Nat) : Nat → Nat → Nat → Nat
  | 0, _, _ => 0
  | n + 1, i, t => t + expSeries y n (i + 1) (fixMul t y / (i + 1))

/-- e^y for a fixed-point y below 1. -/
def fixExp (y : Nat) : Nat := expSeries y 150 0 (2 ^ fixBits)

/-- The series of sine and cosine: alternating terms from t, which is y^i / i!. -/
def trigSeries (y2 : Nat) : Nat → Nat → Nat → Int
  | 0, _, _ => 0
  | n + 1, i, t => (t : Int) - trigSeries y2 n (i + 2) (fixMul t y2 / ((i + 1) * (i + 2)))

/-- The sine of a fixed-point y below 2. -/
def fixSin (y : Nat) : Int := trigSeries (fixMul y y) 100 1 y

/-- The cosine of a fixed-point y below 2. -/
def fixCos (y : Nat) : Int := trigSeries (fixMul y y) 100 0 (2 ^ fixBits)

/-- The series of the inverse hyperbolic tangent, from z^i. -/
def atanhSeries (z2 : Nat) : Nat → Nat → Nat → Nat
  | 0, _, _ => 0
  | n + 1, i, t => t / i + atanhSeries z2 n (i + 2) (fixMul t z2)

/-- A fixed-point result whose last bits are not certain, as a value that rounds as the exact one does. -/
def ofFix (neg : Bool) (v : Nat) (drop : Nat) : Num := between neg (v / 2 ^ drop) ((drop : Int) - fixBits)

/-- The magnitude m 2^e in fixed point. -/
def toFix (m : Nat) (e : Int) : Nat := if 0 ≤ e + fixBits then m * pow2 (e + fixBits) else m / pow2 (-(e + fixBits))

/-- FRCP. -/
def recipNum : Num → Num × FpFlags
  | .nan s => (.nan false, { nv := s })
  | .inf n => (.zero n, {})
  | .fin n m e =>
    if m = 0 then (.inf n, { dz := true })
    else
      let k := log2 m + 80
      (exactOr (2 ^ k % m == 0) n (2 ^ k / m) (-(k : Int) - e), {})

/-- The mantissa and exponent with an even exponent. -/
def evenExp (m : Nat) (e : Int) : Nat × Int := if e % 2 = 0 then (m, e) else (2 * m, e - 1)

/-- FSQRT. -/
def sqrtNum : Num → Num × FpFlags
  | .nan s => (.nan false, { nv := s })
  | .inf n => if n then (.nan false, { nv := true }) else (.inf false, {})
  | .fin n m e =>
    if m = 0 then (.zero n, {})
    else if n then (.nan false, { nv := true })
    else
      let (m, e) := evenExp m e
      let q := sqrtFloor (m * 2 ^ 160)
      (exactOr (q * q == m * 2 ^ 160) false q (e / 2 - 80), {})

/-- FRSQ. -/
def rsqrtNum : Num → Num × FpFlags
  | .nan s => (.nan false, { nv := s })
  | .inf n => if n then (.nan false, { nv := true }) else (.zero false, {})
  | .fin n m e =>
    if m = 0 then (.inf n, { dz := true })
    else if n then (.nan false, { nv := true })
    else
      let (m, e) := evenExp m e
      let q := sqrtFloor (2 ^ 320 / m)
      (exactOr (q * q * m == 2 ^ 320) false q (-(e / 2) - 160), {})

/-- FEX2. -/
def exp2Num : Num → Num × FpFlags
  | .nan s => (.nan false, { nv := s })
  | .inf n => (if n then .zero false else .inf false, {})
  | .fin n m e =>
    if m = 0 then (.fin false 1 0, {})
    else if 9 ≤ (log2 m : Int) + e then (between false 1 (if n then -1000 else 1000), {})
    else
      let x : Int := if n then -(toFix m e) else toFix m e
      let w := x / 2 ^ fixBits
      let f := (x % 2 ^ fixBits).toNat
      if f = 0 then (.fin false 1 w, {})
      else ((ofFix false (fixExp (fixMul f fixLn2)) 64).scale w, {})

/-- FLG2. -/
def log2Num : Num → Num × FpFlags
  | .nan s => (.nan false, { nv := s })
  | .inf n => if n then (.nan false, { nv := true }) else (.inf false, {})
  | .fin n m e =>
    if m = 0 then (.inf true, { dz := true })
    else if n then (.nan false, { nv := true })
    else
      let k := log2 m
      if m = 2 ^ k then (Num.ofInt (k + e), {})
      else
        let z := (m - 2 ^ k) * 2 ^ fixBits / (m + 2 ^ k)
        let l := 2 * atanhSeries (fixMul z z) 240 1 z * 2 ^ fixBits / fixLn2
        let v : Int := (k + e) * 2 ^ fixBits + l
        (ofFix (decide (v < 0)) v.natAbs 64, {})

/-- The quadrant and the remainder of a magnitude by π / 2. -/
def reduceAngle (x : Nat) : Nat × Nat := (2 * x / fixPi % 4, 2 * x % fixPi / 2)

/-- The sine of a fixed-point magnitude, quarter turns `turn` ahead. -/
def sinAt (x turn : Nat) : Int :=
  let (n, r) := reduceAngle x
  match (n + turn) % 4 with
  | 0 => fixSin r
  | 1 => fixCos r
  | 2 => -(fixSin r)
  | _ => -(fixCos r)

/-- FSIN. -/
def sinNum : Num → Num × FpFlags
  | .nan s => (.nan false, { nv := s })
  | .inf _ => (.nan false, { nv := true })
  | .fin n m e =>
    if m = 0 then (.zero n, {})
    else
      let v := sinAt (toFix m e) 0
      (ofFix (n != decide (v < 0)) v.natAbs 140, {})

/-- FCOS. -/
def cosNum : Num → Num × FpFlags
  | .nan s => (.nan false, { nv := s })
  | .inf _ => (.nan false, { nv := true })
  | .fin _ m e =>
    if m = 0 then (.fin false 1 0, {})
    else
      let v := sinAt (toFix m e) 1
      (ofFix (decide (v < 0)) v.natAbs 140, {})

/-- A fixed-point number squared n times. -/
def squares : Nat → Nat → Nat
  | 0, x => x
  | n + 1, x => squares n (fixMul x x)

/-- FTANH. -/
def tanhNum : Num → Num × FpFlags
  | .nan s => (.nan false, { nv := s })
  | .inf n => (.fin n 1 0, {})
  | .fin n m e =>
    if m = 0 then (.zero n, {})
    else if 7 ≤ (log2 m : Int) + e then (between n (2 ^ 100 - 1) (-100), {})
    else
      let y := squares 10 (fixExp (2 * toFix m e / 2 ^ 10))
      (ofFix n ((y - 2 ^ fixBits) * 2 ^ fixBits / (y + 2 ^ fixBits)) 64, {})

end Sys2Proof.Machine
end

