-- ==== Sys2Proof/Machine/Atomic.lean ====
section
/-!
DEFINITION. Machine/Atomic.lean: the atomics and their read-modify-write at the home or in a scratchpad bank (18 R382, R383;
03 R67, R81).
-/

namespace Sys2Proof.Machine

/-- The f32 operations of an atomic (18 R382): min, max, add; no flush, round to nearest even. -/
def atomFloat (op : Nat) (old d : Word) : Word :=
  let a := fmt32.decode false old.toNat
  let b := fmt32.decode false d.toNat
  let x := match op with
    | 8 => a.min b
    | 9 => a.max b
    | _ => a.add .rne b
  BitVec.ofNat 32 (fmt32.round .rne false x.1).1

/-- The new word of an atomic: operations 0 to 11 of 18 R382, and 12 for CAS.
DEDUCED, unsafe: notes/assumptions/14.md. -/
def atomNew (op : Nat) (old d new : Word) : Word := aluAtom atomFloat op old d new

/-- The value that a returning atomic pushes: sign-extended for the .i32 forms (18 R382). -/
def atomValue (op : Nat) (old : Word) (psn : Bool) : Val :=
  { v := if op = 4 ∨ op = 5 then old.signExtend 64 else old.setWidth 64, psn := psn }

/-- The new word of an atomic write: CAS takes it from its request. -/
def State.atomResult (s : State) (x : Write) (op : Nat) (old : Word) : Word :=
  atomNew op old x.data (match aget? s.reqs x.req with
    | some r => r.new
    | none => 0)

/-- The request of an atomic learns its outcome: a returning one holds the old word until the reply, another completes. -/
def State.atomDone (s : State) (id op : Nat) (old : Word) (psn : Bool) : State :=
  match aget? s.reqs id with
  | none => s
  | some x =>
    match x.kind with
    | .atom _ false => s.wrote id
    | .publish => s.wrote id
    | _ => { s with reqs := aset s.reqs id { x with vals := [atomValue op old psn] } }

/-- What follows a write that has been performed: its stamp reaches the other components, and the next entry of a log goes on. -/
def State.goOn (s : State) (id : Nat) (x : Write) (stamped : Bool) : State :=
  s.prepend ((if stamped then applyEvents id x.comp else []) ++ x.next)

/-- The read-modify-write of an atomic at the home (03 R67, R81): other copies are invalidated; a poisoned word is returned and
left; otherwise the word takes its new value and the write its stamp. -/
def State.atomAtHome (s : State) (id : Nat) : State :=
  match aget? s.mem.writes id with
  | none => s
  | some x =>
    match x.atom with
    | none => s
    | some op =>
      let missed := s.llcMisses x.kid x.w
      let (old, psn, s) := (s.homeOnly x.w).homeWord x.kid x.w x.cls
      let s := s.llcNear x.kid x.w x.cls x.fill missed
      if psn then ((s.modMem fun m => { m with writes := adel m.writes id }).atomDone x.req op old true).goOn id x false
      else
        let s := (s.homeStore x.kid x.w x.cls (s.atomResult x op old) 15 false).stampWrite id
        (s.atomDone x.req op old false).goOn id x true

/-- An atomic of a lane whose location is known; `flag` is its flag and `cmd` its word-burst command. -/
def State.startAtom (s b : State) (l : Lane) (flag cmd : Nat) (pol : Word) (a : Dword) (op : Nat) (ret : Bool) (d new : Word)
    (x : Loc) : State :=
  let s := s.unbackedRecord l.ref a [x]
  if x = Loc.none then (if ret then s.giveAll b l .none { psn := true } else s)
  else if !ret && s.isRollback l.ref && redLogged pol then
    s.logWrite l.ref { loc := x, data := d, mask := 15, psn := false, atom := some op, ref := l.ref }
  else
    let s := if ret ∨ isRelease (polOrder pol) ∨ polUse pol = 0 ∨ polUse pol = 2 then s.escapeBy l.ref else s
    let g := s.agentOf l.ref
    let (id, s) := s.addReq { ref := l.ref, flag := flag, kind := .atom op ret, core := g.core, kid := g.ctx, pol := pol,
                              va := a, off := 0, locs := [x], data := d, new := new, left := 1, cmd := cmd }
    let (es, s) := s.startWrite { s.writeBy l.ref id pol d 15 x with core := none, atom := some op }
    let s := (b.receivers l).foldl (fun s k => s.setFlag k.ref flag) s
    if ret then (s.giveAll b l .none { pend := some id }).emitAll l.ref (es ++ [event .memoryReply { id := id }])
    else s.emitAll l.ref es

/-- One lane of an atomic (18 R382): every operand is consumed and compared between a pair. -/
def atomLane (b : State) (op : Nat) (ret : Bool) (m : Fin 8) (fs : Bool) (sa sb : Src) (qc : Option (Fin 16)) (s : State)
    (l : Lane) : State :=
  let srcs := [sa, sb] ++ (qc.map Src.q).toList
  match readConsumed b l srcs with
  | .error x => s.excuse l x
  | .ok vs =>
    if b.pairDiffersBy (lowData 32) l srcs then s.excuse l (trap 0x12)
    else if b.shadowed l then popSrcs s l [sa, sb]
    else
      let a := argAt vs 0
      match s.reach l (l.pol m) a 4 true with
      | (.error x, s) => s.excuse l x
      | (.ok ls, s) =>
        (popSrcs s l [sa, sb]).startAtom b l (b.issue.flag fs) 0 (l.pol m) a op ret (loWord (argAt vs 1)) (loWord (argAt vs 2))
          (ls.headD .none)

/-- A returning atomic in every active lane. -/
def atomOp (op : Nat) (m : Fin 8) (fs : Bool) (sa sb : Src) (s : State) : State :=
  policyGate .atomRet m (fun s => (s.forLanes (atomLane s op true m fs sa sb none)).pushOff) s

/-- A non-returning atomic in every active lane. -/
def redOp (op : Nat) (m : Fin 8) (fs : Bool) (sa sb : Src) (s : State) : State :=
  policyGate (.atomNon op) m (fun s => s.forLanes (atomLane s op false m fs sa sb none)) s

/-- ATOM, operation 0. -/
def execAtomAdd (m : Fin 8) (fs : Bool) (sa sb : Src) (s : State) : Out := .next (atomOp 0 m fs sa sb s)

/-- ATOM, operation 1. -/
def execAtomAnd (m : Fin 8) (fs : Bool) (sa sb : Src) (s : State) : Out := .next (atomOp 1 m fs sa sb s)

/-- ATOM, operation 2. -/
def execAtomOr (m : Fin 8) (fs : Bool) (sa sb : Src) (s : State) : Out := .next (atomOp 2 m fs sa sb s)

/-- ATOM, operation 3. -/
def execAtomXor (m : Fin 8) (fs : Bool) (sa sb : Src) (s : State) : Out := .next (atomOp 3 m fs sa sb s)

/-- ATOM, operation 4. -/
def execAtomMinI32 (m : Fin 8) (fs : Bool) (sa sb : Src) (s : State) : Out := .next (atomOp 4 m fs sa sb s)

/-- ATOM, operation 5. -/
def execAtomMaxI32 (m : Fin 8) (fs : Bool) (sa sb : Src) (s : State) : Out := .next (atomOp 5 m fs sa sb s)

/-- ATOM, operation 6. -/
def execAtomMinW32 (m : Fin 8) (fs : Bool) (sa sb : Src) (s : State) : Out := .next (atomOp 6 m fs sa sb s)

/-- ATOM, operation 7. -/
def execAtomMaxW32 (m : Fin 8) (fs : Bool) (sa sb : Src) (s : State) : Out := .next (atomOp 7 m fs sa sb s)

/-- ATOM, operation 8. -/
def execAtomMinF32 (m : Fin 8) (fs : Bool) (sa sb : Src) (s : State) : Out := .next (atomOp 8 m fs sa sb s)

/-- ATOM, operation 9. -/
def execAtomMaxF32 (m : Fin 8) (fs : Bool) (sa sb : Src) (s : State) : Out := .next (atomOp 9 m fs sa sb s)

/-- ATOM, operation 10. -/
def execAtomAddF32 (m : Fin 8) (fs : Bool) (sa sb : Src) (s : State) : Out := .next (atomOp 10 m fs sa sb s)

/-- ATOM, operation 11. -/
def execAtomExch (m : Fin 8) (fs : Bool) (sa sb : Src) (s : State) : Out := .next (atomOp 11 m fs sa sb s)

/-- CAS: operation 12 here; the new word is q(QC). -/
def execCas (m : Fin 8) (fs : Bool) (sa sb : Src) (qc : Fin 8) (s : State) : Out :=
  .next (policyGate .atomRet m (fun s =>
    (s.forLanes (atomLane s 12 true m fs sa sb (some (qc.castLE (by decide))))).pushOff) s)

/-- RED, operation 0. -/
def execRedAdd (m : Fin 8) (fs : Bool) (sa sb : Src) (s : State) : Out := .next (redOp 0 m fs sa sb s)

/-- RED, operation 1. -/
def execRedAnd (m : Fin 8) (fs : Bool) (sa sb : Src) (s : State) : Out := .next (redOp 1 m fs sa sb s)

/-- RED, operation 2. -/
def execRedOr (m : Fin 8) (fs : Bool) (sa sb : Src) (s : State) : Out := .next (redOp 2 m fs sa sb s)

/-- RED, operation 3. -/
def execRedXor (m : Fin 8) (fs : Bool) (sa sb : Src) (s : State) : Out := .next (redOp 3 m fs sa sb s)

/-- RED, operation 4. -/
def execRedMinI32 (m : Fin 8) (fs : Bool) (sa sb : Src) (s : State) : Out := .next (redOp 4 m fs sa sb s)

/-- RED, operation 5. -/
def execRedMaxI32 (m : Fin 8) (fs : Bool) (sa sb : Src) (s : State) : Out := .next (redOp 5 m fs sa sb s)

/-- RED, operation 6. -/
def execRedMinW32 (m : Fin 8) (fs : Bool) (sa sb : Src) (s : State) : Out := .next (redOp 6 m fs sa sb s)

/-- RED, operation 7. -/
def execRedMaxW32 (m : Fin 8) (fs : Bool) (sa sb : Src) (s : State) : Out := .next (redOp 7 m fs sa sb s)

/-- RED, operation 8. -/
def execRedMinF32 (m : Fin 8) (fs : Bool) (sa sb : Src) (s : State) : Out := .next (redOp 8 m fs sa sb s)

/-- RED, operation 9. -/
def execRedMaxF32 (m : Fin 8) (fs : Bool) (sa sb : Src) (s : State) : Out := .next (redOp 9 m fs sa sb s)

/-- RED, operation 10. -/
def execRedAddF32 (m : Fin 8) (fs : Bool) (sa sb : Src) (s : State) : Out := .next (redOp 10 m fs sa sb s)

end Sys2Proof.Machine
end

