-- ==== Sys2Proof/Machine/Burst.lean ====
section
/-!
DEFINITION. Machine/Burst.lean: the word bursts WLD, WLDS, WST and WATOM (18 R379 to R381; 07 R148; 08 R168).
-/

namespace Sys2Proof.Machine

/-- The gate of a word burst (07 R148; 08 R168): every group of the bundle is whole, or the lanes of it that are present replay
the chain after a page fault. -/
def burstGate (k : State → State) (s : State) : State :=
  if (groupsOf s.issue.all).all fun p =>
      s.groupWhole p.1 p.2
        || (s.issue.everyone.filter fun l => refTeam l.ref = p.1 ∧ refGrp l.ref = p.2).all fun l => l.pre.replay
  then k s else s.excuseBundle (trap 0x02)

/-- One word of a command: its lane, address, location and data. -/
structure BurstWord where
  lane : Lane
  a    : Dword
  loc  : Loc
  data : Word := 0
  deriving Repr

/-- The active lanes of the groups of the bundle, group by group. -/
def State.actGroups (s : State) : List (List Lane) :=
  (groupsOf (s.issue.act.map (·.ref))).map fun p => s.issue.act.filter fun l => refTeam l.ref = p.1 ∧ refGrp l.ref = p.2

/-- The lowest active lane of a lane's group, which gives base and stride (18 R379).
DEDUCED, unsafe: notes/assumptions/34.md. -/
def State.baseLane (b : State) (l : Lane) : Option Lane :=
  b.issue.full.find? fun k => refTeam k.ref = refTeam l.ref && refGrp k.ref = refGrp l.ref

/-- The address of a lane of WLDS (18 R379, R380), with its poison: base + 4 l stride, l the visible lane. -/
def stridedAddr (b : State) (sa sb : Src) (l : Lane) : Except Excuse (Dword × Bool) :=
  match readAll b ((b.baseLane l).getD l) [sa, sb] .none with
  | .error x => .error x
  | .ok vs =>
    .ok (argAt vs 0 + 4 * BitVec.ofNat 64 (b.visLane l.ref) * (loWord (argAt vs 1)).signExtend 64, anyPsn vs)

/-- The address of a lane of WLD, with its poison. -/
def laneAddr (b : State) (sa : Src) (l : Lane) : Except Excuse (Dword × Bool) :=
  match readAll b l [sa] .none with
  | .error x => .error x
  | .ok vs => .ok (argAt vs 0, anyPsn vs)

/-- One lane of a burst read: its word joins the command; a poisoned address performs no access (18 R372). -/
def burstReadLane (b : State) (m : Fin 8) (addr : Lane → Except Excuse (Dword × Bool)) (p : State × List BurstWord) (l : Lane) :
    State × List BurstWord :=
  let (s, ws) := p
  if b.shadowed l then p
  else
    match addr l with
    | .error x => (s.excuse l x, ws)
    | .ok (_, true) => (s.giveAll b l .none { psn := true }, ws)
    | .ok (a, false) =>
      match s.reach l (l.pol m) a 4 false with
      | (.error x, s) => (s.excuse l x, ws)
      | (.ok ls, s) => (s, ws ++ [{ lane := l, a := a, loc := ls.headD .none }])

/-- The lanes that a command serves: those of its words, with their shadows. -/
def commandLanes (b : State) (ws : List BurstWord) : List Nat := ws.flatMap fun x => (b.receivers x.lane).map (·.ref)

/-- Enters a command (18 R380): its request, which ends when its parts are done.
DEDUCED, unsafe: notes/assumptions/34.md. -/
def State.startCommand (s b : State) (m : Fin 8) (fs : Bool) (write : Bool) (ws : List BurstWord) : Nat × State :=
  match ws with
  | [] => (0, s)
  | x :: _ =>
    let g := s.agentOf x.lane.ref
    s.addReq { ref := x.lane.ref, flag := b.issue.flag fs, kind := .burst write, core := g.core, kid := g.ctx, pol := x.lane.pol m,
               va := x.a, off := 0, locs := ws.map (·.loc), lanes := commandLanes b ws }

/-- Settles the number of parts of a command: without any it is over at once, else its lanes' flags are set. -/
def State.countCommand (s b : State) (fs : Bool) (id n : Nat) (ws : List BurstWord) : State :=
  if n = 0 then { s with reqs := adel s.reqs id }
  else
    let s := { s with reqs := match aget? s.reqs id with
                 | some x => aset s.reqs id { x with left := n }
                 | none => s.reqs }
    (commandLanes b ws).foldl (fun s r => s.setFlag r (b.issue.flag fs)) s

/-- The words of a command, each once, with the lanes that name it. Lanes of different words stay apart, unbacked ones too. -/
def sharers : List BurstWord → List (BurstWord × List BurstWord)
  | [] => []
  | x :: xs => (x, (x :: xs).filter fun y => y.loc == x.loc) :: ((sharers xs).filter fun p => p.1.loc != x.loc)

/-- Starts a burst read: each word is read once, each lane receives its own (18 R380). The lanes of one word await one reply. -/
def State.startBurstRead (s b : State) (m : Fin 8) (fs : Bool) (ws : List BurstWord) : State :=
  match ws with
  | [] => s
  | x :: _ =>
    let (id, s) := s.startCommand b m fs false ws
    let g := s.agentOf x.lane.ref
    let s := ws.foldl (fun s x => s.unbackedRecord x.lane.ref x.a [x.loc]) s
    let s := s.emitAll x.lane.ref (s.fetchEvents g id (x.lane.pol m) (devWords (ws.map (·.loc))).eraseDups)
    let s := (sharers ws).foldl (fun s p =>
      let x := p.1
      let (k, s) := s.addReq { ref := x.lane.ref, flag := 15, kind := .load 4 false, core := g.core, kid := g.ctx,
                               pol := x.lane.pol m, va := x.a, off := 0, locs := [x.loc], cmd := id,
                               lanes := commandLanes b p.2 }
      (p.2.foldl (fun s y => s.giveAll b y.lane .none { pend := some k }) s).emit x.lane.ref (event .memoryReply { id := k })) s
    s.countCommand b fs id (sharers ws).length ws

/-- A burst read of a bundle. -/
def burstRead (m : Fin 8) (fs : Bool) (addr : State → Lane → Except Excuse (Dword × Bool)) (s : State) : State :=
  s.actGroups.foldl (fun t ls =>
    let (t, ws) := ls.foldl (burstReadLane s m (addr s)) (t, [])
    t.startBurstRead s m fs ws) s

/-- WLD (18 R379). -/
def execWld (m : Fin 8) (fs : Bool) (sa : Src) (s : State) : Out :=
  .next (burstGate (policyGate .burstLoad m fun s =>
    (s.issue.act.foldl (fun t l => popSrcs t l [sa]) (burstRead m fs (fun b => laneAddr b sa) s)).pushOff) s)

/-- Pops the feed queues of base and stride in the lane that gives them. -/
def popBases (sa sb : Src) (b s : State) : State :=
  b.actGroups.foldl (fun s ls =>
    match ls.head?.bind fun l => b.baseLane l with
    | some k => if ls.any (fun l => l.ref == k.ref) then popSrcs s k [sa, sb] else s
    | none => s) s

/-- WLDS (18 R379). -/
def execWlds (m : Fin 8) (fs : Bool) (sa sb : Src) (s : State) : Out :=
  .next (burstGate (policyGate .burstLoad m fun s =>
    (popBases sa sb s (burstRead m fs (fun b => stridedAddr b sa sb) s)).pushOff) s)

/-- One lane of a burst write or atomic: address and data are consumed and compared between a pair (18 R380; 07 R143). -/
def burstWriteLane (b : State) (m : Fin 8) (sa sb : Src) (p : State × List BurstWord) (l : Lane) : State × List BurstWord :=
  let (s, ws) := p
  match readConsumed b l [sa, sb] with
  | .error x => (s.excuse l x, ws)
  | .ok vs =>
    if b.pairDiffersBy (lowData 32) l [sa, sb] then (s.excuse l (trap 0x12), ws)
    else if b.shadowed l then (popSrcs s l [sa, sb], ws)
    else
      match s.reach l (l.pol m) (argAt vs 0) 4 true with
      | (.error x, s) => (s.excuse l x, ws)
      | (.ok ls, s) =>
        (popSrcs s l [sa, sb],
         ws ++ [{ lane := l, a := argAt vs 0, loc := ls.headD .none, data := loWord (argAt vs 1) }])

/-- The words of a command part by part (03 R54); words outside device memory come last. -/
def byParts (ws : List BurstWord) : List BurstWord :=
  let dev (x : BurstWord) : Option Nat := match x.loc with
    | .dev w => some w
    | _ => none
  (partsOf (fun x => (dev x).getD 0) (ws.filter fun x => (dev x).isSome)).flatten ++ ws.filter fun x => (dev x).isNone

/-- The words of a WST that are written: of several lanes that name one word, the highest (18 R380). -/
def lastWriters : List BurstWord → List BurstWord
  | [] => []
  | x :: xs => if x.loc != Loc.none && xs.any (fun y => y.loc == x.loc) then lastWriters xs else x :: lastWriters xs

/-- Starts the writes of a WST. -/
def State.startBurstWrite (s b : State) (m : Fin 8) (fs : Bool) (ws : List BurstWord) : State :=
  match ws with
  | [] => s
  | _ =>
    let s := ws.foldl (fun s x => if storeEscapes (x.lane.pol m) then s.escapeBy x.lane.ref else s) s
    let s := ws.foldl (fun s x => s.unbackedRecord x.lane.ref x.a [x.loc]) s
    let (id, s) := s.startCommand b m fs true ws
    let (n, s) := (byParts (lastWriters ws)).foldl (fun (p : Nat × State) x =>
      let (k, s) := p.2.putWord x.lane.ref id (x.lane.pol m) x.data 15 x.loc
      (p.1 + k, s)) (0, s)
    s.countCommand b fs id n ws

/-- WST (18 R379). -/
def execWst (m : Fin 8) (fs : Bool) (sa sb : Src) (s : State) : Out :=
  .next (burstGate (policyGate .burstStore m fun s =>
    s.actGroups.foldl (fun t ls =>
      let (t, ws) := ls.foldl (burstWriteLane s m sa sb) (t, [])
      t.startBurstWrite s m fs ws) s) s)

/-- Starts the read-modify-writes of a WATOM, part by part and in increasing lane order (18 R380): the words that the LLC lacks are
filled first (03 R54, R55). -/
def State.startBurstAtom (s b : State) (m : Fin 8) (fs : Bool) (op : Nat) (ret : Bool) (ws : List BurstWord) : State :=
  match ws with
  | [] => s
  | x :: _ =>
    let (id, s) := s.startCommand b m fs false ws
    let g := s.agentOf x.lane.ref
    let s := s.emitAll x.lane.ref (partEvents g.ctx id (x.lane.pol m) (devWords (ws.map (·.loc))).eraseDups)
    let s := (byParts ws).foldl (fun s x => s.startAtom b x.lane 15 id (x.lane.pol m) x.a op ret x.data 0 x.loc) s
    s.countCommand b fs id (s.reqs.filter fun p => p.2.cmd = id).length ws

/-- WATOM (18 R379): operations 0 to 11 return the old word, 16 to 26 do not. -/
def execWatom (m : Fin 8) (fs : Bool) (sa sb : Src) (aop : Fin 32) (s : State) : Out :=
  let ret := decide (aop.val < 16)
  let op := aop.val % 16
  .next (burstGate (policyGate (if ret then .atomRet else .atomNon op) m fun s =>
    let t := s.actGroups.foldl (fun t ls =>
      let (t, ws) := ls.foldl (burstWriteLane s m sa sb) (t, [])
      t.startBurstAtom s m fs op ret ws) s
    if ret then t.pushOff else t) s)

end Sys2Proof.Machine
end

