-- ==== Sys2Proof/Machine/MemCtl.lean ====
section
/-!
DEFINITION. Machine/MemCtl.lean: FENCE, MPOL, CCTL and MCST (18 R378, R384 to R386; 09 R188, R204; 02 R49).
-/

namespace Sys2Proof.Machine

/-! ## Scopes (09 R189; 27 R458) -/

/-- A party to an event: a thread, for its engine operations too (09 R201); a Plinth engine; the host; another package. -/
inductive Party where
  | thread (r : Nat)
  | plinth
  | host
  | package (p : Nat)
  deriving DecidableEq, Repr

/-- A thread lies in the scope instance of another (09 R189): of its group, team, cohort and die, and of the package. -/
def State.inInstance (s : State) (scope r q : Nat) : Bool :=
  let team := refKind r != RefKind.steward && refKind q != RefKind.steward
  let t := s.team (refTeam r)
  let v := s.team (refTeam q)
  match scope with
  | 0 => r == q || (refKind r == RefKind.lane && refKind q == RefKind.lane && refTeam r == refTeam q && refGrp r == refGrp q)
  | 1 => r == q || (team && refTeam r == refTeam q)
  | 2 => r == q || (team && t.launch == v.launch && t.coh == v.coh)
  | 3 => r == q || (decide (s.compOf r < 4) && s.compOf r == s.compOf q)
  | _ => true

/-- A party lies in the scope instance of another at a scope. -/
def State.inScope (s : State) (scope : Nat) (a b : Party) : Bool :=
  match a, b with
  | .thread r, .thread q => s.inInstance scope r q
  | .host, _ => decide (5 ≤ scope)
  | _, .host => decide (5 ≤ scope)
  | .package _, _ => decide (5 ≤ scope)
  | _, .package _ => decide (5 ≤ scope)
  | _, _ => decide (4 ≤ scope)

/-- Two events of parties are mutually scoped: each lies in the other's scope instance. -/
def State.mutuallyScoped (s : State) (a : Party) (sa : Nat) (b : Party) (sb : Nat) : Bool := s.inScope sa a b && s.inScope sb b a

/-- The narrowest mutual scope of two parties (27 R458). -/
def State.mutualScope (s : State) (a b : Party) : Nat := ((List.range 6).find? fun k => s.mutuallyScoped a k b k).getD 5

/-! ## FENCE -/

/-- The check of a fence's policy word (09 R188): FILL, T1, T2 and SPACE are ignored. -/
def fenceOk (p : Word) : Bool := [2, 3, 4, 5].contains (polOrder p) && polScope p ≤ 5 && polUse p == 0

/-- One lane of FENCE (18 R384): a fence with a release part publishes the log; its request completes when the thread's earlier
accesses have.
DEDUCED, unsafe: notes/assumptions/44.md. -/
def fenceLane (b : State) (m : Fin 8) (fs : Bool) (s : State) (l : Lane) : State :=
  let pol := l.pol m
  let s := if isRelease (polOrder pol) then s.escapeBy l.ref else s
  let g := s.agentOf l.ref
  let (id, s) := s.addReq { ref := l.ref, flag := b.issue.flag fs, kind := .fence, core := g.core, kid := g.ctx, pol := pol,
                            va := 0, off := 0, locs := [] }
  (s.setFlag l.ref (b.issue.flag fs)).emit l.ref (event .memoryReply { id := id })

/-- FENCE. -/
def execFence (m : Fin 8) (fs : Bool) (s : State) : Out :=
  .next (policyGateBy fenceOk m (fun s => s.forLanes (fenceLane s m fs)) s)

/-! ## MPOL -/

/-- One lane of MPOL (18 R378). -/
def mpolLane (m : Fin 8) (sa : Src) (s : State) (l : Lane) : State :=
  match readAll s l [sa] .none with
  | .error x => s.excuse l x
  | .ok vs =>
    (popSrcs s l [sa]).modThread l.ref fun t =>
      { t with m := t.m.set m (if anyPsn vs then 0xFFFFFFFF else loWord (argAt vs 0)) }

/-- MPOL. -/
def execMpol (m : Fin 8) (_fs : Bool) (sa : Src) (s : State) : Out := .next (s.forLanes (mpolLane m sa))

/-! ## CCTL -/

/-- Writes back a unit of a die's L2 and keeps it shared (18 R385, clean). -/
def State.l2Clean (s : State) (die u : Nat) : State :=
  match aget? s.mem.l2 (l2Key die u) with
  | none => s
  | some x =>
    x.words.foldl (fun s p =>
      if p.2.st = .shared then s
      else
        let w := u * 64 + p.1
        let s := (s.l2WriteBack die w).modDir w fun e => { e with m := false }
        let (d, psn, s) := s.homeWord x.kid w x.cls
        s.modMem fun m => { m with l2 := amod x m.l2 (l2Key die u) fun y =>
          { y with words := aset y.words p.1 (cword w d psn .shared 15) } }) s

/-- Sets the class of a unit in an agent's L1 and L2 and in the LLC (18 R385, demote and reclass). A steward has no L1. -/
def State.setClass (s : State) (g : Agent) (kid u : Nat) (cls : EvClass) : State :=
  let put (m : AMap CUnit) (k : Nat) : AMap CUnit :=
    match aget? m k with
    | some x => if x.kid = kid then aset m k { x with cls := cls } else m
    | none => m
  s.modMem fun m => { m with l1 := if refKind g.ref = .steward then m.l1 else put m.l1 (l1Key g.core u)
                             l2 := put m.l2 (l2Key g.comp u), llc := put m.llc u }

/-- The operation of CCTL on a unit under a key id; `cls` is the class of its policy word. -/
def State.cctlUnit (s : State) (g : Agent) (kid op : Nat) (cls : EvClass) (u : Nat) : State :=
  let held : Bool := match aget? s.mem.l2 (l2Key g.comp u) with
    | some x => x.kid == kid
    | none => false
  match op with
  | 0 => if held then s.l2Clean g.comp u else s
  | 1 => if held then (s.l2Clean g.comp u).l2Evict g.comp u else s
  | 2 => s.setClass g kid u .stream
  | _ => s.setClass g kid u cls

/-- One lane of CCTL (18 R385). It does nothing for a poisoned, non-canonical or misaligned address, in a scratchpad, or where
a walk would fault.
DEDUCED, unsafe: notes/assumptions/30.md. -/
def cctlLane (b : State) (m : Fin 8) (sa sb : Src) (s : State) (l : Lane) : State :=
  match readAll b l [sa, sb] .none with
  | .error x => s.excuse l x
  | .ok vs =>
    let s := popSrcs s l [sa, sb]
    let pol := l.pol m
    if b.shadowed l ∨ anyPsn vs ∨ polSpace pol = 1 ∨ polSpace pol = 2 then s
    else
      match s.resolve (s.agentOf l.ref) pol (argAt vs 0) 4 .read with
      | (.error x, _) => if x.unready then s.excuse l x else s
      | (.ok ls, s) =>
        let g := s.agentOf l.ref
        let op := (argAt vs 1).toNat % 4
        match ls.headD .none with
        | .dev w => s.cctlUnit g g.ctx op (classOf pol (w / 64 * 64)) (w / 64)
        | .host w => s.cctlUnit g 0 op (classOf pol (w / 64 * 64)) (hostWord w / 64)
        | _ => s

/-- CCTL: cache control accepts ORDER plain only (08 R171).
DEDUCED, unsafe: notes/assumptions/30.md. -/
def execCctl (m : Fin 8) (_fs : Bool) (sa sb : Src) (s : State) : Out :=
  .next (policyGate .prefetch m (fun s => s.forLanes (cctlLane s m sa sb)) s)

/-! ## MCST -/

/-- Starts the write of one replica, stamped by the die that applies it (09 R204); an unbacked word is discarded. -/
def State.putReplica (s : State) (r req die : Nat) (pol d : Word) (pa : Nat) : Nat × State :=
  match s.locOf pa false with
  | .dev w =>
    let g := s.agentOf r
    let (es, s) := s.startWrite { comp := die, core := if die = s.compOf r then s.coreFor r else none, kid := g.ctx, w := w,
                                  data := d, mask := 15, psn := false, req := req, cls := classOf pol w }
    (1, s.emitAll r es)
  | _ => (0, s)

/-- Starts the MCW of one peer, whose DONE the request awaits (02 R49; 18 R386). -/
def State.putMcw (s : State) (r req : Nat) (peer d : Word) (off : Nat) : State :=
  let pkg := bitsOf peer 27 18
  let w := (bitsOf peer 17 0 * 2 ^ 21 + off) / 4
  let m : FabMsg := { opc := 0x07, srcComp := s.compOf r, srcPkg := s.arm.pkgid, dstPkg := pkg, mask := maskOf [w % 64],
                      unit := pkg * 2 ^ 31 + w / 64, words := [d] }
  let (es, s) := s.startWrite { comp := s.compOf r, core := none, kid := s.ctxOf r, w := 0, data := d, mask := 15, psn := false,
                                req := req, out := some .none, mcw := some m }
  s.emitAll r es

/-- The replica entry that an MCST reaches: of a generic address outside host memory. -/
def State.mcstEntry (s : State) (r : Nat) (pol : Word) (a : Dword) (ls : List Loc) : Option Replica :=
  match ls.headD .none with
  | .dev _ => if polSpace pol = 0 then (s.ctx (s.ctxOf r)).replicaOf (a.toNat % 2 ^ 57) else none
  | .none => if polSpace pol = 0 then (s.ctx (s.ctxOf r)).replicaOf (a.toNat % 2 ^ 57) else none
  | _ => none

/-- An MCST inside a replica entry: a write of each replica of the package and an MCW to each used peer (18 R386). -/
def State.startMcst (s b : State) (l : Lane) (fs : Bool) (pol : Word) (a : Dword) (d : Word) (x : Replica) : State :=
  let g := s.agentOf l.ref
  let off := a.toNat % 2 ^ 57 - x.va.toNat * 2 ^ 21
  let ls := (List.range 4).map fun i => s.locOf (aget 0 x.pa i * 2 ^ 21 + off) false
  let (id, s) := s.addReq { ref := l.ref, flag := b.issue.flag fs, kind := .store, core := g.core, kid := g.ctx, pol := pol,
                            va := a, off := 0, locs := ls, noted := ls.contains .none }
  let s := if ls.contains .none then s.unbackedRecord l.ref a [.none] else s
  let (n, s) := (List.range 4).foldl (fun (p : Nat × State) i =>
    let (k, s) := p.2.putReplica l.ref id i pol d (aget 0 x.pa i * 2 ^ 21 + off)
    (p.1 + k, s)) (0, s)
  let (n, s) := (List.range 3).foldl (fun (p : Nat × State) j =>
    let e := aget 0 x.peer j
    if e.getLsbD 31 then (p.1 + 1, p.2.putMcw l.ref id e d off) else p) (n, s)
  if n = 0 then { s with reqs := adel s.reqs id }
  else
    let s := { s with reqs := match aget? s.reqs id with
                 | some y => aset s.reqs id { y with left := n }
                 | none => s.reqs }
    s.flagAll b l fs

/-- One lane of MCST (18 R386). -/
def mcstLane (b : State) (m : Fin 8) (fs : Bool) (sa sb : Src) (s : State) (l : Lane) : State :=
  match readConsumed b l [sa, sb] with
  | .error x => s.excuse l x
  | .ok vs =>
    if b.pairDiffersBy (lowData 32) l [sa, sb] then s.excuse l (trap 0x12)
    else if b.shadowed l then popSrcs s l [sa, sb]
    else
      let a := argAt vs 0
      match s.reach l (l.pol m) a 4 true with
      | (.error x, s) => s.excuse l x
      | (.ok ls, s) =>
        let s := (popSrcs s l [sa, sb]).escapeBy l.ref
        match s.mcstEntry l.ref (l.pol m) a ls with
        | some x => s.startMcst b l fs (l.pol m) a (loWord (argAt vs 1)) x
        | none => s.startStore b l fs (l.pol m) a 4 (loWord (argAt vs 1)).toNat ls

/-- MCST. -/
def execMcst (m : Fin 8) (fs : Bool) (sa sb : Src) (s : State) : Out :=
  .next (policyGate .multicast m (fun s => s.forLanes (mcstLane s m fs sa sb)) s)

end Sys2Proof.Machine
end

