-- ==== Sys2Proof/Machine/Stack.lean ====
section
/-!
DEFINITION. Machine/Stack.lean: the memory side below the home: parts and burst cycles, row buffers and their predictor, row swap,
scrub, memory training and the Plinth's registers that a read changes (03 R53 to R85).
-/

namespace Sys2Proof.Machine

/-! ## Places of words -/

/-- The map entry that names a physical stack. -/
def mapEntryOf (smap : Word) (p : Nat) : Nat := ((List.range 8).find? fun i => smapEntry smap i = p).getD 0

/-- The logical package channels of a physical channel. -/
def logChannels (span : Nat) (smap : Word) (ch : Nat) : List Nat :=
  (List.range (2 ^ (3 - span))).map fun j => (j * 2 ^ span + mapEntryOf smap (ch / 32)) * 32 + ch % 32

/-- The word at a package channel, bank, logical row, slice and column: R52 read backwards. -/
def wordOf (chan bank row slice col : Nat) : Nat :=
  let mid := col / 16 + bank % 2 * 128
  row * 2 ^ 28 + bank * 2 ^ 23 + col / 16 * 2 ^ 16 + (chan ^^^ mid) * 256 + col % 16 * 16 + (slice ^^^ col % 16)

/-- The logical word at a physical channel, bank, row of the stack, slice and column (03 R52, R53). -/
def stackWord (span : Nat) (smap : Word) (ch bank row slice col : Nat) : Nat :=
  let s := row / 2 ^ (6 + span) * 2 ^ span + mapEntryOf smap (ch / 32)
  wordOf (s * 32 + ch % 32) bank (row % 2 ^ (6 + span)) slice col

/-- The n-th word of a physical channel in increasing W (03 R74). -/
def patrolWord (span : Nat) (smap : Word) (ch n : Nat) : Nat :=
  let cs := logChannels span smap ch
  let hi := n / (256 * cs.length)
  let mids := (cs.map fun c => c ^^^ hi % 256).mergeSort (· ≤ ·)
  hi * 65536 + mids.getD (n / 256 % cs.length) 0 * 256 + n % 256

/-- The words of a channel. -/
def channelWords : Nat := 2 ^ 29

/-! ## Parts and cycles (03 R54 to R56) -/

/-- One cycle of R55: the words taken, with at most one for each slice, and those that remain. -/
def takeCycle : List Nat → List Nat → List Nat × List Nat
  | _, [] => ([], [])
  | used, w :: ws =>
    if used.contains (sliceOf w) then
      let (c, r) := takeCycle used ws
      (c, w :: r)
    else
      let (c, r) := takeCycle (sliceOf w :: used) ws
      (w :: c, r)

/-- The cycles of a part; `n` bounds them by its words. -/
def formCycles : Nat → List Nat → List (List Nat)
  | 0, _ => []
  | _, [] => []
  | n + 1, ws =>
    let (c, r) := takeCycle [] ws
    c :: formCycles n r

/-- MEMORY_PART (03 R54): the words of a part are looked up in the LLC; those that miss are read in burst cycles. -/
def execMemoryPart (s : State) : Out :=
  let e := s.ev
  if (s.keyOf e.kid).isNone then .next s
  else
    let miss := (e.words.filter fun w => backed s.mem.span w && (s.llcWord e.kid w).isNone).eraseDups
    .next (s.prepend ((formCycles miss.length miss).map fun c =>
      event .burstCycleIssue { id := e.id, ch := e.ch, kid := e.kid, val := e.val, words := c }))

/-- BURST_CYCLE_ISSUE (03 R56, R62, R66, R69, R71; 05 R107): each word's row is accessed, and the word is read through the decoder
into the LLC with the class that the command's policy word (`val`) gives it, unless it has come there in between. -/
def execBurstCycleIssue (s : State) : Out :=
  let e := s.ev
  .next (if (s.keyOf e.kid).isNone then s
    else (e.words.filter fun w => backed s.mem.span w).foldl (fun s w => s.llcFill e.kid w (classOf e.val w)) s)

/-- ROW_IDLE_CLOSE (03 R70): an open row of a bank of a slice is closed. -/
def execRowIdleClose (s : State) : Out :=
  .next (s.modMem fun m => { m with rows := adel m.rows (sliceKey s.ev.ch s.ev.slice s.ev.bank) })

/-- REFRESH (03 R70): the refreshed bank's rows are closed in every slice. -/
def execRefresh (s : State) : Out :=
  .next (s.modMem fun m =>
    { m with rows := (List.range 16).foldl (fun r i => adel r (sliceKey s.ev.ch i s.ev.bank)) m.rows })

/-- REFRESH_WINDOW (03 R71): the activation tables of a stack clear. -/
def execRefreshWindow (s : State) : Out :=
  .next (s.modMem fun m => { m with acts := afilter m.acts fun k _ => k / 32 / 32 != s.ev.stack })

/-! ## Correction history (03 R76, R77) -/

/-- What a patrol or checkpoint read of a word does to the history: whether the word is found lasting, and the history. -/
def historyStep (h : List Correction) (w : Nat) (corrected : Bool) : Bool × Bool × List Correction :=
  match h.find? fun x => x.w == w with
  | some x =>
    let y : Correction := { w := w, count := x.count + (if corrected then 1 else 0), pass := x.pass + 1 }
    let rest := h.filter fun z => z.w != w
    if 2 ≤ y.count then (true, false, rest)
    else if 8 ≤ y.pass then (false, false, rest)
    else (false, false, rest ++ [y])
  | none =>
    if !corrected then (false, false, h)
    else if h.length < 4096 then (false, false, h ++ [{ w := w, count := 1, pass := 1 }])
    else (false, true, h)

/-- Updates the history of a word's stack; a lasting word enters the fault queue. -/
def State.noteRead (s : State) (w : Nat) (corrected : Bool) : State :=
  let p := s.mem.stackOf w
  let (lasting, lost, h) := historyStep (s.mem.stack p).hist w corrected
  let s := s.modMem fun m => m.modStack p fun k => { k with hist := h, ovf := k.ovf || lost }
  if lasting then s.plinthFault 0 w else s

/-- Whether a stored word needs a correction. -/
def MemSys.correctable (m : MemSys) (w : Nat) : Bool :=
  match judge (sigOf w) (m.storedData w) (m.storedCheck w) with
  | .fixed _ => true
  | _ => false

/-- A patrol or checkpoint read of a word (03 R74 to R77): the stored word, its poison, and the state, in which a corrected word
waits in a scrub holding entry. -/
def State.patrolRead (s : State) (w : Nat) : Word × Bool × State :=
  let corrected := s.mem.correctable w
  let (d, psn, s) := s.readStored w
  if corrected then
    (d, psn, (s.modMem fun m => { m with holds := aset m.holds w d }).prepend [event .scrubWriteback { w := w }])
  else (d, psn, s.noteRead w false)

/-- SCRUB_WRITEBACK (03 R76): the corrected word is written back and the correction counts, unless a demand write has
cancelled it. -/
def execScrubWriteback (s : State) : Out :=
  let w := s.ev.w
  match aget? s.mem.holds w with
  | none => .next s
  | some d =>
    .next ((s.modMem fun m => { (m.touch w).store w d (encodeCheck (sigOf w) d) with holds := adel m.holds w }).noteRead w true)

/-- The place of a page of a stack. -/
def pageKey (p w : Nat) : Nat := p * 2 ^ 23 + w / 16384

/-- Advances a channel's patrol to a number of a word; the end of the channel's words ends a pass (03 R74). -/
def MemSys.patrolTo (m : MemSys) (ch n : Nat) : MemSys :=
  if n < channelWords then { m with patrol := aset m.patrol ch n }
  else { (m.modStack (ch / 32) fun k => { k with passes := k.passes + 1 }) with patrol := adel m.patrol ch }

/-- A stack is one of those that the map names (03 R53): the others take no traffic. -/
def MemSys.mapped (m : MemSys) (p : Nat) : Bool := mapEntryOf m.smap p < 2 ^ m.span

/-- The number of a channel's first word after a page: the page's words come in runs of 256. -/
def MemSys.pastPage (m : MemSys) (ch n : Nat) : Nat :=
  let page (k : Nat) : Nat := patrolWord m.span m.smap ch k / 16384
  (((List.range 64).map fun i => (n / 256 + 1 + i) * 256).find? fun k => page k != page n).getD (n / 256 * 256 + 256)

/-- PATROL_BURST (03 R74, R75): up to 16 words of a channel of a mapped stack are read; a page that checkpoint reads have read is
skipped.
DEDUCED, safe: notes/assumptions/109.md. -/
def execPatrolBurst (s : State) : Out :=
  let ch := s.ev.ch
  if !(s.mem.stack (ch / 32)).en || !s.mem.mapped (ch / 32) then .next s
  else
    let n := aget 0 s.mem.patrol ch
    let w := patrolWord s.mem.span s.mem.smap ch n
    if aget false s.mem.skips (pageKey (ch / 32) w) then
      .next (s.modMem fun m => { m with skips := adel m.skips (pageKey (ch / 32) w) }.patrolTo ch (m.pastPage ch n))
    else
      let s := (List.range 16).foldl (fun s i =>
        (s.patrolRead (patrolWord s.mem.span s.mem.smap ch (n + i))).2.2) s
      .next (s.modMem fun m => { m with ckpt := adel m.ckpt (pageKey (ch / 32) w) }.patrolTo ch (n + 16))

/-! ## Row swap (03 R72, R73) -/

/-- Words pass into the row-copy buffer: corrected if they can be, else as the poison code.
DEDUCED, safe: notes/assumptions/38.md. -/
def State.swapRead (s : State) : List Nat → List (Nat × Word × Bool) × State
  | [] => ([], s)
  | w :: ws =>
    let corrected := s.mem.correctable w
    let (d, psn, s) := s.readStored w
    let (r, s) := (s.noteRead w corrected).swapRead ws
    ((w, d, psn) :: r, s)

/-- Words of the row-copy buffer are written to a physical row of a slice.
DEDUCED, safe: notes/assumptions/38.md. -/
def State.swapWrite (s : State) (ch bank slice row : Nat) (xs : List (Nat × Word × Bool)) : State :=
  xs.foldl (fun s x => s.modMem fun m =>
    if x.2.2 then (m.accessRow ch slice bank row).store x.1 0 (poisonCheck (sigOf x.1))
    else (m.accessRow ch slice bank row).store x.1 x.2.1 (encodeCheck (sigOf x.1) x.2.1)) s

/-- The logical row that the indirection table of a bank places in a row. -/
def MemSys.logicalRow (m : MemSys) (ch bank row : Nat) : Nat :=
  ((List.range 512).find? fun r => aget r m.indir (rowKey ch bank r) = row).getD row

/-- The words of a physical row of one slice. -/
def MemSys.rowWords (m : MemSys) (ch bank row slice : Nat) : List Nat :=
  let r := m.logicalRow ch bank row
  (List.range 2048).map fun c => stackWord m.span m.smap ch bank r slice c

/-- Steps 1 and 2 of a swap in a slice (03 R72): both rows are read into the buffer, and each is written to the other's place.
DEDUCED, safe: notes/assumptions/38.md. -/
def State.swapSlice (s : State) (ch : Nat) (x : Swap) : State :=
  let (ps, s) := s.swapRead (s.mem.rowWords ch x.bank x.p x.count)
  let (qs, s) := s.swapRead (s.mem.rowWords ch x.bank x.q x.count)
  (s.swapWrite ch x.bank x.count x.q ps).swapWrite ch x.bank x.count x.p qs

/-- Sets an entry of an indirection table; identity is what a missing entry means. -/
def MemSys.setIndir (m : MemSys) (ch bank r row : Nat) : MemSys :=
  { m with indir := if r = row then adel m.indir (rowKey ch bank r) else aset m.indir (rowKey ch bank r) row }

/-- Starts the oldest queued swap of a channel: Q is a row drawn from the bank's other 511. -/
def State.swapStart (s : State) (ch : Nat) : State :=
  match aget [] s.mem.swapq ch with
  | [] => s
  | (bank, p) :: rest =>
    let (k, s) := s.takeDraw
    let d := Config.randomDraw k % 511
    let q := if d < p then d else d + 1
    s.modMem fun m => { m with swapq := if rest.isEmpty then adel m.swapq ch else aset m.swapq ch rest,
                               swaps := aset m.swaps ch { bank := bank, p := p, q := q, count := 0 } }

/-- ROW_SWAP: a queued swap starts, or the running one moves the rows of its next slice; after slice 15 the indirection entries
are exchanged. -/
def execRowSwap (s : State) : Out :=
  let ch := s.ev.ch
  let s := if ahas s.mem.swaps ch then s else s.swapStart ch
  match aget? s.mem.swaps ch with
  | none => .next s
  | some x =>
    let a := s.mem.logicalRow ch x.bank x.p
    let b := s.mem.logicalRow ch x.bank x.q
    let s := s.swapSlice ch x
    if x.count < 15 then
      .next ((s.modMem fun m => { m with swaps := aset m.swaps ch { x with count := x.count + 1 } }).prepend
        [event .rowSwap { ch := ch }])
    else
      .next (s.modMem fun m =>
        ({ m with swaps := adel m.swaps ch }.setIndir ch x.bank a x.q).setIndir ch x.bank b x.p)

/-! ## Memory training (03 R83, R84) -/

/-- The largest k with 2^k at most a number. -/
def spanOf (n : Nat) : Nat := if 8 ≤ n then 3 else if 4 ≤ n then 2 else if 2 ≤ n then 1 else 0

/-- A permutation of the stacks as the map register holds it. -/
def packMap (ps : List Nat) : Word :=
  BitVec.ofNat 32 ((List.range 8).foldl (fun a i => a + ps.getD i 0 * 2 ^ (3 * i)) 0)

/-- The stack map (03 R53): the lowest live stacks, the other live ones, those not live. -/
def MemSys.buildMap (m : MemSys) : MemSys :=
  let live := setBits 8 m.live.toNat
  let dead := (List.range 8).filter fun p => !m.live.getLsbD p
  { m with span := spanOf live.length, smap := packMap (live ++ dead) }

/-- A failed part of a step of this start (04 R101). -/
def State.stepFailed (s : State) (step part : Nat) : State :=
  s.modHub fun h => { h with steps := amod {} h.steps step fun e => { e with result := 2, fail := setBit e.fail part true } }

/-- A new map puts a word into another cell. -/
def MemSys.moved (m n : MemSys) (w : Nat) : Bool :=
  physChannel m.span m.smap w != physChannel n.span n.smap w || physRow m.span w != physRow n.span w

/-- The stack map is built anew (03 R53, R84). A word that another cell backs from then on has what phase 6 of training writes there.
DESIGN CHOICE, unsafe: notes/assumptions/85.md. -/
def MemSys.remap (m : MemSys) : MemSys :=
  let n := m.buildMap
  { n with data := n.data.filter fun c => !m.moved n (c.1 / 4), chk := afilter n.chk fun w _ => !m.moved n w }

/-- A stack fails training: it leaves the map of this start, and the start record says so (03 R84). -/
def State.stackFailed (s : State) (p : Nat) : State :=
  (s.modMem fun m => { m with live := setBit m.live p false }.remap).stepFailed 10 p

/-- A write of MTR_CTL that starts a phase. -/
def State.startPhase (s : State) (k : Nat) : State :=
  s.modMem fun m => m.modStack s.ev.stack fun x => { x with tset := s.ev.val.getLsbD 5, phase := k, run := k, busy := true }

/-- MTR_CALIBRATION: phase 1 of R83. -/
def execMtrCalibration (s : State) : Out := .next (s.startPhase 1)

/-- MTR_CA_TRAINING: phase 2. -/
def execMtrCaTraining (s : State) : Out := .next (s.startPhase 2)

/-- MTR_READ_DESKEW: phase 3. -/
def execMtrReadDeskew (s : State) : Out := .next (s.startPhase 3)

/-- MTR_WRITE_DESKEW: phase 4. -/
def execMtrWriteDeskew (s : State) : Out := .next (s.startPhase 4)

/-- MTR_PATTERN_TEST: phase 5. -/
def execMtrPatternTest (s : State) : Out := .next (s.startPhase 5)

/-- Phase 6 of a stack: every stored word is zero with its signature, the indirection tables are identity, the counters 0b10, and
skip bits and history are clear. With `keep` the words, and the tables that say where they stand, are left: a start from whose Casts
contexts resume (01 R22).
DESIGN CHOICE, unsafe: notes/assumptions/85.md. -/
def MemSys.initialise (m : MemSys) (p : Nat) (keep : Bool) : MemSys :=
  let mine (w : Nat) : Bool := m.stackOf w == p && !keep
  { (m.modStack p fun k => { k with hist := [] }) with
    data := m.data.filter fun c => !mine (c.1 / 4)
    chk := afilter m.chk fun w _ => !mine w
    indir := afilter m.indir fun k _ => k / 512 / 32 / 32 != p || keep
    preds := afilter m.preds fun k _ => k / 64 / 32 / 32 != p
    rows := afilter m.rows fun k _ => k / 32 / 16 / 32 != p
    skips := afilter m.skips fun k _ => k / 2 ^ 23 != p
    ckpt := afilter m.ckpt fun k _ => k / 2 ^ 23 != p }

/-- MTR_INITIALISE: phase 6.
DESIGN CHOICE, unsafe: notes/assumptions/85.md. -/
def execMtrInitialise (s : State) : Out := .next ((s.startPhase 6).modMem fun m => m.initialise s.ev.stack s.power.resume)

/-- The write of MTR_CTL that starts a phase of a stack, by number (03 R83). -/
def phaseInstr (k : Nat) : Option Instr :=
  match k with
  | 1 => some .mtrCalibration
  | 2 => some .mtrCaTraining
  | 3 => some .mtrReadDeskew
  | 4 => some .mtrWriteDeskew
  | 5 => some .mtrPatternTest
  | 6 => some .mtrInitialise
  | _ => none

/-- In step 10 of a start the Plinth steward starts the next phase (03 R83; 04 R100). -/
def State.nextPhase (s : State) (p k : Nat) (tset : Bool) : State :=
  if s.hub.starting ∧ s.hub.step = 10 then
    match phaseInstr (k + 1) with
    | some i => s.prepend [event i { stack := p, val := if tset then 0x20 else 0 }]
    | none => s
  else s

/-- MTR_PHASE_END: a running phase ends; `val` names the channels that failed it. -/
def execMtrPhaseEnd (s : State) : Out :=
  let p := s.ev.stack
  let k := s.mem.stack p
  if !k.busy then .next s
  else
    let bad := s.ev.val != 0
    let s := s.modMem fun m => m.modStack p fun k =>
      { k with phase := 0, run := 0, busy := false, fail := bad, lastph := if bad then k.lastph else k.run, failch := s.ev.val }
    .next (if bad then s.stackFailed p else s.nextPhase p k.run k.tset)

/-- MTR_PHASE_LIMIT: a running phase reaches its limit; the stack has failed. FAILCH keeps the channels that it shows.
DESIGN CHOICE, unsafe: notes/assumptions/127.md. -/
def execMtrPhaseLimit (s : State) : Out :=
  let p := s.ev.stack
  if !(s.mem.stack p).busy then .next s
  else .next ((s.modMem fun m => m.modStack p fun k => { k with phase := 0, run := 0, busy := false, fail := true }).stackFailed p)

/-! ## Registers that a read changes (03 R85) -/

/-- What a host read of a register returns. -/
def State.readBack (s : State) (d : Word) : State := s.modHub fun h => { h with rdata := d }

/-- PLN_ERR_READ. -/
def execPlnErrRead (s : State) : Out :=
  let k := s.mem.stack s.ev.stack
  .next ((s.readBack (BitVec.ofNat 32 (k.ue * 65536 + k.ce))).modMem fun m =>
    m.modStack s.ev.stack fun k => { k with ue := 0, ce := 0 })

/-- PLN_FQ_HI_READ: pops the oldest entry and latches its low bits. -/
def execPlnFqHiRead (s : State) : Out :=
  let k := s.mem.stack s.ev.stack
  let o := if k.ovf then 2 ^ 30 else 0
  match k.fq with
  | [] =>
    .next ((s.readBack (BitVec.ofNat 32 o)).modMem fun m => m.modStack s.ev.stack fun k => { k with fqlo := 0, ovf := false })
  | (kind, w) :: rest =>
    .next ((s.readBack (BitVec.ofNat 32 (2 ^ 31 + o + kind * 2 ^ 28 + w / 2 ^ 32 % 32))).modMem fun m =>
      m.modStack s.ev.stack fun k => { k with fq := rest, fqlo := BitVec.ofNat 32 w, ovf := false })

end Sys2Proof.Machine
end

