-- ==== Sys2Proof/Machine/Casting.lean ====
section
/-!
DEFINITION. Machine/Casting.lean: what the Plinths do to build a Cast (05 R110 to R113): their reads and writes at the home, the
pages of a cast set, and the copy of one page.
-/

namespace Sys2Proof.Machine

/-- A request that its home takes in: while a context is being destroyed, new requests under its key id are refused and those
accepted before are completed (05 R109). -/
def State.admits (s : State) (kid w : Nat) (accepted : Bool) : Bool :=
  s.serves kid w && (accepted || (s.ctx kid).state != .destroying)

/-- A read of a word by the Plinths under a key id, which first apply what they can of the writes of others (09 R190). -/
def State.plinthRead (s : State) (kid w : Nat) (accepted : Bool := false) : Word × Bool × State :=
  if s.admits kid w accepted then ((s.applyAll 5).recallWord w).homeWord kid w .normal else (0, true, s)

/-- A write that enters the clocks as performed at its component, and is applied where it can be (09 R190). -/
def State.stampAll (s : State) (x : Write) : State :=
  let (id, s) := s.newWrite x
  (otherComps x.comp).foldl (fun s e => s.tryApply e id) (s.stampWrite id)

/-- A write of a word at its home by a component (03 R81): the component first applies what it can of the writes of others (09 R190), and other
copies are invalidated. An unbacked word, one under a key id whose requests are refused, or one that a package which is down has held
up (02 R48) is discarded. -/
def State.homeWriteBy (s : State) (comp kid w : Nat) (d : Word) (mask : BitVec 4) (psn : Bool) (accepted : Bool := false) : State :=
  if s.admits kid w accepted && !s.isLost w then
    (((s.applyAll comp).homeOnly w).homeStore kid w .normal d mask psn).stampAll
      { comp := comp, core := none, kid := kid, w := w, data := d, mask := mask, psn := psn }
  else s

/-- A full-word write by the Plinths. -/
def State.plinthWrite (s : State) (kid w : Nat) (d : Word) (psn : Bool) (accepted : Bool := false) : State :=
  s.homeWriteBy 5 kid w d 15 psn accepted

/-- A unit of the LLC under another key id is written back and dropped (05 R108). -/
def State.llcForeign (s : State) (kid u : Nat) : State :=
  match aget? s.mem.llc u with
  | some x => if x.kid = kid then s else s.llcEvict u
  | none => s

/-- A word that the LLC holds takes a clean value. -/
def State.llcRefresh (s : State) (kid w : Nat) (d : Word) : State :=
  match s.llcWord kid w with
  | some _ => s.modMem fun m => { m with llc := amod { kid := kid } m.llc (w / 64) fun x =>
      { x with words := aset x.words (w % 64) (cword w d false .shared 15) } }
  | none => s

/-- A write of a cast buffer: it goes on to DRAM, where a Cast stands (05 R110 to R112).
DEDUCED, safe: notes/assumptions/93.md. -/
def State.castWrite (s : State) (kid w : Nat) (d : Word) : State :=
  if !s.serves kid w then s
  else
    (((((s.applyAll 5).homeOnly w).llcForeign kid (w / 64)).llcRefresh kid w d).writeStored kid w d false).stampAll
      { comp := 5, core := none, kid := kid, w := w, data := d, mask := 15, psn := false }

/-- Writes of consecutive words of a cast buffer. -/
def State.castWords (s : State) (kid w : Nat) : List Word → State
  | [] => s
  | d :: ds => (s.castWrite kid w d).castWords kid (w + 1) ds

/-! ## The cast set (05 R110) -/

/-- Reads an entry of a page table as the Plinths read it, or names the word of it that its home holds back. -/
def State.plinthEntry (s : State) (kid pa : Nat) : Except Nat (Nat × Bool) × State :=
  match [pa / 4, pa / 4 + 1].find? fun w => s.serves kid w && s.heldHome w with
  | some w => (.error w, s)
  | none =>
    let (a, p, s) := s.plinthRead kid (pa / 4)
    let (b, q, s) := s.plinthRead kid (pa / 4 + 1)
    (.ok (a.toNat + b.toNat * 2 ^ 32, p || q), s)

/-- The 64 KiB pieces that a leaf maps, from a virtual base: virtual and physical page. -/
def piecesOf (va pa size : Nat) : List (Nat × Nat) :=
  (List.range (size / 65536)).map fun i => (va / 65536 + i, pa / 65536 + i)

/-- The pages of device memory of 64 KiB or larger that a table maps, rising, or a word of a table that its home holds back: `n` is
the level plus one. -/
def State.castPages (s : State) (kid : Nat) : Nat → Nat → Nat → Except Nat (List (Nat × Nat)) × State
  | 0, _, _ => (.ok [], s)
  | n + 1, t, va =>
    (List.range 512).foldl (fun (p : Except Nat (List (Nat × Nat)) × State) i =>
      let v := va + i * 2 ^ (12 + 9 * n)
      match p with
      | (.error w, s) => (.error w, s)
      | (.ok ps, s) =>
        match s.plinthEntry kid (t + 8 * i) with
        | (.error w, s) => (.error w, s)
        | (.ok (e, psn), s) =>
          if psn || !e.testBit 0 || pteBad e n then (.ok ps, s)
          else
            let pa := e / 4096 % 2 ^ 40 * 4096
            if n = 0 then
              if e.testBit 5 ∧ i % 16 = 0 then (.ok (ps ++ piecesOf v pa 65536), s) else (.ok ps, s)
            else if e.testBit 1 then (.ok (ps ++ piecesOf v pa (leafSize e n)), s)
            else
              match s.castPages kid n pa v with
              | (.error w, s) => (.error w, s)
              | (.ok q, s) => (.ok (ps ++ q), s)) (.ok [], s)

/-- The cast set of a context, with the physical pages after the replica rule for die 0 (18 R375). -/
def State.castSet (s : State) (c : Nat) : Except Nat (List (Nat × Nat)) × State :=
  match s.castPages c 5 ((s.ctx c).ptroot * 65536) 0 with
  | (.error w, s) => (.error w, s)
  | (.ok ps, s) => (.ok (ps.map fun p => (p.1, s.replicated c 0 (p.1 * 65536) (p.2 * 65536) / 65536)), s)

/-! ## Building -/

/-- A build fails (05 R111): the committed Cast is unchanged and an error record is written. -/
def State.buildFails (s : State) (c : Nat) : State :=
  (s.modCtx c fun x => { x with build := none, failed := true }).errRecord c 0 5 0xFFFFFFFF 0

/-- The words of a word's page that lie in its stack, one bit a word: 256 in each of the page's 64 columns that the stack holds. -/
def MemSys.pageWords (m : MemSys) (w : Nat) : Nat :=
  ((List.range 64).filter fun i => m.stackOf (w / 16384 * 16384 + i * 256) = m.stackOf w).foldl
    (fun a i => a + (2 ^ 256 - 1) * 2 ^ (256 * i)) 0

/-- Notes a checkpoint read of a word (03 R75): when all words of a page in a stack have been read, its skip bit is set.
DEDUCED, safe: notes/assumptions/109.md. -/
def MemSys.noteCheckpoint (m : MemSys) (w : Nat) : MemSys :=
  let k := pageKey (m.stackOf w) w
  let read := aget 0 m.ckpt k ||| 2 ^ (w % 16384)
  if read = m.pageWords w then
    { m with ckpt := adel m.ckpt k, skips := aset m.skips k true }
  else { m with ckpt := aset m.ckpt k read }

/-- A checkpoint read of a word (03 R75; 05 R113): it serves as a patrol read of the stored word, and delivers the home's value, which
the LLC has where it holds the word. A word that is not backed reads poisoned (03 R53). -/
def State.checkpointRead (s : State) (kid w : Nat) : Word × Bool × State :=
  if !s.serves kid w then (0, true, s) else
  let s := ((s.applyAll 5).recallWord w).llcForeign kid (w / 64)
  let (e, psn, s) := s.patrolRead w
  let s := s.modMem fun m => m.noteCheckpoint w
  match s.llcRead kid w with
  | (some c, s) => (c.d, c.psn, s)
  | (none, s) => (e ^^^ keyWord ((s.keyOf kid).getD 0) w, psn, s)

/-- Copies words of a page into the building buffer; false when one is poisoned. -/
def State.copyWords (s : State) (kid src dst : Nat) : List Nat → Bool × State
  | [] => (true, s)
  | i :: is =>
    let (d, psn, s) := s.checkpointRead kid (src * 16384 + i)
    if psn then (false, s) else (s.castWrite kid (dst * 16384 + i) d).copyWords kid src dst is

/-- Copies one page of a build and takes it off the pages to copy.
DEDUCED, safe: notes/assumptions/93.md. -/
def State.copyPage (s : State) (c : Nat) (p : Nat × Nat) : State :=
  let x := s.ctx c
  match x.build with
  | none => s
  | some b =>
    let (ok, s) := s.copyWords c p.2 (x.copyOf b p.1) (List.range 16384)
    if ok then s.modCtx c fun x => { x with build := some { b with pages := b.pages.filter (· != p) } } else s.buildFails c

/-- A write to a page that a build has not yet copied waits at its home while the page is copied first (05 R111). -/
def State.copyFirst (s : State) (kid w : Nat) : State := (s.uncopied kid w).foldl (fun s p => s.copyPage kid p) s

/-- Writes the list of a finished build (05 R110).
DEDUCED, unsafe: notes/assumptions/31.md. -/
def State.writeList (s : State) (c : Nat) (b : Build) : State :=
  let w := (s.ctx c).buffer b.toB * 16384
  let head : List Word := [0x43415354, BitVec.ofNat 32 b.seq.toNat, BitVec.ofNat 32 b.all.length, 0]
  s.castWords c w (head ++ b.all.flatMap fun v => [BitVec.ofNat 32 v, BitVec.ofNat 32 (v / 2 ^ 32)])

/-- CAST_PAGE_COPY (05 R111): the next page of a build is copied; after the last, the list is written and the build awaits its
commit. It waits for the words that homes hold back (03 R82). -/
def execCastPageCopy (s : State) : Out :=
  let c := s.ev.ctx
  let x := s.ctx c
  let e := s.again .castPageCopy
  match x.build with
  | none => .next s
  | some b =>
    if !b.point then .next s
    else
      match b.pages with
      | p :: _ => .next ((s.pageHold p.2 (x.copyOf b p.1) e).getD (s.copyPage c p))
      | [] =>
        .next ((s.spanHold (x.buffer b.toB * 16384) (4 + 2 * b.all.length) true e).getD
          ((s.writeList c b).modCtx c fun x => { x with build := none, built := some b.toB }))

end Sys2Proof.Machine
end

