-- ==== Sys2Proof/Machine/Home.lean ====
section
/-!
DEFINITION. Machine/Home.lean: what a word's home does with requests (03 R80 to R82; 02 R46), the invalidations that reach a die's
L2 (08 R174), and the performing and applying of writes (09 R190).
-/

namespace Sys2Proof.Machine

/-- HOME_READ_SHARED: a die's L2 comes to hold the word. A component without an L2 only waits until its home lets it be read. -/
def execHomeReadShared (s : State) : Out :=
  let e := s.ev
  .next (if !s.serves e.kid e.w then s
    else
      match s.readHold e.die e.w (s.again .homeReadShared) with
      | some s => s
      | none => if e.die < 4 then (s.l2Read e.die e.kid e.w e.cls 0).2.2 else s)

/-- HOME_READ_FOR_MODIFICATION: every other die's and package's copy is invalidated and the die owns the word. Its data is
fetched when a load needs it (08 R175). -/
def execHomeReadForModification (s : State) : Out :=
  let e := s.ev
  .next (if !s.serves e.kid e.w || s.isLost e.w then s
    else (s.dieHold e.kid e.w (s.again .homeReadForModification)).getD (s.readForMod e.die e.kid e.w))

/-- A write or atomic that is refused (05 R109), or that a package which is down has held up (02 R48): it is discarded, and what a
returning atomic returns is poisoned. -/
def State.discardWrite (s : State) (id : Nat) (x : Write) : State :=
  let s := s.modMem fun m => { m with writes := adel m.writes id }
  (match x.atom with
    | some op => s.atomDone x.req op 0 true
    | none => s.wrote x.req).goOn id x false

/-- HOME_WRITE: a stream write, or one of a component without an L2, at its home. A part of a word that misses the LLC brings
neighbours there (08 R176). -/
def execHomeWrite (s : State) : Out :=
  let e := s.ev
  .next (match aget? s.mem.writes e.id with
    | none => s
    | some x =>
      if !s.serves x.kid x.w || s.isLost x.w then s
      else
        match s.writeHold x.kid x.w (s.again .homeWrite) with
        | some s => s
        | none =>
          let missed := x.mask != 15 && s.llcMisses x.kid x.w
          let s := ((s.copyFirst x.kid x.w).homeOnly x.w).homeStore x.kid x.w x.cls x.data x.mask x.psn
          s.llcNear x.kid x.w x.cls x.fill missed)

/-- HOME_ATOMIC (03 R67, R81). -/
def execHomeAtomic (s : State) : Out :=
  let e := s.ev
  .next (match aget? s.mem.writes e.id with
    | none => s
    | some x =>
      if !s.serves x.kid x.w || s.isLost x.w then s.discardWrite e.id x
      else (s.writeHold x.kid x.w (s.again .homeAtomic)).getD ((s.copyFirst x.kid x.w).atomAtHome e.id))

/-- HOME_WRITE_BACK: a die's L2 evicts a unit, unless it is pinned (08 R175; 11 R232). -/
def execHomeWriteBack (s : State) : Out :=
  let u := s.ev.w / 64
  .next (match aget? s.mem.l2 (l2Key s.ev.die u) with
    | some x => if s.pinned x then s else s.l2Evict s.ev.die u
    | none => s)

/-- L2_INVALIDATION (08 R174): an invalidation, or with `keep` a recall, of a word reaches a die's L2. -/
def execL2Invalidation (s : State) : Out :=
  let e := s.ev
  .next ((s.l2Invalidate e.die e.w e.keep).modDir e.w fun x =>
    if e.keep then { x with m := x.m && !x.sh.getLsbD e.die }
    else { x with sh := setBit x.sh e.die false, m := x.m && !x.sh.getLsbD e.die })

/-! ## Writes (09 R190) -/

/-- A word of a cache after a store to it: the masked bytes are merged, and a word written in part stays poisoned. -/
def CWord.stored (c : CWord) (w : Nat) (d : Word) (mask : BitVec 4) (psn : Bool) (st : WordState) (m : BitVec 4) : CWord :=
  cword w (mergeBytes mask c.d d) (if mask = 15 then psn else c.psn || psn) st m

/-- A store reaches a die's L2 (08 R175): a word that was invalid or shared becomes partial; when all its bytes are there it is
modified.
DEDUCED, safe: notes/assumptions/104.md. -/
def State.l2Store (s : State) (die kid w : Nat) (cls : EvClass) (d : Word) (mask : BitVec 4) (psn : Bool) : State :=
  let s := s.l2Check die kid w
  match s.l2Word die kid w with
  | none => s.l2Put die kid w cls (cword w d psn (if mask = 15 then .modified else .partly) mask)
  | some c =>
    match c.st with
    | .shared =>
      s.l2Put die kid w cls (if mask = 15 then cword w d psn .modified 15 else cword w d psn .partly mask)
    | .modified => s.l2Put die kid w cls (c.stored w d mask psn .modified 15)
    | .partly =>
      let m := c.mask ||| mask
      s.l2Put die kid w cls (c.stored w d mask psn (if m = 15 then .modified else .partly) m)

/-- A store writes through the L1 of its core (08 R174): a word that the L1 holds is updated, the access sets its unit's class, and
the other L1s of the die drop the word. -/
def State.l1Store (s : State) (die : Nat) (core : Option Nat) (kid w : Nat) (cls : EvClass) (d : Word) (mask : BitVec 4)
    (psn : Bool) : State :=
  let s := s.l1Invalidate die w core
  match core with
  | none => s
  | some c =>
    let s := s.l1Check c kid w
    match s.l1Word c kid w with
    | none => s
    | some x => (s.l1Touch c (w / 64) cls).modMem fun m => { m with l1 := amod { kid := kid } m.l1 (l1Key c (w / 64)) fun u =>
        { u with words := aset u.words (w % 64) (x.stored w d mask psn .shared 15) } }

/-- A plain write of a word of host memory (04 R89): the die then holds the word modified, with the hub as its home. -/
def State.storeAtHost (s : State) (x : Write) (w : Nat) (d : Word) : State :=
  let h := hostWord w
  if 4 ≤ x.comp then ((s.homeOnly h).ownLine h).homeStore 0 h x.cls d x.mask x.psn
  else
    let s := (s.readForMod x.comp 0 h).l2Store x.comp 0 h x.cls d x.mask x.psn
    (s.l1Store x.comp x.core 0 h x.cls d x.mask x.psn).watchWrite x.comp h

/-- A word outside device memory, as a write's component reads it for an atomic (18 R383). -/
def State.outWord (s : State) (x : Write) : Loc → Word × Bool × State
  | .host w => if 4 ≤ x.comp then s.homeRead 0 (hostWord w) x.cls x.fill else s.l2Read x.comp 0 (hostWord w) x.cls x.fill
  | y => s.readLocal y

/-- A word outside device memory takes the value of a write. -/
def State.storeOut (s : State) (x : Write) (d : Word) : Loc → State
  | .host w => s.storeAtHost x w d
  | y => s.writeLocal d x.mask x.psn y

/-- A write of a word outside device memory is performed: a scratchpad's, the host's or a steward memory's (18 R383; 04 R89). An atomic
returns a poisoned word and leaves it. -/
def State.performOut (s : State) (id : Nat) (x : Write) (y : Loc) : State :=
  let forget (s : State) : State := s.modMem fun m => { m with writes := adel m.writes id }
  match x.atom with
  | none => ((forget (s.storeOut x x.data y)).wrote x.req).goOn id x false
  | some op =>
    let (old, psn, s) := s.outWord x y
    let s := if psn then s else s.storeOut x (s.atomResult x op old) y
    ((forget s).atomDone x.req op old psn).goOn id x false

/-- A write that an MCW carries (02 R49; 18 R386): the message is sent, and its DONE ends the write. -/
def State.performMcw (s : State) (id : Nat) (x : Write) (m : FabMsg) : State :=
  (s.modMem fun y => { y with writes := aset y.writes id { x with mcw := none } }).sendRequest m 0 id

/-- The write of an MCW has been performed at its peer. -/
def State.mcwDone (s : State) (id : Nat) : State :=
  match aget? s.mem.writes id with
  | some x => ((s.modMem fun m => { m with writes := adel m.writes id }).wrote x.req).goOn id x false
  | none => s

/-- A write reaches its die's L2 and its core's L1 (08 R174, R175), or has been written at its home. -/
def State.storeAtDie (s : State) (x : Write) : State :=
  if x.atHome then (if x.comp < 4 then (s.l1Store x.comp x.core x.kid x.w x.cls x.data x.mask x.psn).watchWrite x.comp x.w else s)
  else
    let s := ((s.copyFirst x.kid x.w).readForMod x.comp x.kid x.w).l2Store x.comp x.kid x.w x.cls x.data x.mask x.psn
    (s.l1Store x.comp x.core x.kid x.w x.cls x.data x.mask x.psn).watchWrite x.comp x.w

/-- PERFORM_AT_DIE: the write reaches its die's L2, or has been written at its home; it receives its stamp, its request completes, and
the other components come to apply it. A write outside device memory is performed where its word stands, and an MCW is sent. -/
def execPerformAtDie (s : State) : Out :=
  let e := s.ev
  .next (match aget? s.mem.writes e.id with
    | none => s
    | some x =>
      match x.mcw, x.out with
      | some m, _ => s.performMcw e.id x m
      | none, some .none => s
      | none, some y => s.performOut e.id x y
      | none, none =>
        if x.stamp.isSome then s
        else if !s.serves x.kid x.w || s.isLost x.w then s.discardWrite e.id x
        else
          match (if x.atHome then s.writeHold else s.dieHold) x.kid x.w (s.again .performAtDie) with
          | some s => s
          | none => (((s.storeAtDie x).stampWrite e.id).wrote x.req).goOn e.id x true)

/-- WRITE_APPLY: a component applies a write as soon as CanApply holds, and with it those that it has kept waiting. -/
def execWriteApply (s : State) : Out := .next ((s.tryApply s.ev.die s.ev.id).applyAll s.ev.die)

/-! ## Releasing what waits -/

/-- An event that waits for a word's recall completes without what a package that is down holds of the word (02 R48). -/
def Event.losing (e : Event) (w : Nat) : Event := { e with arg := { e.arg with lost := w :: e.arg.lost } }

/-- A package holds no copy of a word any more: neither modified nor, where others may still share the word, shared. -/
def State.copyGone (s : State) (w pkg : Nat) : State :=
  if !ahas s.mem.dir (w / 64) then s
  else
    let e := aget {} s.mem.dir (w / 64)
    let s := s.modDir w fun x =>
      if x.rst = 2 then (if e.rlist.getD x.ridx 1024 = pkg then { x with rst := 0 } else x) else { x with gone := pkg :: x.gone }
    if (s.dirWord w).rst = 1 ∧ (s.remoteHolders w true none).isEmpty then s.modDir w fun x => { x with rst := 0, gone := [] } else s

/-- A recall of a word by one package is answered, or with `lost` will not be: the package no longer holds the word. When no recall is
outstanding, what waited goes on (03 R82). -/
def State.recallAnswered (s : State) (w pkg : Nat) (lost : Bool) : State :=
  let left := (aget [] s.mem.recalls w).filter (· != pkg)
  let s := s.copyGone w pkg
  let es := if lost then (aget [] s.mem.homeq w).map (·.losing w) else aget [] s.mem.homeq w
  if left.isEmpty then (s.modMem fun m => { m with recalls := adel m.recalls w, homeq := adel m.homeq w }).prepend es
  else s.modMem fun m => { m with recalls := aset m.recalls w left, homeq := if es.isEmpty then m.homeq else aset m.homeq w es }

end Sys2Proof.Machine
end

