-- ==== Sys2Proof/Machine/Engine.lean ====
section
/-!
DEFINITION. Machine/Engine.lean: how the engines of a core reach memory (09 R201; 11 R231, R240): translations through a TLB of
the core, words read through the die's L2 with the team's logged writes (09 R202), and words written as writes of the die.
-/

namespace Sys2Proof.Machine

/-- Where an engine of a core works: its core, TLB, context, launch and team. -/
structure Site where
  core   : Nat
  tlb    : Nat
  ctx    : Nat
  launch : Nat
  team   : Nat
  deriving DecidableEq, Repr

/-- The site of a team's engine. -/
def State.siteOf (s : State) (u tlb : Nat) : Site :=
  let t := s.team u
  { core := t.core, tlb := tlb, ctx := t.ctx, launch := t.launch, team := u }

/-- The location of a virtual address for an engine whose replicas are those of a die, or why there is none (08 R163; 18 R375). -/
def State.engineLocAt (s : State) (g : Site) (die va : Nat) (write : Bool) : Except XFail Loc × State :=
  match s.translate g.core g.tlb g.ctx va (if write then .write else .read) g.launch with
  | (.error k, s) => (.error k, s)
  | (.ok x, s) =>
    let (pa, host) := s.placed g.ctx die va x
    (.ok (s.locOf pa host), s)

/-- The location of a virtual address for an engine of a core. -/
def State.engineLoc (s : State) (g : Site) (va : Nat) (write : Bool) : Except XFail Loc × State :=
  s.engineLocAt g (dieOfCore g.core) va write

/-- An event waits for a word of a page table that its home holds back (03 R82). -/
def State.awaitWord (s : State) (w : Nat) (e : Event) : State := (s.readHold 0 w e).getD s

/-- A word as an engine reads it: through the L2 of its die, with the team's log over it. -/
def State.engineRead (s : State) (g : Site) (cls : EvClass) (fill : Nat) (x : Loc) : Word × Bool × State :=
  let die := dieOfCore g.core
  let read (kid w : Nat) : Word × Bool × State :=
    let (d, psn, s) := (s.applyAll die).l2Read die kid w cls fill
    let (d, psn) := overLog ((s.team g.team).logged x) d psn
    (d, psn, s)
  match x with
  | .dev w =>
    if (s.keyOf g.ctx).isNone then (0, true, s)
    else
      let (d, psn, s) := read g.ctx w
      (d, psn || s.isLost w, s)
  | .host w => read 0 (hostWord w)
  | x => s.readLocal x

/-- A write of a die's engine to a word of device memory (09 R201): performed at the die, stamped, and applied where it can be. A
stream write goes to its home. One that a package which is down has held up is discarded (02 R48).
DESIGN CHOICE, safe: notes/assumptions/51.md. -/
def State.dieWrite (s : State) (die kid w : Nat) (cls : EvClass) (d : Word) (mask : BitVec 4) (psn : Bool) : State :=
  if !s.serves kid w || s.isLost w then s
  else
    let s := s.copyFirst kid w
    let s := match cls with
      | .stream => (s.homeOnly w).homeStore kid w cls d mask psn
      | _ => (s.readForMod die kid w).l2Store die kid w cls d mask psn
    ((s.l1Store die none kid w cls d mask psn).watchWrite die w).stampAll
      { comp := die, core := none, kid := kid, w := w, data := d, mask := mask, psn := psn }

/-- A word as an engine writes it; a word that is not backed is discarded.
DESIGN CHOICE, safe: notes/assumptions/51.md. -/
def State.engineWrite (s : State) (g : Site) (cls : EvClass) (d : Word) (mask : BitVec 4) (psn : Bool) (x : Loc) : State :=
  let die := dieOfCore g.core
  match x with
  | .dev w => s.dieWrite die g.ctx w cls d mask psn
  | x => s.storeOut { comp := die, core := none, kid := 0, w := x.word, data := d, mask := mask, psn := psn, cls := cls } d x

/-- What an engine has to wait for before it reads or writes a location (03 R81, R82; 04 R88; 05 R111). -/
def State.engineHold (s : State) (g : Site) (write : Bool) (e : Event) (x : Loc) : Option State :=
  match x with
  | .dev w =>
    if write then s.dieHold g.ctx w e
    else if (s.l2Word (dieOfCore g.core) g.ctx w).isSome then none
    else s.readHold 0 w e
  | _ => none

/-- The first wait among locations. -/
def State.engineHolds (s : State) (g : Site) (write : Bool) (e : Event) (xs : List Loc) : Option State :=
  xs.findSome? (s.engineHold g write e)

/-- The locations of consecutive words of virtual memory, or why one is not to be had and its address. -/
def State.engineLocs (s : State) (g : Site) (write : Bool) : Nat → Nat → Except (XFail × Nat) (List Loc) × State
  | _, 0 => (.ok [], s)
  | va, n + 1 =>
    match s.engineLoc g va write with
    | (.error k, s) => (.error (k, va), s)
    | (.ok x, s) =>
      match s.engineLocs g write (va + 4) n with
      | (.error x, s) => (.error x, s)
      | (.ok xs, s) => (.ok (x :: xs), s)

/-- Reads locations: data and poison. -/
def State.engineReads (s : State) (g : Site) (cls : EvClass) (fill : Nat) : List Loc → List (Word × Bool) × State
  | [] => ([], s)
  | x :: xs =>
    let (d, p, s) := s.engineRead g cls fill x
    let (r, s) := s.engineReads g cls fill xs
    ((d, p) :: r, s)

/-- Writes words with their poison to locations. -/
def State.engineWrites (s : State) (g : Site) (cls : EvClass) : List ((Word × Bool) × Loc) → State
  | [] => s
  | (x, l) :: r => (s.engineWrite g cls x.1 15 x.2 l).engineWrites g cls r

/-- Reads the words of an access at issue: a word whose home holds it back is asked for, and the lane tries again. -/
def State.wordsNow (s : State) (g : Agent) (pol : Word) (ls : List Loc) : Except Excuse (List (Word × Bool)) × State :=
  let blocked (w : Nat) : Bool :=
    s.serves g.ctx w && s.lacks g pol w && (if g.comp < 4 then s.heldAway w else s.heldHome w)
  match (devWords ls).find? blocked with
  | some w =>
    (.error (.await (g.askFor w (classOf pol w))), s)
  | none =>
    let (r, s) := s.readWords g pol ls
    (.ok r, s)

/-- The fault of an engine (08 R168): its record's identifier on the die. -/
def State.engineFault (s : State) (g : Site) (va kind : Nat) : Nat × State :=
  s.queueFault (dieOfCore g.core) g.ctx va kind g.tlb

end Sys2Proof.Machine
end

