-- ==== Sys2Proof/Machine/Save.lean ====
section
/-!
DEFINITION. Machine/Save.lean: the state of a team as words of a save slot (06 R135; 13 R277, R278), for pre-emption, barrier
shadows and rollback, and its return from there (13 R279).
-/

namespace Sys2Proof.Machine

/-! ## Sizes (06 R135) -/

/-- BODY: the bytes of one saved state. -/
def LaunchRec.body (r : LaunchRec) : Nat := 4096 + 512 * 32 * r.groups + 4096 * (r.xpool + r.acc) + r.spad

/-- SLOT: the bytes of one save slot. -/
def LaunchRec.slotSize (r : LaunchRec) : Nat := 65536 * ceilDiv (r.body * (if r.attr.getLsbD 1 then 2 else 1)) 65536

/-- The virtual address of a save slot; bits of SAVE above the canonical address do not count.
DEDUCED, unsafe: notes/assumptions/128.md. -/
def LaunchRec.slotVa (r : LaunchRec) (slot : Nat) : Nat := (r.save.toNat + slot * r.slotSize) % 2 ^ 57

/-! ## Parts as bytes -/

/-- Zeros. -/
def zeros (n : Nat) : List Byte := List.replicate n 0

/-- The values of registers. -/
def valBytes (vs : List Val) : List Byte := vs.flatMap fun v => dwordBytes v.v

/-- The poison bits of registers, as two bytes. -/
def psnBytes (vs : List Val) : List Byte :=
  natBytes 2 ((vs.zip (List.range 16)).foldl (fun n p => if p.1.psn then n + 2 ^ p.2 else n) 0)

/-- A tensor record packed into 112 bytes (13 R277, HANDLES). -/
def packRecord (ws : List Word) : List Byte :=
  let b := wordsBytes ws
  b.take 8 ++ [BitVec.ofNat 8 (leAt b 9 1 * 16 + leAt b 8 1 % 16)] ++ (b.drop 10).take 1 ++ (b.drop 12).take 6
    ++ (b.drop 24).take 96

/-- A tensor record from its 112 bytes. -/
def unpackRecord (b : List Byte) : List Word :=
  bytesWords (b.take 8 ++ [BitVec.ofNat 8 (leAt b 8 1 % 16), BitVec.ofNat 8 (leAt b 8 1 / 16)] ++ (b.drop 9).take 1 ++ [0]
    ++ (b.drop 10).take 6 ++ zeros 6 ++ (b.drop 16).take 96 ++ zeros 8)

/-- The state word of a barrier (19 R392). -/
def Barrier.word (b : Barrier) : Dword :=
  BitVec.ofNat 64 (b.phase.toNat * 2 ^ 48 + (if b.init then 2 ^ 47 else 0) + b.expect * 2 ^ 36 + (if b.bcur then 2 ^ 35 else 0)
    + b.arrived * 2 ^ 24 + b.bytes)

/-- A barrier from its state word, with every drop mark clear (19 R392). -/
def barrierOf (d : Dword) : Barrier :=
  { phase := BitVec.ofNat 16 (bitsOf d 63 48), init := d.getLsbD 47, expect := bitsOf d 46 36, bcur := d.getLsbD 35,
    arrived := bitsOf d 34 24, bytes := bitsOf d 23 0 }

/-- The byte of a block mapping (13 R277, XMAP). -/
def xmapByte : Option XMap → Byte
  | some x => BitVec.ofNat 8 (128 + x.phys % 64)
  | none => 0

/-- The bytes of the access-processor context (13 R277, AP). -/
def apBytes (t : Thread) : List Byte :=
  dwordBytes (ofVa t.pc) ++ valBytes t.q.toList ++ valBytes t.n.toList ++ wordsBytes t.m.toList ++ psnBytes t.q.toList
    ++ psnBytes t.n.toList ++ [t.p, t.pp] ++ natBytes 2 t.cf.toNat

/-- Whether the access-processor program runs, as the save slot says it: it runs again when an instruction has not settled. -/
def ApState.saved (a : ApState) : Bool := a.running || !a.unsettled.isEmpty

/-- The team part (13 R277). -/
def Team.partBytes (t : Team) (l : Launch) : List Byte :=
  let flag (n : Nat) (b : Bool) : Nat := if b then n else 0
  natBytes 4 0x5445414D ++ natBytes 4 t.tid ++ natBytes 1 (t.groups.length - 1)
    ++ natBytes 1 (flag 1 l.rollback + flag 2 t.escaped + flag 4 t.ap.saved) ++ natBytes 1 t.streak ++ [0] ++ natBytes 4 t.slot
    ++ ((List.range 16).flatMap fun i => dwordBytes (if i < t.nbars then (aget {} t.bars i).word else 0))
    ++ natBytes 2 t.z.toNat
    ++ natBytes 2 ((t.groups.zip (List.range 16)).foldl (fun n p => if p.1.conv then n + 2 ^ p.2 else n) 0)
    ++ natBytes 4 ((akeys t.handles).foldl (fun n i => n + 2 ^ i) 0) ++ zeros 8
    ++ ((List.range 16).flatMap fun g =>
        let x := t.groups.getD g noGroup
        [xmapByte x.x0, xmapByte x.x1, xmapByte x.x2])
    ++ (if t.ap.saved then apBytes (t.ap.settled.getD {}) else zeros 304)
    ++ ((List.range 32).flatMap fun i => packRecord (aget (List.replicate 32 0) t.handles i))

/-- The code of a park kind (13 R278). -/
def Park.code : Park → Nat
  | .none => 0
  | .fault _ _ _ => 1
  | .launchw => 2
  | .xacq _ => 3
  | .meet _ => 4
  | .barw _ _ => 5
  | .cbar => 5
  | .gbar => 5
  | .halted => 0
  | .leaving => 0
  | .tlbinv _ => 0

/-- The entries that a lane popped beyond the saved access-processor state (13 R278, POPS; 12 R255).
DEDUCED, unsafe: notes/assumptions/49.md. -/
def Feed.pops (f : Feed) (lane : Nat) : Nat :=
  min 127 (f.gone.length + (max (aget f.base f.heads lane) f.base - f.base) + aget 0 f.drops lane)

/-- The seven bytes of POPS of a lane: the queues are popped by the visible lane.
DEDUCED, unsafe: notes/assumptions/49.md. -/
def popsBytes (t : Team) (lane : Nat) : List Byte :=
  natBytes 7 ((List.range 8).foldl (fun n k => n + (aget {} t.dq k : Feed).pops lane * 2 ^ (7 * k)) 0)

/-- The 16 TCAP bytes of a lane (13 R278). -/
def tcapBytes (o : TileOp) (lane : Nat) : List Byte :=
  let chunk (ws : List Word) (i : Nat) : List Byte := if ws.isEmpty then zeros 16 else ((packRecord ws).drop (16 * i)).take 16
  if lane = 0 then wordBytes o.word ++ natBytes 2 o.slab ++ [1] ++ zeros 9
  else if lane = 1 then dwordBytes o.ca ++ dwordBytes o.cb
  else if lane = 2 then dwordBytes o.cm ++ wordBytes o.fa ++ wordBytes o.fb
  else if lane = 3 then wordBytes o.pol ++ zeros 4 ++ dwordBytes o.ctl
  else if lane < 11 then chunk o.ra (lane - 4)
  else if lane < 18 then chunk o.rb (lane - 11)
  else if lane < 25 then chunk o.rm (lane - 18)
  else zeros 16

/-- The outstanding tile operation of a group. -/
def State.tileOf (s : State) (g : Group) : Option TileOp :=
  match g.tile with
  | some id =>
    match aget? s.ops id with
    | some (.tile o) => some o
    | _ => none
  | none => none

/-- The record of a thread (13 R278). -/
def State.threadBytes (s : State) (u g lane : Nat) : List Byte :=
  let t := s.team u
  let x := s.thread (laneRef u g lane)
  let gr := t.groups.getD g noGroup
  let held (m : Option XMap) : Bool := match m with
    | some y => y.holders.getLsbD lane
    | none => false
  let flag (n : Nat) (b : Bool) : Nat := if b then n else 0
  let vis := if (s.launch t.launch).protect then lane / 2 else lane
  dwordBytes (ofVa x.pc) ++ valBytes x.q.toList ++ valBytes x.n.toList
    ++ (if x.handler then valBytes x.xq.toList else zeros 128)
    ++ wordsBytes x.m.toList ++ wordsBytes x.f.toList ++ dwordBytes x.xpc ++ dwordBytes x.xaddr
    ++ psnBytes x.q.toList ++ psnBytes x.n.toList ++ (if x.handler then psnBytes x.xq.toList else zeros 2)
    ++ [x.p, x.pp] ++ natBytes 2 x.cf.toNat ++ [x.xcause]
    ++ natBytes 1 (flag 1 x.handler + flag 2 x.exited + 4 * x.park.code)
    ++ wordBytes x.fpctl ++ wordBytes x.sr ++ wordBytes x.xinfo
    ++ natBytes 1 (flag 1 (held gr.x0) + flag 2 (held gr.x1) + flag 4 (held gr.x2))
    ++ (if g = 0 then popsBytes t vis else zeros 7)
    ++ (match s.tileOf gr with
        | some o => dwordBytes (o.scl.getD lane 0) ++ tcapBytes o lane
        | none => zeros 24)

/-- Words without poison. -/
def cleanWords (bs : List Byte) : List (Word × Bool) := (bytesWords bs).map fun w => (w, false)

/-- The two words of a register value. -/
def valWords (v : Val) : List (Word × Bool) := [(loWord v.v, v.psn), (hiWord v.v, v.psn)]

/-- The words of a scratchpad (08 R179). -/
def State.padWords (s : State) (t : Team) : Nat → Nat → List (Word × Bool) × State
  | _, 0 => ([], s)
  | o, n + 1 =>
    let (c, b, r) := t.padPlace o
    let (d, p, s) := s.padRead c b r
    let (ws, s) := s.padWords t (o + 4) n
    ((d, p) :: ws, s)

/-- The whole state of a team in the order of 06 R135; extended registers that are poisoned are saved as poisoned words. -/
def State.teamWords (s : State) (u : Nat) : List (Word × Bool) × State :=
  let s := s.apSettle u
  let t := s.team u
  let (pad, s) := s.padWords t 0 (t.spad / 4)
  (cleanWords (t.partBytes (s.launch t.launch))
    ++ ((List.range t.groups.length).flatMap fun g => (List.range 32).flatMap fun l => cleanWords (s.threadBytes u g l))
    ++ ((List.range t.xpool).flatMap fun b => (List.range 16).flatMap fun i => (List.range 32).flatMap fun l =>
        valWords (aget {} t.ext (extKey b i l)))
    ++ ((List.range (t.accs * 1024)).map fun k => (aget 0 t.acc k, false))
    ++ pad, s)

/-! ## Writing a saved state -/

/-- The outcome of a save: written, waiting at a word's home, or a fault (06 R135). -/
inductive SaveEnd where
  | done | waits | fault
  deriving DecidableEq, Repr

/-- Writes a team's state to its slot, or to the shadow half of it: every address is translated first. -/
def State.saveTeam (s : State) (u : Nat) (shadow : Bool) (e : Event) : SaveEnd × State :=
  let t := s.team u
  let rc := (s.launch t.launch).rc
  let va := rc.slotVa t.slot + (if shadow then rc.body else 0)
  let g := s.siteOf u 2
  let (ws, s) := s.teamWords u
  match s.engineLocs g true va ws.length with
  | (.error (.held w, _), s) => (.waits, s.awaitWord w e)
  | (.error (.fault _, _), s) => (.fault, s)
  | (.ok ls, s) =>
    match s.engineHolds g true e ls with
    | some s => (.waits, s)
    | none => (.done, s.engineWrites g .normal (ws.zip ls))

/-! ## Reading a saved state -/

/-- Registers from their bytes and poison bits; a register whose saved words are poisoned is poisoned too.
DEDUCED, unsafe: notes/assumptions/45.md. -/
def readVals (b : List Byte) (bad : List Bool) (off psnOff : Nat) : Vector Val 16 :=
  Vector.ofFn fun i => { v := BitVec.ofNat 64 (leAt b (off + 8 * i.val) 8),
                         psn := (leAt b psnOff 2).testBit i.val || bad.getD (off / 4 + 2 * i.val) false
                                  || bad.getD (off / 4 + 2 * i.val + 1) false }

/-- A thread from its record (13 R278, R279), not parked.
DEDUCED, unsafe: notes/assumptions/45.md. -/
def readThread (b : List Byte) (bad : List Bool) : Thread :=
  let st := leAt b 467 1
  { pc := BitVec.ofNat 57 (leAt b 0 8), q := readVals b bad 8 456, n := readVals b bad 136 458, xq := readVals b bad 264 460,
    m := Vector.ofFn fun i => BitVec.ofNat 32 (leAt b (392 + 4 * i.val) 4),
    f := Vector.ofFn fun i => BitVec.ofNat 32 (leAt b (424 + 4 * i.val) 4),
    xpc := BitVec.ofNat 64 (leAt b 440 8), xaddr := BitVec.ofNat 64 (leAt b 448 8),
    p := BitVec.ofNat 8 (leAt b 462 1), pp := BitVec.ofNat 8 (leAt b 463 1), cf := BitVec.ofNat 12 (leAt b 464 2),
    xcause := BitVec.ofNat 8 (leAt b 466 1), handler := st.testBit 0, exited := st.testBit 1,
    fpctl := BitVec.ofNat 32 (leAt b 468 4), sr := BitVec.ofNat 32 (leAt b 472 4), xinfo := BitVec.ofNat 32 (leAt b 476 4) }

/-- The park kind in a thread's record. -/
def readKind (b : List Byte) : Nat := leAt b 467 1 / 4 % 8

/-- What a park is when a team comes back: a wait at BARW is for the phase that is in progress then (13 R279).
DEDUCED, unsafe: notes/assumptions/48.md. -/
def Park.onRestore (p : Park) (phase : Nat → BitVec 16) : Park :=
  match p with
  | .barw b _ => .barw b (phase b)
  | p => p

/-- A restored thread as its park kind says (13 R279): kinds 4 and 5 wait where they waited; kind 1 replays its chain, or goes back to
where it was before a tile instruction's fault parked it; kind 2 stands at its LAUNCHW with the address that it has read; the others
issue from their PC.
DEDUCED, unsafe: notes/assumptions/48.md. -/
def Thread.resume (t : Thread) (kind r : Nat) (note : FlagNote) (phase : Nat → BitVec 16) : Thread :=
  let t := { t with redo := if kind = 1 ∨ kind = 2 then aget? note.launchw r else none }
  match kind, aget? note.backs r, aget? note.parks r with
  | 1, some (pc, p), _ => { t with pc := pc, park := p.onRestore phase }
  | 1, none, _ => { t with replay := true }
  | 4, _, some p => { t with park := p.onRestore phase }
  | 5, _, some p => { t with park := p.onRestore phase }
  | _, _, _ => t

/-- The access-processor program from its bytes (13 R277, AP). -/
def readAp (b : List Byte) (bad : List Bool) : Thread :=
  { pc := BitVec.ofNat 57 (leAt b 208 8), q := readVals b bad 216 504, n := readVals b bad 344 506,
    m := Vector.ofFn fun i => BitVec.ofNat 32 (leAt b (472 + 4 * i.val) 4),
    p := BitVec.ofNat 8 (leAt b 508 1), pp := BitVec.ofNat 8 (leAt b 509 1), cf := BitVec.ofNat 12 (leAt b 510 2) }

/-- A block mapping from its byte and the holders of the block. -/
def readXmap (b : Nat) (holders : BitVec 32) : Option XMap :=
  if 128 ≤ b then some { phys := b % 64, holders := holders } else none

/-- The lanes whose HOLD names a block. -/
def holdersOf (recs : List (List Byte)) (k : Nat) : BitVec 32 :=
  (recs.zip (List.range 32)).foldl (fun h p => setBit h p.2 ((leAt p.1 480 1).testBit k)) 0

/-- What the words of a saved state say, part by part. -/
structure SavedImage where
  part  : List Byte
  bad   : List Bool
  recs  : List (List Byte)     -- records of all threads, by group and lane
  recBad : List (List Bool)
  deriving Repr

/-- Cuts a saved state into its team part and thread records. -/
def imageOf (ws : List (Word × Bool)) (groups : Nat) : SavedImage :=
  let chunk (i : Nat) := (ws.drop (1024 + 128 * i)).take 128
  { part := wordsBytes ((ws.take 1024).map (·.1)), bad := (ws.take 1024).map (·.2),
    recs := (List.range (32 * groups)).map fun i => wordsBytes ((chunk i).map (·.1)),
    recBad := (List.range (32 * groups)).map fun i => (chunk i).map (·.2) }

/-- The feed queues of a restored team: empty, with the entries that each lane is still to drop (12 R255). -/
def readFeeds (recs : List (List Byte)) (protect : Bool) : AMap Feed :=
  (List.range 8).foldl (fun m k =>
    let d := (List.range (if protect then 16 else 32)).foldl (fun d l =>
      let n := leAt (recs.getD (if protect then 2 * l else l) []) 481 7 / 2 ^ (7 * k) % 128
      if n = 0 then d else aset d l n) ([] : AMap Nat)
    if d.isEmpty then m else aset m k ({ drops := d } : Feed)) ([] : AMap Feed)

/-- The values of the extended pool, the accumulators and the scratchpad, from the words that follow the thread records. -/
def readPool (ws : List (Word × Bool)) (xpool : Nat) : AMap Val :=
  (List.range (xpool * 512)).foldl (fun m k =>
    let a := ws.getD (2 * k) (0, false)
    let b := ws.getD (2 * k + 1) (0, false)
    let v : Val := { v := b.1 ++ a.1, psn := a.2 || b.2 }
    if v = {} then m else aset m k v) ([] : AMap Val)

/-- The accumulators. -/
def readAcc (ws : List (Word × Bool)) (n : Nat) : AMap Word :=
  (List.range (n * 1024)).foldl (fun m k =>
    let a := (ws.getD k (0, false)).1
    if a = 0 then m else aset m k a) ([] : AMap Word)

/-- Writes a scratchpad. -/
def State.fillPad (s : State) (t : Team) : Nat → List (Word × Bool) → State
  | _, [] => s
  | o, (d, p) :: r =>
    let (c, b, row) := t.padPlace o
    (s.padWrite c b row d 15 p).fillPad t (o + 4) r

/-- Which tile operation an instruction is (19 R404; 20 R422): kind, accumulator, CL field. -/
def tileShape : Instr → Option (TileKind × Nat × Nat)
  | .tmma _ _ acc _ cl => some (.mma, acc.val, cl.val)
  | .tmmaSc _ _ acc _ cl imm => some (.sc imm.toNat, acc.val, cl.val)
  | .tmms _ _ acc _ cl n => some (.ms n.val, acc.val, cl.val)
  | .tzero _ _ acc => some (.zero, acc.val, 0)
  | .tlda _ _ acc _ => some (.lda, acc.val, 0)
  | .tdrain _ _ acc _ cl => some (.drain, acc.val, cl.val)
  | .chrun _ _ acc _ cl => some (.chrun, acc.val, cl.val)
  | _ => none

/-- The outstanding tile operation that a group's records hold (13 R278), if they hold one. -/
def readTile (recs : List (List Byte)) (u g core kid m flag : Nat) (pc : BitVec 57) (lanes : List Nat) : Option TileOp :=
  let cap (l : Nat) : List Byte := ((recs.getD l []).drop 496).take 16
  let record (l : Nat) : List Word := unpackRecord ((List.range 7).flatMap fun i => cap (l + i))
  let word : Word := BitVec.ofNat 32 (leAt (cap 0) 0 4)
  if (leAt (cap 0) 6 1) % 2 = 0 then none
  else
    match decode word.toNat with
    | .error _ => none
    | .ok i =>
      match tileShape i with
      | none => none
      | some (kind, acc, cl) =>
        some { kind := kind, word := word, pc := pc, team := u, grp := g, flag := flag, lanes := lanes, acc := acc, cl := cl, m := m,
               ca := BitVec.ofNat 64 (leAt (cap 1) 0 8), cb := BitVec.ofNat 64 (leAt (cap 1) 8 8),
               cm := BitVec.ofNat 64 (leAt (cap 2) 0 8), fa := BitVec.ofNat 32 (leAt (cap 2) 8 4),
               fb := BitVec.ofNat 32 (leAt (cap 2) 12 4), pol := BitVec.ofNat 32 (leAt (cap 3) 0 4),
               ctl := BitVec.ofNat 64 (leAt (cap 3) 8 8), ra := record 4, rb := record 11, rm := record 18,
               scl := (List.range 32).map fun l => BitVec.ofNat 64 (leAt (recs.getD l []) 488 8),
               slab := leAt (cap 0) 4 2, kid := kid, core := core }

/-- The record address of the LAUNCHW at which a thread waits (20 R434). -/
def State.launchAddr (s : State) (r : Nat) : Option Dword :=
  match (s.thread r).redo with
  | some a => some a
  | none => s.scheds.findSome? fun p => (p.2.parked.find? fun x => x.refs.contains r).map (·.addr)

/-- The threads of a team's groups. -/
def State.groupThreads (s : State) (u : Nat) : List (Nat × Thread) :=
  (teamRefs u (s.team u).groups.length).map fun r => (r, s.thread r)

/-- The groups of a team in the order in which their outstanding tile instructions were issued (11 R233). -/
def State.tileOrder (s : State) (u : Nat) : List Nat :=
  (s.core (s.team u).core).seq.filterMap fun id =>
    match aget? s.ops id with
    | some (.tile o) => if o.team = u then some o.grp else none
    | _ => none

/-- What the words of a saved team leave open: whose the flags are (14 R289), and what its parked threads wait for (13 R279).
DEDUCED, unsafe: notes/assumptions/47.md. -/
def State.flagNote (s : State) (u : Nat) : FlagNote :=
  let t := s.team u
  let ts := s.groupThreads u
  { start := t.ap.started
    tiles := (t.groups.zip (List.range 16)).foldl (fun m p => match s.tileOf p.1 with
      | some o => aset m p.2 (o.flag, o.lanes)
      | none => m) []
    order := s.tileOrder u
    launchw := ts.foldl (fun m p => match s.launchAddr p.1 with
      | some a => aset m p.1 a
      | none => m) []
    parks := ts.foldl (fun m p => if 4 ≤ p.2.park.code then aset m p.1 p.2.park else m) []
    backs := ts.foldl (fun m p => match p.2.back with
      | some x => aset m p.1 x
      | none => m) [] }

/-- A team's operations of the tile engine, the block-transfer engine and the access processor are forgotten. -/
def State.dropOps (s : State) (u : Nat) (gone : Op → Bool) : State :=
  let ids := (s.ops.filter fun p => gone p.2 && (match p.2 with
    | .tile o => o.team == u
    | .copy o => o.team == u
    | .gather o => o.team == u
    | _ => false)).map (·.1)
  let s := { s with ops := afilter s.ops fun k _ => !ids.contains k,
                    cores := amap s.cores fun _ c => { c with seq := c.seq.filter (!ids.contains ·),
                                                              drains := c.drains.filter (!ids.contains ·),
                                                              loadq := c.loadq.filter (!ids.contains ·),
                                                              storeq := c.storeq.filter (!ids.contains ·) } }
  s.modTeam u fun t => { t with groups := t.groups.map fun g => match g.tile with
    | some id => if ids.contains id then { g with tile := none } else g
    | none => g }

/-- A feed queue whose entries are discarded: what remains is how many entries each lane has popped beyond the settled state
(12 R255). -/
def Feed.emptied (f : Feed) : Feed :=
  { drops := (List.range 32).foldl (fun m l => if f.pops l = 0 then m else aset m l (f.pops l)) [] }

/-- Squashes a team's access-processor program (12 R254, R255; 06 R134): it stands after its newest settled instruction, its gathers and
requests sink, and its feed queues are emptied. -/
def State.squashAp (s : State) (u : Nat) : State :=
  let s := s.apSettle u
  let s := s.dropOps u fun o => match o with
    | .gather _ => true
    | _ => false
  let s := { s with reqs := afilter s.reqs fun _ x => x.ref ≠ apRef u || x.kind == ReqKind.store }
  let a := (s.team u).ap
  let s := match a.settled with
    | some th => if a.saved then s.setThread (apRef u) th else s
    | none => s
  s.modTeam u fun t =>
    { t with dq := amap t.dq fun _ f => f.emptied, ap := { a with running := a.saved, unsettled := [], branches := [] } }

/-- A team takes its state from the words of a slot (13 R279), on the core it stands on and in the groups it has; `note` says what its
flags belong to. -/
def State.loadTeam (s : State) (u : Nat) (note : FlagNote) (ws : List (Word × Bool)) : State :=
  let t := s.team u
  let l := s.launch t.launch
  let n := t.groups.length
  let im := imageOf ws n
  let b := im.part
  let bars := (List.range t.nbars).foldl (fun m i =>
    let x := barrierOf (BitVec.ofNat 64 (leAt b (16 + 8 * i) 8))
    if x = {} then m else aset m i x) ([] : AMap Barrier)
  let phase (i : Nat) : BitVec 16 := (aget {} bars i : Barrier).phase
  let s := (List.range (32 * n)).foldl (fun s i =>
    let r := laneRef u (i / 32) (i % 32)
    let b := im.recs.getD i []
    s.setThread r ((readThread b (im.recBad.getD i [])).resume (readKind b) r note phase)) s
  let apOn := (leAt b 9 1).testBit 2
  let ap := readAp b im.bad
  let s := if apOn then s.setThread (apRef u) ap else { s with threads := adel s.threads (apRef u) }
  let rest := ws.drop (1024 + 128 * 32 * n)
  let groups := (t.groups.zip (List.range n)).map fun p =>
    let recs := (im.recs.drop (32 * p.2)).take 32
    let x (k : Nat) := readXmap (leAt b (160 + 3 * p.2 + k) 1) (holdersOf recs k)
    { p.1 with conv := (leAt b 146 2).testBit p.2, x0 := x 0, x1 := x 1, x2 := x 2, tile := none }
  let s := s.modTeam u fun t =>
    { t with groups := groups, bars := bars, z := BitVec.ofNat 16 (leAt b 144 2), escaped := (leAt b 9 1).testBit 1,
             streak := leAt b 10 1, dq := readFeeds (im.recs.take 32) l.protect,
             handles := (List.range 32).foldl (fun m i =>
               if (leAt b 148 4).testBit i then aset m i (unpackRecord ((b.drop (512 + 112 * i)).take 112)) else m) [],
             ext := readPool rest t.xpool, acc := readAcc (rest.drop (t.xpool * 1024)) t.accs,
             ap := { t.ap with running := apOn, started := if apOn then note.start else none,
                               settled := if apOn then some ap else none, unsettled := [], branches := [] },
             xwait := [], log := [], halt := none, shadow := false, zold := none }
  let s := s.fillPad (s.team u) 0 (rest.drop (1024 * (t.xpool + t.accs)))
  (note.order ++ (List.range n).filter fun g => !note.order.contains g).foldl (fun s g =>
    let x := aget (15, []) note.tiles g
    match readTile ((im.recs.drop (32 * g)).take 32) u g t.core t.ctx ((s.team u).groups.getD g noGroup).m x.1
        ((s.team u).groups.getD g noGroup).tilePc x.2 with
    | none => s
    | some o =>
      let (id, s) := s.fresh
      let stopped := (s.liveRefs u g).any fun r => (s.thread r).handler
      ({ s with ops := aset s.ops id (.tile o) }.modCore t.core fun c => { c with seq := c.seq ++ [id] }).modTeam u
        fun t => t.modGroup g fun x => { x with tile := some id, stopped := stopped }) s

/-- The end of a read of a saved state: read, waiting at a word's home, or a fault with its kind and address. -/
inductive LoadEnd where
  | done | waits
  | fault (kind va : Nat)
  deriving DecidableEq, Repr

/-- Reads a team's state back from its slot or from the shadow half of it.
DEDUCED, unsafe: notes/assumptions/48.md. -/
def State.restoreTeam (s : State) (u : Nat) (shadow : Bool) (e : Event) : LoadEnd × State :=
  let t := s.team u
  let rc := (s.launch t.launch).rc
  let va := rc.slotVa t.slot + (if shadow then rc.body else 0)
  let g := s.siteOf u 2
  match s.engineLocs g false va (rc.body / 4) with
  | (.error (.held w, _), s) => (.waits, s.awaitWord w e)
  | (.error (.fault k, a), s) => (.fault k a, s)
  | (.ok ls, s) =>
    match s.engineHolds g false e ls with
    | some s => (.waits, s)
    | none =>
      let (ws, s) := s.engineReads g .normal 0 ls
      (.done, s.loadTeam u (if shadow then t.shadowNote else t.note) ws)

/-! ## Drained teams -/

/-- A thread is in an EXIT or TLBINV that ends when its chain's accesses have been performed. -/
def Park.finishing : Park → Bool
  | .leaving => true
  | .tlbinv _ => true
  | _ => false

/-- Whether nothing of a team is under way any more that a stop has to wait for (06 R134 step 2; 13 R276, R281): requests of its
threads, instructions and arrivals that wait for them, block copies, drains, Chisel compiles.
DEDUCED, unsafe: notes/assumptions/52.md. -/
def State.drained (s : State) (u : Nat) : Bool :=
  !(s.reqs.any fun p => refKind p.2.ref != RefKind.steward && refTeam p.2.ref == u)
    && (s.team u).bars.all (fun p => p.2.due.isNone && p.2.owed.isEmpty) && (s.groupThreads u).all (fun p => !p.2.park.finishing)
    && !(s.ops.any fun p => match p.2 with
      | .copy o => o.team == u
      | .tile o => o.team == u && (o.captured || o.kind == TileKind.chpre)
      | _ => false)

/-- Takes the shadow of a team whose b0 has completed a phase (13 R280; 25 R453). The threads whose wait the phase completes have
passed it, and issue again when the shadow is written. A write that faults aborts the launch. -/
def State.takeShadow (s : State) (u : Nat) : State :=
  let s := s.modTeam u fun t => { t with streak := 0, escaped := false }
  let t := s.team u
  match s.saveTeam u true (teamEndEvent u) with
  | (.done, s) =>
    let note := s.flagNote u
    s.modTeam u fun t => { t with shadow := false, phased := true, shadowNote := note }
  | (.waits, s) => s
  | (.fault, s) => (s.modTeam u fun t => { t with shadow := false }).prepend
      [abortEvent t.launch 0x20 (BitVec.ofNat 32 t.tid)]

end Sys2Proof.Machine
end

