-- ==== Sys2Proof/Machine/Barrier.lean ====
section
/-!
DEFINITION. Machine/Barrier.lean: the named barriers, CBAR and GBAR (19 R392 to R399).
-/

namespace Sys2Proof.Machine

/-! ## Arrivals and phases (19 R393) -/

/-- A thread whose wait at a barrier the current phase `ph` ends: it goes on after its BARW, or will when it comes back from a tile
instruction's fault. -/
def Thread.passBar (t : Thread) (b : Nat) (ph : BitVec 16) : Thread :=
  match t.park, t.back with
  | .barw k p, _ => if k = b ∧ p ≠ ph then { t with park := .none, pc := nextSlot t.pc } else t
  | _, some (pc, .barw k p) => if k = b ∧ p ≠ ph then { t with back := some (nextSlot pc, .none) } else t
  | _, _ => t

/-- An arrival of a thread at a barrier is still to be made. -/
def Barrier.owes (x : Barrier) (r : Nat) : Bool := x.owed.any fun o => o.1 == r

/-- The threads of a team that wait for a phase of a barrier other than the current one go on. One whose arrival is still to be made
waits for another phase. -/
def State.releaseWaits (s : State) (u b : Nat) : State :=
  let t := s.team u
  let x : Barrier := aget {} t.bars b
  ((teamRefs u t.groups.length).filter fun r => !x.owes (s.primary r)).foldl (fun s r =>
    if (s.thread r).park = .none then s else s.modThread r fun y => y.passBar b x.phase) s

/-- What a completed phase does to a barrier. -/
def Barrier.complete (x : Barrier) : Barrier :=
  { x with phase := x.phase + 1, arrived := 0, bcur := false, bytes := if x.bcur then x.bytes else 0, due := none }

/-- Changes a barrier of a team. -/
def State.modBar (s : State) (u b : Nat) (f : Barrier → Barrier) : State :=
  s.modTeam u fun t => { t with bars := amod {} t.bars b f }

/-- The named barrier of a team. -/
def State.barAt (s : State) (u b : Nat) : Barrier := aget {} (s.team u).bars b

/-- A phase of a barrier completes. -/
def State.completePhase (s : State) (u b : Nat) : State := (s.modBar u b Barrier.complete).releaseWaits u b

/-- The requests of a team that a phase of b0 waits for: its held quantum accesses and commutative contributions, and the
publication of its log (09 R196, R198, R199, R202). -/
def State.phaseWork (s : State) (u : Nat) : List Nat :=
  (s.reqs.filter fun p => refKind p.2.ref == .lane && refTeam p.2.ref == u && (p.2.heldWork || p.2.kind == .publish)).map (·.1)

/-- CompletePhase, once every arrival has been made. A phase of b0 of a rollback launch publishes the log, whose events are
answered, and the team's shadow is due before any thread of it goes on and before anything arrives in the next phase (25 R453); a phase
of b0 completes when the team's held work and the publication have been performed, any other phase at once.
DESIGN CHOICE, unsafe: notes/assumptions/98.md. -/
def State.fillPhase (s : State) (u b : Nat) : List Event × State :=
  if b ≠ 0 then ([], s.completePhase u b)
  else
    if (s.launch (s.team u).launch).rollback then
      let (es, s) := s.publishLog u (laneRef u 0 0)
      let s := s.modTeam u fun t => { t with shadow := true }
      (es, s.modBar u b fun x => { x with due := some (s.phaseWork u) })
    else
      match s.phaseWork u with
      | [] => ([], s.completePhase u b)
      | ids => ([], s.modBar u b fun x => { x with due := some ids })

/-- Judges whether the arrivals of a barrier complete its phase. -/
def State.judgePhase (s : State) (u b : Nat) : List Event × State :=
  let x := s.barAt u b
  if x.arrived = x.expect then s.fillPhase u b else ([], s)

/-- An arrival at a barrier has to wait: a full phase cannot complete yet, or the shadow of the phase is to be taken first. -/
def State.barBusy (s : State) (u b : Nat) : Bool := (s.barAt u b).due.isSome || (b == 0 && (s.team u).shadow)

/-- ArriveCopy: the arrival of a copy or a drain with its byte count. One that comes while a full phase cannot complete yet arrives
in the next. -/
def State.arriveCopy (s : State) (u b n : Nat) : State :=
  let x := s.barAt u b
  if x.expect = 0 then s.prepend [abortEvent (s.team u).launch 0x0E (BitVec.ofNat 32 (s.team u).tid)]
  else if s.barBusy u b then s.modBar u b fun x => { x with late := x.late ++ [n] }
  else
    let s := s.modBar u b fun x =>
      { x with bytes := min ((if x.bcur then x.bytes else 0) + n) (2 ^ 24 - 1), bcur := true, arrived := x.arrived + 1 }
    let (es, s) := s.judgePhase u b
    s.prepend es

/-- The copies that came while b0 was busy arrive. -/
def State.arriveLate (s : State) (u : Nat) : State :=
  if s.barBusy u 0 then s
  else (s.barAt u 0).late.foldl (fun s n => s.arriveCopy u 0 n) (s.modBar u 0 fun x => { x with late := [] })

/-- A full phase of b0 completes when what it waits for has been performed, and the copies that came meanwhile arrive. -/
def State.settlePhase (s : State) (u : Nat) : State :=
  match (s.barAt u 0).due with
  | none => s
  | some ids => if ids.any fun id => ahas s.reqs id then s else (s.completePhase u 0).arriveLate u

/-! ## BINIT, BARV, BARW, BDROP -/

/-- BINIT of one team, with the count of its lowest active lane (19 R395). It waits while a full phase has still to complete, or an
arrival to be made.
DESIGN CHOICE, unsafe: notes/assumptions/98.md. -/
def initBarrier (b : Nat) (sa : Src) (s : State) (u : Nat) : State :=
  match s.lowest u with
  | none => s
  | some l =>
    if (s.team u).nbars ≤ b then s.excuseTeam u (trap 0x01 s.issue.word)
    else if (s.barAt u b).due.isSome ∨ !(s.barAt u b).owed.isEmpty then s.excuseTeam u .notReady
    else
      match readAll s l [sa] .none with
      | .error x => s.excuseTeam u x
      | .ok vs =>
        (popSrcs s l [sa]).modBar u b fun x =>
          if anyPsn vs then { x with init := false }
          else { phase := if x.init then x.phase else 0, init := true, expect := bitsOf (argAt vs 0) 10 0 }

/-- BINIT. -/
def execBinit (b : Fin 16) (sa : Src) (s : State) : Out := .next (s.actTeams.foldl (initBarrier b.val sa) s)

/-- The arrival of a thread, which has been checked (19 R393), with the events of a log that it publishes. -/
def State.arriveBar (s : State) (r b : Nat) (drop : Bool) : List Event × State :=
  let u := refTeam r
  (s.modBar u b fun x =>
    if drop then { x with expect := x.expect - 1, drops := r :: x.drops } else { x with arrived := x.arrived + 1 }).judgePhase u b

/-- The arrival of a lane of the bundle; one that comes after accesses of its own chain is made when they have been performed (09 R187,
R195). -/
def State.arrive (s : State) (r b : Nat) (drop : Bool) : State :=
  match s.ownRequests r with
  | [] =>
    let (es, s) := s.arriveBar r b drop
    s.emitAll r es
  | ids => s.modBar (refTeam r) b fun x => { x with owed := x.owed ++ [(r, drop, ids)] }

/-- A thread waits in BARW for the phase after `ph`, unless it has completed. -/
def State.waitPhase (s : State) (r b : Nat) (ph : BitVec 16) : State :=
  if (s.barAt (refTeam r) b).phase = ph then
    s.modThread r fun t => { t with pc := s.issue.here, park := .barw b ph }
  else s

/-- The shadow lane of a pair waits when its primary does. -/
def State.waitLike (s : State) (r : Nat) : State :=
  match (s.thread (partnerRef r)).park with
  | .barw b ph => s.modThread r fun t => { t with pc := s.issue.here, park := .barw b ph }
  | _ => s

/-- A thread that waits at a barrier waits for the end of a phase. -/
def Thread.waitFor (t : Thread) (b : Nat) (ph : BitVec 16) : Thread :=
  match t.park, t.back with
  | .barw k _, _ => if k = b then { t with park := .barw b ph } else t
  | _, some (pc, .barw k _) => if k = b then { t with back := some (pc, .barw b ph) } else t
  | _, _ => t

/-- Makes an arrival that has waited for accesses of its chain, unless it still has to wait. -/
def State.arriveNow (s : State) (u b : Nat) (o : Nat × Bool × List Nat) : State :=
  if s.barBusy u b ∨ o.2.2.any (fun id => ahas s.reqs id) then s
  else
    let ph := (s.barAt u b).phase
    let s := (if s.isProtected o.1 then [o.1, partnerRef o.1] else [o.1]).foldl (fun s r => s.modThread r fun t => t.waitFor b ph) s
    let (es, s) := (s.modBar u b fun x => { x with owed := x.owed.erase o }).arriveBar o.1 b o.2.1
    s.prepend es

/-- The arrivals of a team that have waited are made. -/
def State.arriveOwed (s : State) (u : Nat) : State :=
  (s.team u).bars.foldl (fun s p => p.2.owed.foldl (fun s o => s.arriveNow u p.1 o) s) s

/-- The members that a barrier counts once every arrival has been made. -/
def Barrier.members (x : Barrier) : Nat := x.expect - (x.owed.filter fun o => o.2.1).length

/-- One lane of BARV, BARW or BDROP (19 R393, R396): a release of team scope, which waits for what it orders (09 R195), and for a
full phase that cannot complete yet.
DEDUCED, unsafe: notes/assumptions/48.md. -/
def arriveLane (b : Nat) (drop wait : Bool) (s : State) (l : Lane) : State :=
  let t := s.team (refTeam l.ref)
  let x : Barrier := aget {} t.bars b
  if t.nbars ≤ b then s.excuse l (trap 0x01 s.issue.word)
  else if s.shadowed l then (if wait then s.waitLike l.ref else s)
  else if !x.init then s.excuse l (trap 0x0D (BitVec.ofNat 32 b))
  else if x.drops.contains l.ref ∨ x.members = 0 then s.excuse l (trap 0x0E (BitVec.ofNat 32 b))
  else if s.barBusy (refTeam l.ref) b || x.owes l.ref || s.releaseHolds l.ref then s.excuse l .notReady
  else
    let s := s.arrive l.ref b drop
    if wait then s.waitPhase l.ref b x.phase else s

/-- BARV. -/
def execBarv (b : Fin 16) (s : State) : Out := .next (s.forLanes (arriveLane b.val false false))

/-- BARW. -/
def execBarw (b : Fin 16) (s : State) : Out := .next (s.forLanes (arriveLane b.val false true))

/-- BDROP. -/
def execBdrop (b : Fin 16) (s : State) : Out := .next (s.forLanes (arriveLane b.val true false))

/-! ## BWAIT, BTEST, BPHASE (19 R397) -/

/-- The barrier that an instruction of a lane reads. -/
def State.barOf (s : State) (l : Lane) (b : Nat) : Barrier := s.barAt (refTeam l.ref) b

/-- The checks of BWAIT and BTEST in a lane: their operand, or the reason why the lane does not complete. -/
def readPhase (b : Nat) (sa : Src) (s : State) (l : Lane) : Except Excuse (List Val) :=
  if (s.team (refTeam l.ref)).nbars ≤ b then .error (trap 0x01 s.issue.word)
  else
    match readAll s l [sa] .none with
    | .error x => .error x
    | .ok vs => if (s.barOf l b).init then .ok vs else .error (trap 0x0D (BitVec.ofNat 32 b))

/-- The number of phases that have completed since a phase value. -/
def phasesSince (x : Barrier) (p : Dword) : Nat := (x.phase - p.setWidth 16).toNat

/-- One lane of BWAIT. -/
def bwaitLane (b : Nat) (sa : Src) (s : State) (l : Lane) : State :=
  match readPhase b sa s l with
  | .error x => s.excuse l x
  | .ok vs =>
    let d := phasesSince (s.barOf l b) (argAt vs 0)
    if anyPsn vs ∨ (1 ≤ d ∧ d ≤ 32767) then popSrcs s l [sa] else s.excuse l .notReady

/-- BWAIT. -/
def execBwait (b : Fin 16) (sa : Src) (s : State) : Out := .next (s.forLanes (bwaitLane b.val sa))

/-- One lane of BTEST. -/
def btestLane (b : Nat) (sa : Src) (s : State) (l : Lane) : State :=
  match readPhase b sa s l with
  | .error x => s.excuse l x
  | .ok vs =>
    (popSrcs s l [sa]).push l.ref
      { v := if (s.barOf l b).phase.getLsbD 0 != (argAt vs 0).getLsbD 0 then 1 else 0, psn := anyPsn vs }

/-- BTEST. -/
def execBtest (b : Fin 16) (sa : Src) (s : State) : Out := .next (s.forLanes (btestLane b.val sa)).pushOff

/-- One lane of BPHASE. -/
def bphaseLane (b : Nat) (s : State) (l : Lane) : State :=
  if (s.team (refTeam l.ref)).nbars ≤ b then s.excuse l (trap 0x01 s.issue.word)
  else s.push l.ref { v := (s.barOf l b).word }

/-- BPHASE. -/
def execBphase (b : Fin 16) (s : State) : Out := .next (s.forLanes (bphaseLane b.val)).pushOff

/-! ## CBAR and GBAR (19 R399) -/

/-- A lane arrives at a cohort or launch barrier: a rollback launch publishes its log and escapes. -/
def meetBar (p : Park) (s : State) (l : Lane) : State :=
  (s.escapeBy l.ref).modThread l.ref fun t => { t with pc := s.issue.here, park := p }

/-- CBAR. -/
def execCbar (s : State) : Out :=
  let us := s.actTeams
  .next (us.foldl (fun s u => s.passBars u) (s.forLanes (meetBar .cbar)))

/-- One lane of GBAR: only a resident launch has it. -/
def gbarLane (s : State) (l : Lane) : State :=
  if (s.launchOf l.ref).resident then meetBar .gbar s l else s.excuse l (trap 0x01 s.issue.word)

/-- GBAR. -/
def execGbar (s : State) : Out :=
  let us := s.actTeams
  .next (us.foldl (fun s u => s.passBars u) (s.forLanes gbarLane))

end Sys2Proof.Machine
end

