-- ==== Sys2Proof/Machine/Record.lean ====
section
/-!
DEFINITION. Machine/Record.lean: tensor records, tile coordinates and the addresses of elements (11 R225 to R228, R464; 10 R215).
-/

namespace Sys2Proof.Machine

/-- A tensor record as a handle or an engine reads it (11 R225). -/
structure Tensor where
  base  : Dword
  etype : Nat
  ndim  : Nat
  kax   : Bool
  kdir  : Bool
  slabs : Nat
  boxr  : Nat
  boxc  : Nat
  scale : Dword
  size  : List Nat
  stride : List Int    -- of dimensions 1 to 7
  deriving DecidableEq, Repr

/-- The fields of a record's 32 words. -/
def tensorOf (ws : List Word) : Tensor :=
  let b := wordsBytes ws
  { base := BitVec.ofNat 64 (leAt b 0 8), etype := leAt b 8 1, ndim := leAt b 9 1, kax := (leAt b 10 1).testBit 0,
    kdir := (leAt b 10 1).testBit 1, slabs := leAt b 12 2, boxr := leAt b 14 2, boxc := leAt b 16 2,
    scale := BitVec.ofNat 64 (leAt b 24 8), size := (List.range 8).map fun d => leAt b (32 + 4 * d) 4,
    stride := (List.range 7).map fun d => signedOf 64 (leAt b (64 + 8 * d) 8) }

/-- The width in bits of an element type. -/
def etypeWidth (e : Nat) : Nat := [32, 16, 16, 8, 6, 4].getD e 32

/-- The width of a record's elements. -/
def Tensor.width (t : Tensor) : Nat := etypeWidth t.etype

/-- A record is valid (11 R226). -/
def recordOk (ws : List Word) : Bool :=
  let b := wordsBytes ws
  let t := tensorOf ws
  let d (i : Nat) : Bool := i < t.ndim
  canonical t.base && t.base.toNat % 4 == 0 && decide (t.etype ≤ 5) && decide (2 ≤ t.ndim ∧ t.ndim ≤ 8)
    && decide (leAt b 10 1 < 4) && leAt b 11 1 == 0 && decide (1 ≤ t.boxr ∧ t.boxr ≤ 4096)
    && decide (1 ≤ t.boxc ∧ t.boxc ≤ 4096) && leAt b 18 6 == 0 && leAt b 120 8 == 0
    && (List.range 8).all (fun i => if d i then t.size.getD i 0 != 0 else t.size.getD i 0 == 0)
    && (List.range 7).all (fun i => if d (i + 1) then t.stride.getD i 0 % 4 == 0 else t.stride.getD i 0 == 0)
    && (!(t.etype == 4 || t.etype == 5) || (t.size.getD 0 0 % 16 == 0 && t.boxc % 16 == 0))

/-- Bytes 8k + 7 to 8k of a record replaced (19 R414, HSET). -/
def setRecord (ws : List Word) (k : Nat) (d : Dword) : List Word := (ws.set (2 * k) (loWord d)).set (2 * k + 1) (hiWord d)

/-! ## Coordinates (11 R227, R228) -/

/-- C0 of a coordinate word. -/
def coordC0 (c : Dword) : Nat := bitsOf c 23 0

/-- C1 of a coordinate word. -/
def coordC1 (c : Dword) : Nat := bitsOf c 47 24

/-- CH of a coordinate word. -/
def coordCh (c : Dword) : Nat := bitsOf c 63 48

/-- The number of positions of dimensions 2 and up. -/
def Tensor.planes (t : Tensor) : Nat := ((t.size.take t.ndim).drop 2).foldl (· * ·) 1

/-- The byte offset that CH gives: dimension 2 varies fastest. -/
def planeOffset : List Nat → List Int → Nat → Int
  | n :: ns, s :: ss, c => Int.ofNat (c % n) * s + planeOffset ns ss (c / n)
  | _, _, _ => 0

/-- The offset of a plane of a record. -/
def Tensor.plane (t : Tensor) (ch : Nat) : Int := planeOffset ((t.size.take t.ndim).drop 2) (t.stride.drop 1) ch

/-- An element position is in bounds. -/
def Tensor.inside (t : Tensor) (ch x0 x1 : Nat) : Bool :=
  decide (ch < t.planes) && decide (x0 < t.size.getD 0 0) && decide (x1 < t.size.getD 1 0)

/-- The bit address of an element, exactly (11 R226; 10 R215). -/
def Tensor.bitAddr (t : Tensor) (ch x0 x1 : Nat) : Int :=
  8 * (t.base.toInt + t.plane ch + Int.ofNat x1 * t.stride.getD 0 0) + Int.ofNat (x0 * t.width)

/-- The byte address of an element. -/
def Tensor.addr (t : Tensor) (ch x0 x1 : Nat) : Int := t.bitAddr ch x0 x1 / 8

/-- An address is canonical, as an exact number.
DEDUCED, unsafe: notes/assumptions/41.md. -/
def intCanonical (a : Int) : Bool := decide (-(2 ^ 56 : Int) ≤ a) && decide (a < (2 ^ 56 : Int))

/-- The positions of one axis that lie in bounds: from a first one, at most n. -/
def clip (first n size : Nat) : Nat := min n (size - first)

/-- The addresses of the in-bounds corners of a range of n0 by n1 positions (11 R464). -/
def Tensor.corners (t : Tensor) (ch x0 n0 x1 n1 : Nat) : List Int :=
  let k0 := clip x0 n0 (t.size.getD 0 0)
  let k1 := clip x1 n1 (t.size.getD 1 0)
  if k0 = 0 ∨ k1 = 0 ∨ t.planes ≤ ch then []
  else [t.addr ch x0 x1, t.addr ch (x0 + k0 - 1) x1, t.addr ch x0 (x1 + k1 - 1), t.addr ch (x0 + k0 - 1) (x1 + k1 - 1)]

/-- The lowest non-canonical address among corners, as it is saved in XADDR.
DEDUCED, unsafe: notes/assumptions/41.md. -/
def badCorner (as : List Int) : Option Dword :=
  ((as.filter fun a => !intCanonical a).map fun a => BitVec.ofInt 64 a).foldl (fun (b : Option Dword) a =>
    match b with
    | none => some a
    | some x => if a.toNat < x.toNat then some a else some x) none

/-- The virtual address of an exact address. -/
def vaOf (a : Int) : Nat := (BitVec.ofInt 57 a).toNat

end Sys2Proof.Machine
end

