-- ==== Sys2Proof/Machine/Copy.lean ====
section
/-!
DEFINITION. Machine/Copy.lean: block copies (11 R240 to R244; 19 R400 to R403).
-/

namespace Sys2Proof.Machine

/-! ## The words of a copy (11 R242) -/

/-- One word of a copy: its address in generic space, its local address and its bytes. -/
structure Piece where
  va   : Nat
  loc  : Nat
  mask : BitVec 4
  deriving DecidableEq, Repr

/-- The bytes between rows of a box in local memory. -/
def Tensor.pitch (t : Tensor) : Nat := 4 * ceilDiv (t.boxc * t.width) 32

/-- The in-bounds rows and columns of a box at a coordinate. -/
def Tensor.boxSize (t : Tensor) (c : Dword) : Nat × Nat :=
  if t.planes ≤ coordCh c then (0, 0)
  else (clip (coordC1 c) t.boxr (t.size.getD 1 0), clip (coordC0 c) t.boxc (t.size.getD 0 0))

/-- The words of a box, row by row. -/
def Tensor.pieces (t : Tensor) (c : Dword) (loc : Nat) : List Piece :=
  let (rows, cols) := t.boxSize c
  let bytes := cols * t.width / 8
  (List.range (if cols = 0 then 0 else rows)).flatMap fun r => (List.range (ceilDiv bytes 4)).map fun i =>
    { va := vaOf (t.addr (coordCh c) (coordC0 c) (coordC1 c + r) + Int.ofNat (4 * i)), loc := loc + r * t.pitch + 4 * i,
      mask := BitVec.ofNat 4 (2 ^ min 4 (bytes - 4 * i) - 1) }

/-- The words of a copy. -/
def CopyOp.pieces (o : CopyOp) : List Piece :=
  match o.kind with
  | .cpfill => (List.range (o.len / 4)).map fun i => { va := 0, loc := o.loc + 4 * i, mask := 15 }
  | _ => (tensorOf o.rc).pieces o.coord o.loc

/-- The byte count of a copy. -/
def CopyOp.count (o : CopyOp) : Nat :=
  match o.kind with
  | .cpfill => o.len
  | _ =>
    let (rows, cols) := (tensorOf o.rc).boxSize o.coord
    rows * cols * (tensorOf o.rc).width / 8

/-- The location of a word of local memory, if it exists (08 R172). -/
def State.padLoc (s : State) (u space off : Nat) : Option Loc :=
  if space = 1 then (if off < (s.team u).spad then some (.pad u off) else none)
  else
    match s.cohortTeam u (off / 2 ^ 19 % 16) with
    | some v => if off < 2 ^ 23 ∧ off % 2 ^ 19 < (s.team v).spad then some (.pad v (off % 2 ^ 19)) else none
    | none => none

/-- A range of local memory lies inside its space: the last word of it in every scratchpad that it meets exists.
DEDUCED, unsafe: notes/assumptions/54.md. -/
def State.padRange (s : State) (u space off len : Nat) : Bool :=
  if len = 0 then true
  else
    let last := off + len - 1
    (List.range (last / 2 ^ 19 + 1 - off / 2 ^ 19)).all fun k =>
      (s.padLoc u space (min last ((off / 2 ^ 19 + k + 1) * 2 ^ 19 - 1))).isSome

/-! ## Running a copy -/

/-- Replaces a copy. -/
def State.setCopy (s : State) (id : Nat) (o : CopyOp) : State := { s with ops := aset s.ops id (.copy o) }

/-- The error record of an engine's first access to an unbacked word (20 R438). -/
def State.opRecord (s : State) (u : Nat) (va : Nat) : State :=
  s.errRecord (s.team u).ctx 0 4 (BitVec.ofNat 32 (s.team u).tid) (ofVa (BitVec.ofNat 57 va))

/-- Moves one word between its locations. -/
def State.moveWord (s : State) (o : CopyOp) (g : Site) (p : Piece) (x : Loc) : State :=
  let cls := match x with
    | .dev w => classOf o.pol w
    | _ => .normal
  match s.padLoc o.team (polSpace o.pol) p.loc, o.kind with
  | none, _ => s
  | some y, .cpst =>
    let (d, psn, s) := s.engineRead g .normal 0 y
    s.engineWrite g cls d p.mask psn x
  | some y, _ =>
    let (d, psn, s) := s.engineRead g cls (polFill o.pol) x
    s.engineWrite g cls d p.mask psn y

/-- Copies the words that are left, until one faults (11 R244) or has to wait. -/
def State.runCopy (s : State) (id : Nat) (o : CopyOp) (g : Site) : List Piece → Bool × State
  | [] => (true, s.setCopy id o)
  | p :: ps =>
    match o.kind with
    | .cpfill =>
      let s := match s.padLoc o.team (polSpace o.pol) p.loc with
        | some y => s.engineWrite g .normal o.pattern 15 false y
        | none => s
      s.runCopy id { o with next := o.next + 1 } g ps
    | _ =>
      let write := o.kind == CopyKind.cpst
      match s.engineLoc g p.va write with
      | (.error (.held w), s) => (false, (s.setCopy id o).awaitWord w (event .copyComplete { id := id }))
      | (.error (.fault k), s) =>
        let (i, s) := s.engineFault g p.va k
        (false, s.setCopy id { o with fault := some i })
      | (.ok x, s) =>
        match s.engineHold g write (event .copyComplete { id := id }) x with
        | some s => (false, s.setCopy id o)
        | none =>
          let new := x == Loc.none && !o.bad
          let s := if new then s.opRecord o.team p.va else s
          (s.moveWord o g p x).runCopy id { o with next := o.next + 1, bad := o.bad || new } g ps

/-- Whether an older access of the threads that issued an operation is still under way (09 R201, the fork edge). Accesses with declared
use quantum or non-ordering are excepted, but for the writes before a tile instruction, `all` of which are waited for (11 R231). -/
def State.forkHolds (s : State) (lanes : List Nat) (id : Nat) (all : Bool := false) : Bool :=
  s.reqs.any fun p =>
    let x := p.2
    decide (p.1 < id) && lanes.any x.by && x.kind != .prefetch && x.kind != .fence
      && ((all && x.kind.isWrite) || (polUse x.pol != 2 && polUse x.pol != 3))

/-- A copy may run: it is among the four in flight of its queue, those before it have started, no fault record is outstanding, and its
fork edge is met. -/
def State.copyRuns (s : State) (id : Nat) (o : CopyOp) : Bool :=
  let c := s.core o.core
  let q := match o.kind with
    | .cpst => c.storeq
    | _ => c.loadq
  let started (k : Nat) : Bool := match aget? s.ops k with
    | some (.copy x) => x.started
    | _ => true
  (q.take 4).contains id && (q.takeWhile (· != id)).all started && o.fault.isNone && !s.forkHolds o.lanes id

/-- The end of a copy (11 R243): its queue entry is freed, its flag clears, it arrives at its barrier, and its team may end. -/
def State.endCopy (s : State) (id : Nat) (o : CopyOp) : State :=
  let s := { s with ops := adel s.ops id }.modCore o.core fun c =>
    { c with loadq := c.loadq.filter (· != id), storeq := c.storeq.filter (· != id) }
  let s := (s.clearFlags o.lanes o.flag).prepend [teamEndEvent o.team]
  match o.bar with
  | some b => s.arriveCopy o.team b o.count
  | none => s

/-- COPY_COMPLETE (11 R243): a copy moves what it can; after its last word it ends. -/
def execCopyComplete (s : State) : Out :=
  let id := s.ev.id
  match aget? s.ops id with
  | some (.copy o) =>
    if s.copyRuns id o then
      match s.runCopy id { o with started := true } (s.siteOf o.team 2) (o.pieces.drop o.next) with
      | (true, s) => .next (s.endCopy id o)
      | (false, s) => .next s
    else .next s
  | _ => .next s

/-! ## Issuing a copy (19 R401 to R403) -/

/-- The policy that a copy accepts (19 R401). -/
def copyPolicyOk (p : Word) : Bool := polOrder p == 0 && polUse p == 0 && polScope p ≤ 5 && (polSpace p == 1 || polSpace p == 2)

/-- The first reason among checks that fail, in their order. -/
def firstBad : List (Bool × Excuse) → Option Excuse
  | [] => none
  | (b, x) :: r => if b then some x else firstBad r

/-- The copy that a lane issues, before its checks. -/
def copyOf (b : State) (kind : CopyKind) (h : Nat) (bar : Option Nat) (pol : Word) (flag : Nat) (l : Lane) (lanes : List Nat)
    (sa n8 : Dword) : CopyOp :=
  let t := b.preTeam l.ref
  let fill := kind == CopyKind.cpfill
  { kind := kind, team := refTeam l.ref, core := t.core, kid := t.ctx, flag := flag, lanes := lanes, bar := bar, pol := pol,
    rc := if fill then [] else aget [] t.handles h, coord := n8, loc := sa.toNat,
    len := if fill then bitsOf n8 55 32 else 0, pattern := loWord n8 }

/-- The bytes of local memory that a copy's box or range takes, out-of-bounds elements included. -/
def CopyOp.span (o : CopyOp) : Nat :=
  match o.kind with
  | .cpfill => o.len
  | _ => (tensorOf o.rc).boxr * (tensorOf o.rc).pitch

/-- The corners of the box of a copy. -/
def CopyOp.corners (o : CopyOp) : List Int :=
  match o.kind with
  | .cpfill => []
  | _ =>
    let t := tensorOf o.rc
    t.corners (coordCh o.coord) (coordC0 o.coord) t.boxc (coordC1 o.coord) t.boxr

/-- The bounding interval of addresses. -/
def boundOf (as : List Int) (width : Nat) : List (Nat × Nat) :=
  let ns := as.map fun a => (BitVec.ofInt 64 a).toNat
  match ns with
  | [] => []
  | n :: r => [(r.foldl min n, r.foldl max n + ceilDiv width 8)]

/-- The checks of 19 R403 that follow the reading of the operands. -/
def copyFault (b : State) (o : CopyOp) (differs : Bool) : Option Excuse :=
  let fill := o.kind == CopyKind.cpfill
  let space : Word := BitVec.ofNat 32 (polSpace o.pol)
  firstBad [
    (differs, trap 0x12),
    ((badCorner o.corners).isSome, trap 0x06 0 ((badCorner o.corners).getD 0)),
    (!fill && coordC0 o.coord % 16 != 0, trap 0x07 0 o.coord),
    (o.loc % 4 != 0, trap 0x07 0 (BitVec.ofNat 64 o.loc)),
    (fill && o.len % 4 != 0, trap 0x07 0 o.coord),
    (!b.padRange o.team (polSpace o.pol) o.loc o.span || (fill && bitsOf o.coord 63 56 != 0),
      trap 0x08 space (BitVec.ofNat 64 o.loc)),
    (match o.bar with
      | some k => !(aget {} (b.team o.team).bars k : Barrier).init
      | none => false, trap 0x0D (BitVec.ofNat 32 (o.bar.getD 0)))]

/-- The copy that a team's producer group enqueues, or the reason why it does not.
DEDUCED, unsafe: notes/assumptions/54.md. -/
def copyCheck (b : State) (kind : CopyKind) (h : Nat) (bar : Option Nat) (m : Fin 8) (flag : Nat) (sa : Src) (l : Lane)
    (lanes : List Nat) : Except Excuse CopyOp :=
  let pol := l.pol m
  let fill := kind == CopyKind.cpfill
  if !copyPolicyOk pol then .error (trap 0x03 pol)
  else if !fill && !ahas (b.preTeam l.ref).handles h then .error (trap 0x05 (BitVec.ofNat 32 h))
  else
    match readConsumed b l [sa, .n 8] with
    | .error x => .error x
    | .ok vs =>
      let o := copyOf b kind h bar pol flag l lanes (argAt vs 0) (argAt vs 1)
      match copyFault b o (b.pairDiffers l [sa, .n 8]) with
      | some x => .error x
      | none => .ok { o with glo := boundOf o.corners (tensorOf o.rc).width, lrange := (o.loc, o.loc + o.span) }

/-- Enqueues a copy (11 R240): one to generic memory publishes the log first (09 R203). -/
def State.enqueueCopy (s : State) (l : Lane) (sa : Src) (o : CopyOp) : State :=
  let s := popSrcs s l [sa]
  let s := if o.kind == CopyKind.cpst then s.escapeBy l.ref else s
  let (id, s) := s.fresh
  let s := (s.setCopy id o).modCore o.core fun c =>
    if o.kind == CopyKind.cpst then { c with storeq := c.storeq ++ [id] } else { c with loadq := c.loadq ++ [id] }
  (o.lanes.foldl (fun s r => s.setFlag r o.flag) s).emit l.ref (event .copyComplete { id := id })

/-- The active lanes of a team's producer group. -/
def State.producers (b : State) (u : Nat) : List Lane :=
  b.issue.act.filter fun l => refTeam l.ref = u ∧ refGrp l.ref = (b.launch (b.team u).launch).rc.producer

/-- A copy of one team of the bundle (06 R463; 19 R401): lanes outside the producer group trap. -/
def copyTeam (b : State) (kind : CopyKind) (h bar : Nat) (ben fs : Bool) (m : Fin 8) (sa : Src) (s : State) (u : Nat) : State :=
  let ls := b.issue.act.filter fun l => refTeam l.ref = u
  if ben ∧ (b.team u).nbars ≤ bar then ls.foldl (fun s l => s.excuse l (trap 0x01 b.issue.word)) s
  else
    let ps := b.producers u
    let s := ls.foldl (fun s l => if ps.contains l then s else s.excuse l (trap 0x0B)) s
    match ps with
    | [] => s
    | l :: _ =>
      match copyCheck b kind h (if ben then some bar else none) m (b.issue.flag fs) sa l (ps.map (·.ref)) with
      | .error x => ps.foldl (fun s l => s.excuse l x) s
      | .ok o => s.enqueueCopy l sa o

/-- The copies that a bundle would enqueue: one for each team whose producer group passes the checks. -/
def copyCount (b : State) (kind : CopyKind) (h bar : Nat) (ben fs : Bool) (m : Fin 8) (sa : Src) : Nat :=
  (b.actTeams.filter fun u =>
    !(ben && decide ((b.team u).nbars ≤ bar)) && (match b.producers u with
      | [] => false
      | l :: ls => match copyCheck b kind h (if ben then some bar else none) m (b.issue.flag fs) sa l ((l :: ls).map (·.ref)) with
        | .ok _ => true
        | .error _ => false)).length

/-- The free entries of the queue of a copy's kind (11 R240). -/
def State.copyRoom (s : State) (core : Nat) (kind : CopyKind) : Nat :=
  match kind with
  | .cpst => 16 - (s.core core).storeq.length
  | _ => 16 - (s.core core).loadq.length

/-- The core on which the bundle issues. -/
def State.issueCore (s : State) : Nat := match s.issue.act with
  | [] => 0
  | l :: _ => s.coreOf l.ref

/-- A copy instruction in every team of the bundle; a queue without room for its copies stalls the bundle (11 R240). -/
def copyInstr (kind : CopyKind) (h bar : Nat) (ben fs : Bool) (m : Fin 8) (sa : Src) (s : State) : State :=
  if s.copyRoom s.issueCore kind < copyCount s kind h bar ben fs m sa then s.excuseBundle .notReady
  else s.actTeams.foldl (copyTeam s kind h bar ben fs m sa) s

/-- CPLD. -/
def execCpld (h : Fin 32) (bar : Fin 16) (ben fs : Bool) (m : Fin 8) (sa : Src) (s : State) : Out :=
  .next (copyInstr .cpld h.val bar.val ben fs m sa s)

/-- CPST. -/
def execCpst (h : Fin 32) (bar : Fin 16) (ben fs : Bool) (m : Fin 8) (sa : Src) (s : State) : Out :=
  .next (copyInstr .cpst h.val bar.val ben fs m sa s)

/-- CPFILL. -/
def execCpfill (bar : Fin 16) (ben fs : Bool) (m : Fin 8) (sa : Src) (s : State) : Out :=
  .next (copyInstr .cpfill 0 bar.val ben fs m sa s)

end Sys2Proof.Machine
end

