-- ==== Sys2Proof/Machine/Narrow.lean ====
section
/-!
DEFINITION. Machine/Narrow.lean: format registers, narrow codes and conversions between every pair of classes (10 R212 to R219).
-/

namespace Sys2Proof.Machine

/-- A narrow float format (10 R212): sign bits, exponent bits, mantissa bits, bias, special codes. -/
structure NFmt where
  s    : Nat
  e    : Nat
  m    : Nat
  bias : Int
  spec : Nat
  deriving DecidableEq, Repr

/-- The class of a code. -/
inductive NumTy where
  | ieee (f : Fmt)
  | nar (f : NFmt)
  | int (signed : Bool) (w : Nat)
  | h4
  deriving DecidableEq, Repr

/-- The reserved bits of a format register are zero (10 R212). -/
def fmtReserved (f : Word) : Bool := bitsOf f 23 19 == 0 && bitsOf f 15 12 == 0 && bitsOf f 3 1 == 0

/-- The format register is valid for a narrow float of a width (10 R213). -/
def fmtFloatOk (w : Nat) (f : Word) : Bool :=
  fmtReserved f && !f.getLsbD 18 && bitsOf f 17 16 != 3
    && bitsOf f 0 0 + bitsOf f 7 4 + bitsOf f 11 8 == w && bitsOf f 7 4 != 0
    && !(bitsOf f 17 16 == 1 && bitsOf f 7 4 == 1)

/-- The format register is valid for integer use at a width (10 R213). -/
def fmtIntOk (w : Nat) (f : Word) : Bool := fmtReserved f && !(w == 8 && f.getLsbD 18)

/-- The format register is valid for an h4 operand (17 R358). -/
def fmtHalfOk (f : Word) : Bool := fmtReserved f && f.getLsbD 18

/-- The narrow float format of a register (10 R212). -/
def nfmtOf (f : Word) : NFmt :=
  { s := bitsOf f 0 0, e := bitsOf f 7 4, m := bitsOf f 11 8, bias := signedOf 8 (bitsOf f 31 24), spec := bitsOf f 17 16 }

/-- The smallest exponent of a narrow float. -/
def NFmt.emin (f : NFmt) : Int := 1 - f.bias

/-- The largest finite code, without the sign (10 R216). -/
def NFmt.top (f : NFmt) : Nat :=
  match f.spec with
  | 0 => 2 ^ (f.e + f.m) - 1
  | 1 => (2 ^ f.e - 1) * 2 ^ f.m - 1
  | _ => 2 ^ (f.e + f.m) - 2

/-- A code with its sign. -/
def NFmt.signed (f : NFmt) (neg : Bool) (code : Nat) : Nat := (if neg && f.s == 1 then 2 ^ (f.e + f.m) else 0) + code

/-- Decode (10 R214). -/
def NFmt.decode (f : NFmt) (c : Nat) : Num :=
  let m := c % 2 ^ f.m
  let e := c / 2 ^ f.m % 2 ^ f.e
  let neg := f.s == 1 && c.testBit (f.e + f.m)
  if f.spec = 1 ∧ e = 2 ^ f.e - 1 then (if m = 0 then .inf neg else .nan false)
  else if f.spec = 2 ∧ c % 2 ^ (f.e + f.m) = 2 ^ (f.e + f.m) - 1 then .nan false
  else if e = 0 then .fin neg m (f.emin - f.m)
  else .fin neg (m + 2 ^ f.m) ((e : Int) - f.bias - f.m)

/-- RoundToNarrow (10 R216). -/
def NFmt.round (f : NFmt) (mode : Mode) : Num → Nat × FpFlags
  | .nan _ =>
    (match f.spec with
      | 0 => 0
      | _ => 2 ^ (f.e + f.m) - 1, { nv := true })
  | .inf neg =>
    if neg && f.s == 0 then (0, { nv := true })
    else if f.spec = 1 then (f.signed neg ((2 ^ f.e - 1) * 2 ^ f.m), {})
    else (f.signed neg f.top, { of := true })
  | .fin neg m e =>
    if m = 0 then (f.signed neg 0, {})
    else if neg && f.s == 0 then (0, { nv := true })
    else
      let ex := (log2 m : Int) + e
      let k := max ex f.emin - f.m
      let (q, nx) := roundUnits mode neg m e k
      let code := (k - (f.emin - f.m)).toNat * 2 ^ f.m + q
      if f.top < code then (f.signed neg f.top, { of := true, nx := true })
      else (f.signed neg code, { uf := nx && code < 2 ^ f.m, nx := nx })

/-- A code of an integer class (10 R217). -/
def intCode (w : Nat) (x : Int) : Nat := (x % (2 ^ w : Nat)).toNat

/-- The least value of an integer class. -/
def intLow (signed : Bool) (w : Nat) : Int := if signed then -(2 ^ (w - 1) : Nat) else 0

/-- The greatest value of an integer class. -/
def intHigh (signed : Bool) (w : Nat) : Int := if signed then (2 ^ (w - 1) : Nat) - 1 else (2 ^ w : Nat) - 1

/-- RoundToInt (10 R218) for an integer class other than h4: the value and the flags. -/
def roundInt (signed : Bool) (w : Nat) (mode : Mode) : Num → Int × FpFlags
  | .nan _ => (0, { nv := true })
  | .inf neg => (if neg then intLow signed w else intHigh signed w, { nv := true })
  | .fin neg m e =>
    let (q, nx) := roundUnits mode neg m e 0
    let v : Int := if neg then -q else q
    if v < intLow signed w then (intLow signed w, { nv := true, nx := true })
    else if intHigh signed w < v then (intHigh signed w, { nv := true, nx := true })
    else (v, { nx := nx })

/-- The code of the h4 value of a sign and a step: magnitude step + 1/2, with two's complement code n of value n + 1/2. -/
def halfCode (neg : Bool) (step : Nat) : Nat := if neg then 15 - step else step

/-- Rounds to the h4 grid (10 R217 to R219). -/
def roundHalf (mode : Mode) : Num → Nat × FpFlags
  | .nan _ => (0, { nv := true })
  | .inf neg => (halfCode neg 7, { nv := true })
  | .fin neg m e =>
    let k := min e (-1)
    let v := m * pow2 (e - k)        -- the magnitude in units of 2^k
    let half := pow2 (-1 - k)        -- one half in these units
    if v < half then
      let n := match mode with
        | .ru => false
        | .rd => true
        | _ => neg
      (halfCode n 0, { nx := true })
    else
      let d := 2 * half
      let q := (v - half) / d
      let r := (v - half) % d
      let up := match mode with
        | .rne => decide (d < 2 * r)
        | .rz => false
        | .ru => !neg && r != 0
        | .rd => neg && r != 0
        | .sr draw => decide (2 ^ 24 ≤ r * 2 ^ 24 / d + draw)
      let q := if up then q + 1 else q
      if 7 < q then (halfCode neg 7, { nv := true, nx := true }) else (halfCode neg q, { nx := r != 0 })

/-- The value of an h4 code. -/
def halfValue (c : Nat) : Num :=
  let x := 2 * signedOf 4 c + 1
  .fin (decide (x < 0)) x.natAbs (-1)

/-- The value of a code of a class; FTZ bears on the IEEE classes only (10 R211). -/
def NumTy.decode (t : NumTy) (ftz : Bool) (c : Nat) : Num :=
  match t with
  | .ieee f => f.decode ftz (c % 2 ^ f.width)
  | .nar f => f.decode (c % 2 ^ (f.s + f.e + f.m))
  | .int signed w => Num.ofInt (if signed then signedOf w c else (c % 2 ^ w : Nat))
  | .h4 => halfValue (c % 16)

/-- A value converted to a class: the code, extended to 64 bits for the signed classes (17 R357), and the flags. -/
def NumTy.convert (t : NumTy) (mode : Mode) (ftz : Bool) (x : Num) : Nat × FpFlags :=
  match t with
  | .ieee f =>
    let (c, g) := f.round mode ftz x
    (c, { g with nv := x.isSig })
  | .nar f => f.round mode x
  | .int signed w =>
    let (v, g) := roundInt signed w mode x
    (intCode 64 v, g)
  | .h4 => roundHalf mode x

/-- The width of a class. -/
def NumTy.width : NumTy → Nat
  | .ieee f => f.width
  | .nar f => f.s + f.e + f.m
  | .int _ w => w
  | .h4 => 4

/-- The format register that a type reads in a thread, if it reads one, and whether it is valid (17 R358).
DEDUCED, unsafe: notes/assumptions/23.md. -/
def tyFormat (t : Thread) : Ty → Option (Word × Bool)
  | .x8 k => some (t.f[k], fmtFloatOk 8 t.f[k])
  | .x6 k => some (t.f[k], fmtFloatOk 6 t.f[k])
  | .x4 k => some (t.f[k], fmtFloatOk 4 t.f[k])
  | .h4 => some (t.f[0], fmtHalfOk t.f[0])
  | _ => none

/-- The class that a type names in a thread (14 R299).
DEDUCED, unsafe: notes/assumptions/23.md. -/
def tyClass (t : Thread) : Ty → NumTy
  | .i8 => .int true 8
  | .i16 => .int true 16
  | .i32 => .int true 32
  | .i64 => .int true 64
  | .w8 => .int false 8
  | .w16 => .int false 16
  | .w32 => .int false 32
  | .w64 => .int false 64
  | .i4 => .int true 4
  | .w4 => .int false 4
  | .h4 => .h4
  | .f64 => .ieee fmt64
  | .f32 => .ieee fmt32
  | .f16 => .ieee fmt16
  | .bf16 => .ieee fmtB16
  | .x8 k => .nar (nfmtOf t.f[k])
  | .x6 k => .nar (nfmtOf t.f[k])
  | .x4 k => .nar (nfmtOf t.f[k])
  | .bad _ => .int false 0

end Sys2Proof.Machine
end

