-- ==== Sys2Proof/Machine/Float.lean ====
section
/-!
DEFINITION. Machine/Float.lean: floating-point instructions (17 R346 to R356) and compares (R355). Every word of a chain reads
FPCTL as it stood before the chain (R348).
-/

namespace Sys2Proof.Machine

/-! ## Shared shapes -/

/-- One lane of a floating-point instruction: its value is pushed and written, and its flags are raised (10 R208). -/
def fpLane (srcs : List Src) (d : Dst) (f : Thread → List Val → Nat × FpFlags) (s : State) (l : Lane) : State :=
  match readAll s l srcs d with
  | .error x => s.excuse l x
  | .ok vs =>
    let (v, g) := f l.pre vs
    ((popSrcs s l srcs).produce l.ref d { v := BitVec.ofNat 64 v, psn := anyPsn vs }).raise l.ref g

/-- A floating-point instruction in every lane. -/
def fpOp (srcs : List Src) (d : Dst) (f : Thread → List Val → Nat × FpFlags) (s : State) : State :=
  (s.forLanes (fpLane srcs d f)).pushOff

/-- An operand of a format in a thread, from the low bits of a source (17 R346), flushed by FTZ (10 R211). -/
def fpArg (f : Fmt) (t : Thread) (vs : List Val) (i : Nat) : Num := f.decode t.ftz ((argAt vs i).toNat % 2 ^ f.width)

/-- An exact result with its flags, rounded into a format. -/
def fpRound (f : Fmt) (t : Thread) (mode : Mode) (x : Num × FpFlags) : Nat × FpFlags :=
  let (c, g) := f.round mode t.ftz x.1
  (c, x.2.join g)

/-- A function of one operand. -/
def fp1 (f : Fmt) (mode : Thread → Mode) (op : Num → Num × FpFlags) (t : Thread) (vs : List Val) : Nat × FpFlags :=
  fpRound f t (mode t) (op (fpArg f t vs 0))

/-- A function of two operands. -/
def fp2 (f : Fmt) (mode : Thread → Mode) (op : Mode → Num → Num → Num × FpFlags) (t : Thread) (vs : List Val) :
    Nat × FpFlags :=
  fpRound f t (mode t) (op (mode t) (fpArg f t vs 0) (fpArg f t vs 1))

/-- A function of three operands. -/
def fp3 (f : Fmt) (mode : Thread → Mode) (op : Mode → Num → Num → Num → Num × FpFlags) (t : Thread) (vs : List Val) :
    Nat × FpFlags :=
  fpRound f t (mode t) (op (mode t) (fpArg f t vs 0) (fpArg f t vs 1) (fpArg f t vs 2))

/-- Element e of a packed pair (10 R205). -/
def halfVal (v : Val) (e : Nat) : Val := { v with v := BitVec.ofNat 64 (v.v.toNat / 2 ^ (16 * e) % 2 ^ 16) }

/-- A function applied to the two elements of packed operands, each on its own (17 R352). -/
def packed (op : Thread → List Val → Nat × FpFlags) (t : Thread) (vs : List Val) : Nat × FpFlags :=
  let (a, f) := op t (vs.map fun v => halfVal v 0)
  let (b, g) := op t (vs.map fun v => halfVal v 1)
  (a + b * 2 ^ 16, f.join g)

/-- a − b. -/
def Num.sub (mode : Mode) (a b : Num) : Num × FpFlags := a.add mode b.negate

/-- A choice that does not round (17 R349). -/
def noMode (op : Num → Num → Num × FpFlags) (_ : Mode) (a b : Num) : Num × FpFlags := op a b

/-! ## f32 and packed halves -/

/-- FADD (17 R349). -/
def execFadd (sa : Src) (sb : SSrc) (rm : Rm) (d : Dst) (s : State) : Out :=
  .next (fpOp [sa, sb.long] d (fp2 fmt32 (fun t => t.rm rm) Num.add) s)

/-- FSUB (17 R349). -/
def execFsub (sa : Src) (sb : SSrc) (rm : Rm) (d : Dst) (s : State) : Out :=
  .next (fpOp [sa, sb.long] d (fp2 fmt32 (fun t => t.rm rm) Num.sub) s)

/-- FMUL (17 R349). -/
def execFmul (sa : Src) (sb : SSrc) (rm : Rm) (d : Dst) (s : State) : Out :=
  .next (fpOp [sa, sb.long] d (fp2 fmt32 (fun t => t.rm rm) (noMode Num.mul)) s)

/-- FMIN (17 R349). -/
def execFmin (sa : Src) (sb : SSrc) (d : Dst) (s : State) : Out :=
  .next (fpOp [sa, sb.long] d (fp2 fmt32 (fun _ => .rne) (noMode Num.min)) s)

/-- FMAX (17 R349). -/
def execFmax (sa : Src) (sb : SSrc) (d : Dst) (s : State) : Out :=
  .next (fpOp [sa, sb.long] d (fp2 fmt32 (fun _ => .rne) (noMode Num.max)) s)

/-- Bits 30:0 of a with a sign (17 R350). -/
def withSign (a : Dword) (neg : Bool) : Dword := BitVec.ofNat 64 (a.toNat % 2 ^ 31 + (if neg then 2 ^ 31 else 0))

/-- FSGN.cp (17 R350). -/
def execFsgnCp (sa : Src) (sb : SSrc) (d : Dst) (s : State) : Out :=
  .next (binOp sa sb.long d (fun a b => withSign a (b.getLsbD 31)) s)

/-- FSGN.cpn (17 R350). -/
def execFsgnCpn (sa : Src) (sb : SSrc) (d : Dst) (s : State) : Out :=
  .next (binOp sa sb.long d (fun a b => withSign a (!b.getLsbD 31)) s)

/-- FSGN.x (17 R350). -/
def execFsgnX (sa : Src) (sb : SSrc) (d : Dst) (s : State) : Out :=
  .next (binOp sa sb.long d (fun a b => withSign a (a.getLsbD 31 != b.getLsbD 31)) s)

/-- FRND (17 R351). -/
def execFrnd (sa : Src) (rm : Rm) (d : Dst) (s : State) : Out :=
  .next (fpOp [sa] d (fun t => fp1 fmt32 (fun t => t.rm rm) (Num.integral (t.rm rm)) t) s)

/-- HADD2.f16 (17 R352). -/
def execHadd2F16 (sa : Src) (sb : SSrc) (rm : Rm) (d : Dst) (s : State) : Out :=
  .next (fpOp [sa, sb.long] d (packed (fp2 fmt16 (fun t => t.rm rm) Num.add)) s)

/-- HMUL2.f16 (17 R352). -/
def execHmul2F16 (sa : Src) (sb : SSrc) (rm : Rm) (d : Dst) (s : State) : Out :=
  .next (fpOp [sa, sb.long] d (packed (fp2 fmt16 (fun t => t.rm rm) (noMode Num.mul))) s)

/-- HADD2.bf16 (17 R352). -/
def execHadd2Bf16 (sa : Src) (sb : SSrc) (rm : Rm) (d : Dst) (s : State) : Out :=
  .next (fpOp [sa, sb.long] d (packed (fp2 fmtB16 (fun t => t.rm rm) Num.add)) s)

/-- HMUL2.bf16 (17 R352). -/
def execHmul2Bf16 (sa : Src) (sb : SSrc) (rm : Rm) (d : Dst) (s : State) : Out :=
  .next (fpOp [sa, sb.long] d (packed (fp2 fmtB16 (fun t => t.rm rm) (noMode Num.mul))) s)

/-! ## FPCTL -/

/-- One lane of FPCTL (17 R353): the old value as it stood before the chain is pushed, and the write follows the flags that
earlier words of the chain raised (R348).
DEDUCED, unsafe: notes/assumptions/21.md. -/
def fpctlLane (sa : Src) (d : Dst) (s : State) (l : Lane) : State :=
  match readAll s l [sa] d with
  | .error x => s.excuse l x
  | .ok vs =>
    let a := loWord (argAt vs 0)
    let m := (a >>> 16) &&& fpctlMask
    let s := popSrcs s l [sa]
    let s := if anyPsn vs then s
      else s.modThread l.ref fun t => { t with fpctl := (t.fpctl &&& ~~~m) ||| (a &&& m) }
    s.produce l.ref d { v := l.pre.fpctl.setWidth 64, psn := anyPsn vs }

/-- FPCTL.
DEDUCED, unsafe: notes/assumptions/21.md. -/
def execFpctl (sa : Src) (d : Dst) (s : State) : Out := .next (s.forLanes (fpctlLane sa d)).pushOff

/-! ## Three sources (17 R354) -/

/-- FFMA. -/
def execFfma (sa sb sc : SSrc) (rm : Rm2) (d : Dst) (s : State) : Out :=
  .next (fpOp [sa.long, sb.long, sc.long] d (fp3 fmt32 (fun t => t.rm2 rm) Num.fma) s)

/-- HFMA2.f16. -/
def execHfma2F16 (sa sb sc : SSrc) (rm : Rm2) (d : Dst) (s : State) : Out :=
  .next (fpOp [sa.long, sb.long, sc.long] d (packed (fp3 fmt16 (fun t => t.rm2 rm) Num.fma)) s)

/-- HFMA2.bf16. -/
def execHfma2Bf16 (sa sb sc : SSrc) (rm : Rm2) (d : Dst) (s : State) : Out :=
  .next (fpOp [sa.long, sb.long, sc.long] d (packed (fp3 fmtB16 (fun t => t.rm2 rm) Num.fma)) s)

/-- DFMA. -/
def execDfma (sa sb sc : SSrc) (rm : Rm2) (d : Dst) (s : State) : Out :=
  .next (fpOp [sa.long, sb.long, sc.long] d (fp3 fmt64 (fun t => t.rm2 rm) Num.fma) s)

/-- DADD. -/
def execDadd (sa sb : SSrc) (rm : Rm2) (d : Dst) (s : State) : Out :=
  .next (fpOp [sa.long, sb.long] d (fp2 fmt64 (fun t => t.rm2 rm) Num.add) s)

/-- DMUL. -/
def execDmul (sa sb : SSrc) (rm : Rm2) (d : Dst) (s : State) : Out :=
  .next (fpOp [sa.long, sb.long] d (fp2 fmt64 (fun t => t.rm2 rm) (noMode Num.mul)) s)

/-! ## Functions (17 R356) -/

/-- FRCP. -/
def execFrcp (sa : Src) (rm : Rm) (d : Dst) (s : State) : Out :=
  .next (fpOp [sa] d (fp1 fmt32 (fun t => t.rm rm) recipNum) s)

/-- FRSQ. -/
def execFrsq (sa : Src) (rm : Rm) (d : Dst) (s : State) : Out :=
  .next (fpOp [sa] d (fp1 fmt32 (fun t => t.rm rm) rsqrtNum) s)

/-- FSQRT. -/
def execFsqrt (sa : Src) (rm : Rm) (d : Dst) (s : State) : Out :=
  .next (fpOp [sa] d (fp1 fmt32 (fun t => t.rm rm) sqrtNum) s)

/-- FEX2. -/
def execFex2 (sa : Src) (rm : Rm) (d : Dst) (s : State) : Out :=
  .next (fpOp [sa] d (fp1 fmt32 (fun t => t.rm rm) exp2Num) s)

/-- FLG2. -/
def execFlg2 (sa : Src) (rm : Rm) (d : Dst) (s : State) : Out :=
  .next (fpOp [sa] d (fp1 fmt32 (fun t => t.rm rm) log2Num) s)

/-- FSIN. -/
def execFsin (sa : Src) (rm : Rm) (d : Dst) (s : State) : Out :=
  .next (fpOp [sa] d (fp1 fmt32 (fun t => t.rm rm) sinNum) s)

/-- FCOS. -/
def execFcos (sa : Src) (rm : Rm) (d : Dst) (s : State) : Out :=
  .next (fpOp [sa] d (fp1 fmt32 (fun t => t.rm rm) cosNum) s)

/-- FTANH. -/
def execFtanh (sa : Src) (rm : Rm) (d : Dst) (s : State) : Out :=
  .next (fpOp [sa] d (fp1 fmt32 (fun t => t.rm rm) tanhNum) s)

/-! ## Compares (17 R355) -/

/-- A floating-point compare: equal, not equal, less, less or equal, unordered. -/
inductive FRel where
  | eq | ne | lt | le | un
  deriving DecidableEq, Repr

/-- The condition of a compare. -/
def FRel.holds (r : FRel) (a b : Num) : Bool :=
  let un := a.isNan || b.isNan
  match r with
  | .eq => !un && a.eq b
  | .ne => un || !a.eq b
  | .lt => !un && a.lt b
  | .le => !un && (a.lt b || a.eq b)
  | .un => un

/-- The flags of a compare: lt and le raise NV for any NaN, the others for a signalling one. -/
def FRel.flags (r : FRel) (a b : Num) : FpFlags :=
  match r with
  | .lt | .le => { nv := a.isNan || b.isNan }
  | _ => { nv := a.isSig || b.isSig }

/-- One lane of a floating-point compare. -/
def fcmpLane (f : Fmt) (r : FRel) (sa sb : Src) (ps pd : Fin 8) (s : State) (l : Lane) : State :=
  match readAll s l [sa, sb] .none with
  | .error x => s.excuse l x
  | .ok vs =>
    let a := fpArg f l.pre vs 0
    let b := fpArg f l.pre vs 1
    ((popSrcs s l [sa, sb]).modThread l.ref fun t =>
      t.setPred pd (r.holds a b && l.pre.pred ps) (anyPsn vs || l.pre.predPsn ps)).raise l.ref (r.flags a b)

/-- FCMP.eq.f32. -/
def execFcmpEqF32 (sa sb : Src) (ps pd : Fin 8) (s : State) : Out :=
  .next (s.forLanes (fcmpLane fmt32 .eq sa sb ps pd))

/-- FCMP.eq.f64. -/
def execFcmpEqF64 (sa sb : Src) (ps pd : Fin 8) (s : State) : Out :=
  .next (s.forLanes (fcmpLane fmt64 .eq sa sb ps pd))

/-- FCMP.ne.f32. -/
def execFcmpNeF32 (sa sb : Src) (ps pd : Fin 8) (s : State) : Out :=
  .next (s.forLanes (fcmpLane fmt32 .ne sa sb ps pd))

/-- FCMP.ne.f64. -/
def execFcmpNeF64 (sa sb : Src) (ps pd : Fin 8) (s : State) : Out :=
  .next (s.forLanes (fcmpLane fmt64 .ne sa sb ps pd))

/-- FCMP.lt.f32. -/
def execFcmpLtF32 (sa sb : Src) (ps pd : Fin 8) (s : State) : Out :=
  .next (s.forLanes (fcmpLane fmt32 .lt sa sb ps pd))

/-- FCMP.lt.f64. -/
def execFcmpLtF64 (sa sb : Src) (ps pd : Fin 8) (s : State) : Out :=
  .next (s.forLanes (fcmpLane fmt64 .lt sa sb ps pd))

/-- FCMP.le.f32. -/
def execFcmpLeF32 (sa sb : Src) (ps pd : Fin 8) (s : State) : Out :=
  .next (s.forLanes (fcmpLane fmt32 .le sa sb ps pd))

/-- FCMP.le.f64. -/
def execFcmpLeF64 (sa sb : Src) (ps pd : Fin 8) (s : State) : Out :=
  .next (s.forLanes (fcmpLane fmt64 .le sa sb ps pd))

/-- FCMP.un.f32. -/
def execFcmpUnF32 (sa sb : Src) (ps pd : Fin 8) (s : State) : Out :=
  .next (s.forLanes (fcmpLane fmt32 .un sa sb ps pd))

/-- FCMP.un.f64. -/
def execFcmpUnF64 (sa sb : Src) (ps pd : Fin 8) (s : State) : Out :=
  .next (s.forLanes (fcmpLane fmt64 .un sa sb ps pd))

end Sys2Proof.Machine
end

