-- ==== Sys2Proof/Machine/NarrowOps.lean ====
section
/-!
DEFINITION. Machine/NarrowOps.lean: CVT and the narrow-format instructions (17 R357 to R365).
-/

namespace Sys2Proof.Machine

/-! ## Format registers -/

/-- The first invalid format register that some active lane reads (10 R213; 17 R358).
DEDUCED, unsafe: notes/assumptions/11.md. -/
def badFormat (ty : List Ty) (ls : List Lane) : Option Word :=
  (ls.flatMap fun l => ty.filterMap fun y =>
    match tyFormat l.pre y with
    | some (f, false) => some f
    | _ => none).head?

/-- An instruction that reads format registers: an invalid one traps in every lane of the bundle before any effect.
DEDUCED, unsafe: notes/assumptions/11.md. -/
def formatGate (ty : List Ty) (k : State → State) (s : State) : State :=
  match badFormat ty s.issue.act with
  | some f => s.excuseEach fun l => trap 0x04 ((badFormat ty [l]).getD f)
  | none => k s

/-! ## Conversions -/

/-- A conversion with what it leaves of the stochastic state, which advances first (10 R219).
DEDUCED, unsafe: notes/assumptions/22.md. -/
def convertOne (t : NumTy) (rm : Rm) (pre : Thread) (ftz : Bool) (sr : Word) (x : Num) : Nat × FpFlags × Word :=
  match rm with
  | .sr =>
    let sr := srNext sr
    let (c, g) := t.convert (srMode sr) ftz x
    (c, g, sr)
  | rm =>
    let (c, g) := t.convert (pre.rm rm) ftz x
    (c, g, sr)

/-- One lane of CVT (17 R357). -/
def cvtLane (dty sty : Ty) (sa : SSrc) (rm : Rm) (d : Dst) (s : State) (l : Lane) : State :=
  match readAll s l [sa.long] d with
  | .error x => s.excuse l x
  | .ok vs =>
    let x := (tyClass l.pre sty).decode l.pre.ftz (argAt vs 0).toNat
    let (c, g, sr) := convertOne (tyClass l.pre dty) rm l.pre l.pre.ftz (s.thread l.ref).sr x
    ((s.modThread l.ref fun t => { t with sr := sr }).produce l.ref d { v := BitVec.ofNat 64 c, psn := anyPsn vs }).raise l.ref g

/-- CVT. -/
def execCvt (dty sty : Ty) (sa : SSrc) (rm : Rm) (d : Dst) (s : State) : Out :=
  .next (formatGate [dty, sty] (fun s => (s.forLanes (cvtLane dty sty sa rm d)).pushOff) s)

/-- The bits of a window for a width (17 R359). -/
def windowBits (w : Nat) : Nat := if w = 6 then 48 else 64

/-- One lane of QPACK (17 R360): FTZ is ignored, and element 0 draws before element 1. -/
def qpackLane (ty : Ty) (sa : Src) (rm : Rm) (d : Dst) (s : State) (l : Lane) : State :=
  match readAll s l [sa, .q 0] d with
  | .error x => s.excuse l x
  | .ok vs =>
    let t := tyClass l.pre ty
    let w := t.width
    let n := windowBits w
    let x := argAt vs 0
    let (c0, g0, sr) := convertOne t rm l.pre false (s.thread l.ref).sr (fmt32.decode false (loWord x).toNat)
    let (c1, g1, sr) := convertOne t rm l.pre false sr (fmt32.decode false (hiWord x).toNat)
    let v := (argAt vs 1).toNat % 2 ^ n / 2 ^ (2 * w) + c0 % 2 ^ w * 2 ^ (n - 2 * w) + c1 % 2 ^ w * 2 ^ (n - w)
    let s := (popSrcs s l [sa]).modThread l.ref fun t => { t with sr := sr }
    (s.produce l.ref d { v := BitVec.ofNat 64 v, psn := anyPsn vs }).raise l.ref (g0.join g1)

/-- QPACK. -/
def execQpack (ty : Ty) (sa : Src) (rm : Rm) (d : Dst) (s : State) : Out :=
  .next (formatGate [ty] (fun s => (s.forLanes (qpackLane ty sa rm d)).pushOff) s)

/-- QUNPK of a window (17 R361): two codes as f32 values. -/
def unpackPair (ty : Ty) (rm : Rm) (t : Thread) (vs : List Val) : Nat × FpFlags :=
  let k := tyClass t ty
  let x := (argAt vs 0).toNat
  let (a, f) := fmt32.round (t.rm rm) t.ftz (k.decode false x)
  let (b, g) := fmt32.round (t.rm rm) t.ftz (k.decode false (x / 2 ^ k.width))
  (a + b * 2 ^ 32, f.join g)

/-- QUNPK. -/
def execQunpk (ty : Ty) (sa : Src) (rm : Rm) (d : Dst) (s : State) : Out :=
  .next (formatGate [ty] (fun s => fpOp [sa] d (unpackPair ty rm) s) s)

/-- The magnitude of a value. -/
def Num.abs : Num → Num
  | .fin _ m e => .fin false m e
  | .inf _ => .inf false
  | x => x

/-- The elements of AMAX (17 R362). -/
def amaxElems (ty : Ty) (ftz : Bool) (x : Nat) : List Num :=
  match ty with
  | .f32 => (List.range 2).map fun i => fmt32.decode ftz (x / 2 ^ (32 * i) % 2 ^ 32)
  | .f16 => (List.range 4).map fun i => fmt16.decode ftz (x / 2 ^ (16 * i) % 2 ^ 16)
  | _ => (List.range 4).map fun i => fmtB16.decode ftz (x / 2 ^ (16 * i) % 2 ^ 16)

/-- The running maximum of magnitudes (17 R362). -/
def amaxOf (ty : Ty) (t : Thread) (vs : List Val) : Nat × FpFlags :=
  let xs := fpArg fmt32 t vs 1 :: amaxElems ty t.ftz (argAt vs 0).toNat
  let g : FpFlags := { nv := xs.any Num.isSig }
  if xs.any Num.isNan then (fmt32.canon, g)
  else ((fmt32.round .rne false (xs.foldl (fun a x => if a.lt x.abs then x.abs else a) (.zero false))).1, g)

/-- AMAX. -/
def execAmax (ty : Ty) (sa : Src) (d : DReg) (s : State) : Out := .next (fpOp [sa, d.src] (.reg d) (amaxOf ty) s)

/-! ## DOT4 -/

/-- The exact sum of values; a sum of zero is +0 (10 R222, R224: wide fixed point).
DEDUCED, unsafe: notes/assumptions/25.md. -/
def sumExact (xs : List Num) : Num :=
  let s := xs.foldl (fun (a x : Num) => (a.add .rne x).1) (.zero false)
  match s with
  | .fin _ 0 _ => .zero false
  | x => x

/-- The value of an E8M0 scale, as a power of two (10 R220); none for a NaN. -/
def scaleExp (c : Nat) : Option Int := if c = 0xFF then none else some ((c : Int) - 127)

/-- A contribution scaled by the scales of A and B (10 R222). -/
def scaled (p : Num) (a b : Nat) : Num :=
  match scaleExp a, scaleExp b with
  | some i, some j => p.scale (i + j)
  | _, _ => .nan false

/-- The class of B in DOT4 (17 R363). -/
def dotB (t : Thread) (ty : Ty) : NumTy :=
  match ty with
  | .w8 => .int true 8
  | .w4 => .int true 4
  | y => tyClass t y

/-- DOT4 (17 R363): four exact products, one pair of scales, one rounding. -/
def dotOf (ty : Ty) (rm : Rm) (scale : Bool) (t : Thread) (vs : List Val) : Nat × FpFlags :=
  let ka := tyClass t ty
  let kb := dotB t ty
  let x := (argAt vs 0).toNat
  let ps := (List.range 4).map fun i =>
    ((ka.decode false (x % 2 ^ 32 / 2 ^ (ka.width * i))).mul (kb.decode false (x / 2 ^ 32 / 2 ^ (kb.width * i)))).1
  let p := sumExact ps
  let sc := (argAt vs 2).toNat
  let p := if scale then scaled p (sc % 256) (sc / 256 % 256) else p
  ((fmt32.round (t.rm rm) t.ftz ((fpArg fmt32 t vs 1).add (t.rm rm) p).1).1, {})

/-- DOT4. -/
def execDot4 (ty : Ty) (sa : Src) (rm : Rm) (d : DReg) (s : State) : Out :=
  .next (formatGate [ty] (fun s => fpOp [sa, d.src] (.reg d) (dotOf ty rm false) s) s)

/-- DOT4.sc: the scales are in n10. -/
def execDot4Sc (ty : Ty) (sa : Src) (rm : Rm) (d : DReg) (s : State) : Out :=
  .next (formatGate [ty] (fun s => fpOp [sa, d.src, .n 10] (.reg d) (dotOf ty rm true) s) s)

/-! ## Format registers and the stochastic state -/

/-- One lane of FMTW (17 R364): a poisoned value writes all ones. -/
def fmtwLane (fr : Fin 4) (sa : Src) (s : State) (l : Lane) : State :=
  match readAll s l [sa] .none with
  | .error x => s.excuse l x
  | .ok vs =>
    (popSrcs s l [sa]).modThread l.ref fun t =>
      { t with f := t.f.set fr (if anyPsn vs then 0xFFFFFFFF else loWord (argAt vs 0)) }

/-- FMTW. -/
def execFmtw (fr : Fin 4) (sa : Src) (s : State) : Out := .next (s.forLanes (fmtwLane fr sa))

/-- FMTR (17 R364). -/
def execFmtr (fr : Fin 4) (d : Dst) (s : State) : Out :=
  .next (s.forLanes fun s l =>
    match readAll s l [] d with
    | .error x => s.excuse l x
    | .ok _ => s.produce l.ref d { v := l.pre.f[fr].setWidth 64 }).pushOff

/-- One lane of SEED (17 R365). -/
def seedLane (sa : Src) (s : State) (l : Lane) : State :=
  match readAll s l [sa] .none with
  | .error x => s.excuse l x
  | .ok vs =>
    let x := loWord (argAt vs 0)
    let v := if anyPsn vs then srReset (refGrp l.ref) (s.visLane l.ref) else if x = 0 then 0x6A09E667 else x
    (popSrcs s l [sa]).modThread l.ref fun t => { t with sr := v }

/-- SEED. -/
def execSeed (sa : Src) (s : State) : Out := .next (s.forLanes (seedLane sa))

end Sys2Proof.Machine
end

