-- ==== Sys2Proof/Machine/Matrix.lean ====
section
/-!
DEFINITION. Machine/Matrix.lean: the matrix engine (10 R212 to R223; 11 R229 to R235; 12 R258, R259): operand classes, which
elements of a slab are read, how the words that hold them are fetched, and the block sums.
-/

namespace Sys2Proof.Machine

/-! ## Classes (19 R405) -/

/-- The class of an operand: from the ETYPE of its record, the integer and unsigned bits of CL, and its format register. An error
is ILLEGAL_FORMAT, with the format register's value. -/
def classFor (etype : Nat) (int uns : Bool) (f : Word) : Except Word NumTy :=
  let w := etypeWidth etype
  if etype ≤ 2 then (if int then .error f else .ok (.ieee ([fmt32, fmt16, fmtB16].getD etype fmt32)))
  else if !int then (if fmtFloatOk w f then .ok (.nar (nfmtOf f)) else .error f)
  else if etype = 4 then .error f
  else if w = 4 ∧ f.getLsbD 18 then (if uns || !fmtHalfOk f then .error f else .ok .h4)
  else if fmtIntOk w f then .ok (.int (!uns) w)
  else .error f

/-- CL bit 10. -/
def clInt (cl : Nat) : Bool := cl.testBit 2

/-- The class of the first operand (A, D): CL bit 9. -/
def classA (t : Tensor) (cl : Nat) (f : Word) : Except Word NumTy := classFor t.etype (clInt cl) (cl.testBit 1) f

/-- The class of the second operand (B, T): CL bit 8. -/
def classB (t : Tensor) (cl : Nat) (f : Word) : Except Word NumTy := classFor t.etype (clInt cl) (cl.testBit 0) f

/-- A class that has been checked. -/
def okClass (x : Except Word NumTy) : NumTy :=
  match x with
  | .ok t => t
  | .error _ => .h4

/-- An integer class without h4. -/
def NumTy.isInt : NumTy → Bool
  | .int _ _ => true
  | _ => false

/-! ## Placement (19 R406) -/

/-- The origin of a tile along K. -/
def Tensor.kOrigin (t : Tensor) (c : Dword) : Nat := if t.kax then coordC1 c else coordC0 c

/-- The origin of a tile along its other axis. -/
def Tensor.rowOrigin (t : Tensor) (c : Dword) : Nat := if t.kax then coordC0 c else coordC1 c

/-- The K bound. -/
def Tensor.kBound (t : Tensor) : Nat := t.size.getD (if t.kax then 1 else 0) 0

/-- The bound of the other axis. -/
def Tensor.rowBound (t : Tensor) : Nat := t.size.getD (if t.kax then 0 else 1) 0

/-- The bit address of the element at a K position and a position along the other axis. -/
def Tensor.bitAt (t : Tensor) (c : Dword) (row k : Nat) : Int :=
  if t.kax then t.bitAddr (coordCh c) row k else t.bitAddr (coordCh c) k row

/-- The rows, or columns, of a tile that are in bounds (11 R228). -/
def Tensor.rowsIn (t : Tensor) (c : Dword) (n : Nat) : Nat :=
  if t.planes ≤ coordCh c then 0 else clip (t.rowOrigin c) n t.rowBound

/-- The K positions of an operand that are in bounds, from the origin on, at most n. -/
def Tensor.ksIn (t : Tensor) (c : Dword) (n : Nat) : Nat :=
  if t.planes ≤ coordCh c then 0 else clip (t.kOrigin c) n t.kBound

/-- The word addresses that an element at a bit address lies in. -/
def elemWords (ba : Int) (w : Nat) : List Nat :=
  [vaOf (ba / 32 * 4), vaOf ((ba + Int.ofNat w - 1) / 32 * 4)].eraseDups

/-- Words that a slab has read: by virtual address. -/
abbrev WordMap := AMap Word

/-- The code of an element, from the words read. -/
def WordMap.code (m : WordMap) (ba : Int) (w : Nat) : Nat :=
  let lo := (aget 0 m (vaOf (ba / 32 * 4))).toNat
  let hi := (aget 0 m (vaOf ((ba / 32 + 1) * 4))).toNat
  (lo + hi * 2 ^ 32) / 2 ^ (ba % 32).toNat % 2 ^ w

/-- Adds the words of elements to a list of addresses. -/
def needWords (m : AMap Unit) (bas : List Int) (w : Nat) : AMap Unit :=
  bas.foldl (fun m ba => (elemWords ba w).foldl (fun m a => aset m a ()) m) m

/-! ## What a slab multiplies -/

/-- The structured sparsity N of TMMS (14 R300). -/
def sparseN (nsel : Nat) : Nat := [4, 6, 8, 12].getD nsel 4

/-- The record A of an operation. -/
def TileOp.a (o : TileOp) : Tensor := tensorOf o.ra

/-- The record B of an operation. -/
def TileOp.b (o : TileOp) : Tensor := tensorOf o.rb

/-- The record of the metadata of TMMS. -/
def TileOp.meta (o : TileOp) : Tensor := tensorOf o.rm

/-- The slabs of an operation (11 R229; 12 R258; 19 R406). -/
def TileOp.slabs (o : TileOp) : Nat :=
  match o.kind with
  | .mma | .sc _ => if o.a.slabs ≠ 0 then o.a.slabs else ceilDiv (o.a.kBound - o.a.kOrigin o.ca) 48
  | .ms _ => if o.a.slabs ≠ 0 then o.a.slabs else ceilDiv (o.b.kBound - o.b.kOrigin o.cb) 48
  | _ => 1

/-- The slab that an operation runs next, in the order of KDIR. -/
def TileOp.slabIx (o : TileOp) : Nat :=
  match o.kind with
  | .mma | .sc _ | .ms _ => if o.a.kdir then o.slabs - 1 - o.slab else o.slab
  | _ => 0

/-- The rows of A that are in bounds. -/
def TileOp.rowsA (o : TileOp) : Nat := o.a.rowsIn o.ca o.m

/-- The columns of B that are in bounds. -/
def TileOp.colsB (o : TileOp) : Nat := o.b.rowsIn o.cb 32

/-- Whether position k of the slab lies within the K bounds (10 R222; 11 R228, R229); TMMS counts by B's alone (12 R258). -/
def TileOp.kIn (o : TileOp) (k : Nat) : Bool :=
  let p := 48 * o.slabIx + k
  let b := decide (p < o.b.ksIn o.cb (p + 1))
  match o.kind with
  | .ms _ => b
  | _ => b && decide (p < o.a.ksIn o.ca (p + 1))

/-- The bit address of A's element at row i and position k of the slab. -/
def TileOp.aAt (o : TileOp) (i k : Nat) : Int :=
  o.a.bitAt o.ca (o.a.rowOrigin o.ca + i) (o.a.kOrigin o.ca + 48 * o.slabIx + k)

/-- The bit address of B's element at position k of the slab and column j. -/
def TileOp.bAt (o : TileOp) (k j : Nat) : Int :=
  o.b.bitAt o.cb (o.b.rowOrigin o.cb + j) (o.b.kOrigin o.cb + 48 * o.slabIx + k)

/-- The half-slab of position k of the slab, counted over the whole K axis (12 R258). -/
def TileOp.half (o : TileOp) (k : Nat) : Nat := o.a.kOrigin o.ca / 24 + 2 * o.slabIx + k / 24

/-- The bit address of the metadata word of row i for a half-slab, if it is in bounds (12 R259).
DEDUCED, unsafe: notes/assumptions/59.md. -/
def TileOp.metaAt (o : TileOp) (h i : Nat) : Option Int :=
  let row := o.a.rowOrigin o.ca + i
  if o.meta.inside (coordCh o.ca) h row then some (o.meta.bitAddr (coordCh o.ca) h row) else none

/-- The metadata words of a slab. -/
def TileOp.metas (o : TileOp) : List Int :=
  (List.range o.rowsA).flatMap fun i => [0, 24].filterMap fun k => if o.kIn k then o.metaAt (o.half k) i else none

/-- The compressed element of A that stands at row i and position k of the slab: the t-th set bit of the row's mask (12 R259).
DEDUCED, unsafe: notes/assumptions/59.md. -/
def TileOp.sparseAt (o : TileOp) (m : WordMap) (n i k : Nat) : Option Int :=
  match o.metaAt (o.half k) i with
  | none => none
  | some ba =>
    let mask := m.code ba 32
    let t := popCount 24 (mask % 2 ^ (k % 24))
    let x := o.half k * n + t
    if mask.testBit (k % 24) ∧ t < n ∧ x < o.a.kBound then some (o.a.bitAt o.ca (o.a.rowOrigin o.ca + i) x) else none

/-- The bit address of A's element for row i and position k of the slab, if the position is not masked. -/
def TileOp.aElem (o : TileOp) (m : WordMap) (i k : Nat) : Option Int :=
  if !o.kIn k then none
  else
    match o.kind with
    | .ms nsel => o.sparseAt m (sparseN nsel) i k
    | _ => some (o.aAt i k)

/-- Every position of a slab, row by row: the bit addresses of A's unmasked elements. -/
def TileOp.aGrid (o : TileOp) (m : WordMap) : List (List (Option Int)) :=
  (List.range o.rowsA).map fun i => (List.range 48).map fun k => o.aElem m i k

/-- The bit addresses of A's elements in a grid. -/
def gridElems (g : List (List (Option Int))) : List Int := g.flatMap fun r => r.filterMap id

/-- The positions of a slab at which some row is not masked. -/
def gridKs (g : List (List (Option Int))) : List Nat :=
  (List.range 48).filter fun k => g.any fun r => (r.getD k none).isSome

/-- The bit addresses of B's elements at some positions of the slab. -/
def TileOp.bElems (o : TileOp) (ks : List Nat) : List Int := ks.flatMap fun k => (List.range o.colsB).map fun j => o.bAt k j

/-! ## Fetching (11 R231, R232) -/

/-- What fetching words can come to: the words, a wait at a home, a fault with its kind and address, or a poisoned word. -/
inductive Fetched where
  | ok (m : WordMap)
  | waits
  | fault (kind va : Nat)
  | poisoned
  deriving DecidableEq, Repr

/-- Translates words one by one. -/
def State.tileLocs (s : State) (g : Site) : List Nat → Except (XFail × Nat) (List (Nat × Loc)) × State
  | [] => (.ok [], s)
  | va :: vas =>
    match s.engineLoc g va false with
    | (.error k, s) => (.error (k, va), s)
    | (.ok x, s) =>
      match s.tileLocs g vas with
      | (.error e, s) => (.error e, s)
      | (.ok xs, s) => (.ok ((va, x) :: xs), s)

/-- A tile operation pins the L2 unit of a word of a die. -/
def State.pin (s : State) (id die : Nat) : Loc → State
  | .dev w =>
    s.modMem fun m => match aget? m.l2 (l2Key die (w / 64)) with
      | some x => if x.pins.contains id then m else { m with l2 := aset m.l2 (l2Key die (w / 64)) { x with pins := id :: x.pins } }
      | none => m
  | _ => s

/-- Unpins the words of a slab of an operation (11 R234, step 6). -/
def State.unpin (s : State) (id : Nat) : State :=
  s.modMem fun m => { m with l2 := amap m.l2 fun _ x => { x with pins := x.pins.filter (· != id) } }

/-- Reads words into a map, pinning them; the flag says whether one was poisoned. The first that is not backed is recorded
(20 R438). -/
def State.tileReads (s : State) (id : Nat) (o : TileOp) (g : Site) : List (Nat × Loc) → WordMap → Bool → WordMap × Bool × State
  | [], m, p => (m, p, s)
  | (va, x) :: r, m, p =>
    let cls := match x with
      | .dev w => classOf o.pol w
      | _ => .normal
    let new := x == Loc.none && !o.bad
    let o := { o with bad := o.bad || new }
    let s := if new then { s.opRecord o.team va with ops := aset s.ops id (.tile o) } else s
    let (d, psn, s) := s.engineRead g cls (polFill o.pol) x
    (s.pin id (dieOfCore g.core) x).tileReads id o g r (aset m va d) (p || psn)

/-- The tile operation with an identifier. -/
def State.tileNo (s : State) (id : Nat) : Option TileOp :=
  match aget? s.ops id with
  | some (.tile o) => some o
  | _ => none

/-- Fetches words that are not in a map yet. -/
def State.tileFetch (s : State) (id : Nat) (o : TileOp) (e : Event) (need : AMap Unit) (m : WordMap) : Fetched × State :=
  let o := (s.tileNo id).getD o
  let g := s.siteOf o.team 1
  match s.tileLocs g ((akeys need).filter fun a => !ahas m a) with
  | (.error (.held w, _), s) => (.waits, s.awaitWord w e)
  | (.error (.fault k, va), s) => (.fault k va, s)
  | (.ok xs, s) =>
    match s.engineHolds g false e (xs.map (·.2)) with
    | some s => (.waits, s)
    | none =>
      match s.tileReads id o g xs m false with
      | (_, true, s) => (.poisoned, s.unpin id)
      | (m, false, s) => (.ok m, s)

/-- The positions of a slab that are not masked in every row: those within the K bounds, of which TMMS takes what the metadata of some
row keeps. -/
def TileOp.openKs (o : TileOp) (g : List (List (Option Int))) : List Nat :=
  match o.kind with
  | .ms _ => if g.isEmpty then (List.range 48).filter o.kIn else gridKs g
  | _ => (List.range 48).filter o.kIn

/-- The words of a slab: first the metadata, then what it leaves of A and B. -/
def State.slabWords (s : State) (id : Nat) (o : TileOp) (e : Event) : Fetched × State :=
  match s.tileFetch id o e (needWords [] o.metas 32) [] with
  | (.ok m, s) =>
    let g := o.aGrid m
    s.tileFetch id o e (needWords (needWords [] (gridElems g) o.a.width) (o.bElems (o.openKs g)) o.b.width) m
  | r => r

/-- The compressed elements of A of the half-slabs that a slab meets (12 R258), whichever of them the metadata keeps. -/
def TileOp.sparseSpan (o : TileOp) (n : Nat) : List Int :=
  (List.range o.rowsA).flatMap fun i => (([0, 24].filter o.kIn).map o.half).flatMap fun h =>
    ((List.range n).filter fun t => decide (h * n + t < o.a.kBound)).map fun t =>
      o.a.bitAt o.ca (o.a.rowOrigin o.ca + i) (h * n + t)

/-- The pages of 4 KiB in which the next slab's elements lie, in the order of the slab (08 R165): of the metadata, of A and
of B.
DEDUCED, safe: notes/assumptions/116.md. -/
def TileOp.aheadPages (o : TileOp) : List Nat :=
  if o.slabs ≤ o.slab + 1 then []
  else
    let o := { o with slab := o.slab + 1 }
    let a := match o.kind with
      | .ms n => o.metas ++ o.sparseSpan (sparseN n)
      | _ => gridElems (o.aGrid [])
    ((a ++ o.bElems ((List.range 48).filter o.kIn)).map fun ba => vaOf (ba / 32 * 4) / 4096).eraseDups

/-- The walk-ahead for the next slab (11 R234; 08 R165, R166): it fills the matrix TLB; a walk that would fault leaves nothing there
and reports nothing. The walker queue is empty when a slab begins.
DEDUCED, safe: notes/assumptions/116.md. -/
def State.walkAhead (s : State) (o : TileOp) : State :=
  o.aheadPages.foldl (fun s q =>
    match s.engineLoc (s.siteOf o.team 1) (q * 4096) false with
    | (.ok _, s) => s
    | (.error _, _) => s) s

/-- Steps 1 and 2 of a slab (11 R234).
DEDUCED, safe: notes/assumptions/116.md. -/
def State.slabFetch (s : State) (id : Nat) (o : TileOp) (e : Event) : Fetched × State :=
  match s.slabWords id o e with
  | (.ok m, s) => (.ok m, s.walkAhead o)
  | (.poisoned, s) => (.poisoned, s.walkAhead o)
  | r => r

/-! ## Block sums (10 R220 to R223) -/

/-- The place of an accumulator element. -/
def accKey (acc i j : Nat) : Nat := ((acc + i / 32) * 32 + i % 32) * 32 + j

/-- Writes an accumulator element; a zero is not listed. -/
def setAcc (m : AMap Word) (k : Nat) (v : Word) : AMap Word := if v = 0 then adel m k else aset m k v

/-- A scale byte of A, for row i and block `blk` (10 R221). -/
def scaleA (protect : Bool) (scl : List Dword) (a i blk : Nat) : Nat :=
  let byte (l b : Nat) : Nat := bitsOf (scl.getD l 0) (8 * b + 7) (8 * b)
  if protect then byte (i / 2 * 2) (a + 3 * (i % 2) + blk)
  else if 32 ≤ i then byte (i - 32) (a + 3 + blk)
  else byte i (a + blk)

/-- A scale byte of B, for column j and block `blk`. -/
def scaleB (protect : Bool) (scl : List Dword) (b j blk : Nat) : Nat :=
  let byte (l k : Nat) : Nat := bitsOf (scl.getD l 0) (8 * k + 7) (8 * k)
  if protect then byte (j / 2 * 2) (b + 3 * (j % 2) + blk) else byte j (b + blk)

/-- Products of the positions that neither list masks. -/
def products : List (Option Num) → List (Option Num) → List Num
  | some x :: xs, some y :: ys => (x.mul y).1 :: products xs ys
  | _ :: xs, _ :: ys => products xs ys
  | _, _ => []

/-- The contribution of a block: exact +0 when every position is masked; `sc` holds its two scales.
DEDUCED, unsafe: notes/assumptions/25.md. -/
def blockSum (sc : Option (Nat × Nat)) (xs ys : List (Option Num)) : Num :=
  match products xs ys with
  | [] => .zero false
  | ps =>
    match sc with
    | none => sumExact ps
    | some (a, b) => scaled (sumExact ps) a b

/-- A contribution added to an f32 accumulator element. -/
def addF32 (old : Word) (p : Num) : Word :=
  BitVec.ofNat 32 (fmt32.round .rne false ((fmt32.decode false old.toNat).add .rne p).1).1

/-- The whole number that an exact value is. -/
def Num.toInt : Num → Int
  | .fin neg m e => signedAt neg m e 0
  | _ => 0

/-- A contribution added to an i32 accumulator element, saturating (10 R223). -/
def addI32 (old : Word) (p : Num) : Word :=
  BitVec.ofInt 32 (max (intLow true 32) (min (intHigh true 32) (old.toInt + p.toInt)))

/-- One accumulator element over the blocks of a slab, in increasing K. -/
def accumulate (int : Bool) (sc : Nat → Option (Nat × Nat)) (xs ys : List (Option Num)) (old : Word) : Word :=
  (List.range 3).foldl (fun v blk =>
    let p := blockSum (sc blk) ((xs.drop (16 * blk)).take 16) ((ys.drop (16 * blk)).take 16)
    if int then addI32 v p else addF32 v p) old

/-- The scales of an operation for row i, column j and a block. -/
def TileOp.scale (o : TileOp) (protect : Bool) (i j blk : Nat) : Option (Nat × Nat) :=
  match o.kind with
  | .sc sel => some (scaleA protect o.scl (sel % 8) i blk, scaleB protect o.scl (sel / 8 % 8) j blk)
  | _ => none

/-- The classes of an operation's operands. -/
def TileOp.classes (o : TileOp) : NumTy × NumTy := (okClass (classA o.a o.cl o.fa), okClass (classB o.b o.cl o.fb))

/-- The accumulator is read as i32 (19 R405; 12 R264). -/
def TileOp.intForm (o : TileOp) : Bool :=
  match o.kind with
  | .mma | .chrun => o.classes.1.isInt && o.classes.2.isInt
  | _ => false

/-- Adds a slab: `rows` holds A's values row by row, `cols` B's column by column, none where a position is masked. -/
def TileOp.addSlab (o : TileOp) (protect : Bool) (rows cols : List (List (Option Num))) (acc : AMap Word) : AMap Word :=
  (rows.zip (List.range rows.length)).foldl (fun acc p =>
    (cols.zip (List.range cols.length)).foldl (fun acc q =>
      let k := accKey o.acc p.2 q.2
      setAcc acc k (accumulate o.intForm (o.scale protect p.2 q.2) p.1 q.1 (aget 0 acc k))) acc) acc

/-- The values of A in a slab, from the words read. -/
def TileOp.aRows (o : TileOp) (m : WordMap) : List (List (Option Num)) :=
  (o.aGrid m).map fun r => r.map fun x => x.map fun ba => o.classes.1.decode false (m.code ba o.a.width)

/-- The values of B in a slab, column by column. -/
def TileOp.bCols (o : TileOp) (m : WordMap) : List (List (Option Num)) :=
  (List.range o.colsB).map fun j => (List.range 48).map fun k =>
    if o.kIn k then some (o.classes.2.decode false (m.code (o.bAt k j) o.b.width)) else none

/-! ## TLDA (19 R409) -/

/-- The position of element (i, j) of a TLDA, if it is in bounds. -/
def TileOp.loadAt (o : TileOp) (i j : Nat) : Option Int :=
  let (x0, x1) := if o.ctl.getLsbD 0 then (coordC0 o.ca + i, coordC1 o.ca + j) else (coordC0 o.ca + j, coordC1 o.ca + i)
  if o.a.inside (coordCh o.ca) x0 x1 then some (o.a.bitAddr (coordCh o.ca) x0 x1) else none

/-- The 1,024 positions of a TLDA. -/
def TileOp.loadGrid (o : TileOp) : List (Nat × Option Int) :=
  (List.range 1024).map fun e => (e, o.loadAt (e / 32) (e % 32))

/-- The value of a loaded code: f32 words bit for bit, the others converted exactly. -/
def TileOp.loadValue (o : TileOp) (code : Nat) : Word :=
  match o.a.etype with
  | 0 => BitVec.ofNat 32 code
  | 1 => BitVec.ofNat 32 (fmt32.round .rne false (fmt16.decode false code)).1
  | _ => BitVec.ofNat 32 (fmt32.round .rne false (fmtB16.decode false code)).1

/-- The accumulators after a TLDA. -/
def TileOp.loaded (o : TileOp) (m : WordMap) (acc : AMap Word) : AMap Word :=
  o.loadGrid.foldl (fun acc p => setAcc acc (o.acc * 1024 + p.1) (match p.2 with
    | some ba => o.loadValue (m.code ba o.a.width)
    | none => 0)) acc

/-- The accumulators after a TZERO. -/
def TileOp.zeroed (o : TileOp) (acc : AMap Word) : AMap Word := afilter acc fun k _ => k / 1024 ≠ o.acc

/-! ## The queue (11 R233) -/

/-- The accumulators that an operation names. -/
def TileOp.accs (o : TileOp) : List Nat :=
  match o.kind with
  | .mma | .sc _ | .ms _ | .chrun => if o.m = 64 then [o.acc, o.acc + 1] else [o.acc]
  | .chpre => []
  | _ => [o.acc]

/-- A group's outstanding tile instruction has been stopped by a trap of the group, and a thread of it is still in its handler
(11 R235).
DEDUCED, unsafe: notes/assumptions/117.md. -/
def State.tileStopped (s : State) (u g : Nat) : Bool :=
  ((s.team u).groups.getD g noGroup).stopped && (s.liveRefs u g).any fun r => (s.thread r).handler

/-- An operation of a core's queue can run: no older one names any of its accumulators, no fault record holds it, its team is not
stopped, no trap of its group has stopped it, and a drain finds a buffer. -/
def State.tileFree (s : State) (c : Core) (id : Nat) : Bool :=
  match s.tileNo id with
  | none => false
  | some o =>
    let older := c.seq.takeWhile (· != id)
    !(older.any fun k => match s.tileNo k with
      | some x => x.team == o.team && x.accs.any o.accs.contains
      | none => false)
      && o.fault.isNone && (s.team o.team).halt.isNone && !s.tileStopped o.team o.grp
      && (o.kind != TileKind.drain || decide (c.drains.length < 8))

/-- The operation that a core's sequencer runs: the one that it has begun, while that can go on, else the oldest that can run
(11 R233). -/
def State.tilePick (s : State) (c : Core) : Option Nat :=
  match c.run with
  | some r => if c.seq.contains r && s.tileFree c r then some r else c.seq.find? (s.tileFree c)
  | none => c.seq.find? (s.tileFree c)

/-- An operation runs: it is the one that the sequencer runs, and its fork edge is met (11 R231, R233). CHPRE stands in no queue. -/
def State.tileRuns (s : State) (id : Nat) (o : TileOp) : Bool :=
  match o.kind with
  | .chpre => o.fault.isNone && !s.forkHolds o.lanes id true
  | _ => s.tilePick (s.core o.core) == some id && !s.forkHolds (groupRefs o.team o.grp) id true

/-- The sequencer begins an operation, or goes on with it. -/
def State.beginTile (s : State) (id : Nat) (o : TileOp) : State :=
  match o.kind with
  | .chpre => s
  | _ => s.modCore o.core fun c => { c with run := some id }

/-- Replaces a tile operation. -/
def State.setTile (s : State) (id : Nat) (o : TileOp) : State := { s with ops := aset s.ops id (.tile o) }

/-- A tile operation leaves the sequencer: its group has none outstanding (13 R277). -/
def State.leaveSeq (s : State) (id : Nat) (o : TileOp) : State :=
  (s.modCore o.core fun c =>
    { c with seq := c.seq.filter (· != id), run := if c.run = some id then none else c.run }).modTeam o.team fun t =>
    t.modGroup o.grp fun g => if g.tile = some id then { g with tile := none, stopped := false } else g

/-- The end of a tile operation: its flag clears, and its team may end. -/
def State.endTile (s : State) (id : Nat) (o : TileOp) : State :=
  let s := { s.leaveSeq id o with ops := adel s.ops id }
  (s.clearFlags o.lanes o.flag).prepend [teamEndEvent o.team]

/-- The threads that a trap or a page fault of an operation concerns: every live thread of the group (11 R235); for CHPRE, which is
not group-collective, the lanes that issued it (06 R463). -/
def State.tileThreads (s : State) (o : TileOp) : List Nat :=
  match o.kind with
  | .chpre => o.lanes.filter fun r => !(s.thread r).exited
  | _ => s.liveRefs o.team o.grp

/-- A tile operation ends in a trap of its threads, with the PC at the instruction (11 R235).
DEDUCED, unsafe: notes/assumptions/55.md. -/
def State.trapTile (s : State) (id : Nat) (o : TileOp) (c : Byte) (info : Word) (addr : Dword) : State :=
  let s := s.endTile id o
  (s.tileThreads o).foldl (fun s r => (s.unpark r).takeTrap r { s.thread r with park := .none } o.pc c info addr) s

/-- What a thread comes back to when a tile instruction's fault that parks it has been served (07 R146; 11 R235): where it stands and how
it waits. One that waits for a word, a launch or a block asks again. -/
def Thread.place (t : Thread) : BitVec 57 × Park :=
  match t.back with
  | some x => x
  | none => (t.pc, match t.park with
    | .fault _ _ _ => .none
    | .launchw => .none
    | .xacq _ => .none
    | p => p)

/-- A page fault of a slab: every live thread of the group parks on its record with its PC at the instruction, whatever it waited for
before (11 R235; 07 R146). A thread that waits in LAUNCHW keeps the record address that it has read.
DEDUCED, unsafe: notes/assumptions/55.md. -/
def State.parkTile (s : State) (id : Nat) (o : TileOp) (kind va : Nat) : State :=
  let g := s.siteOf o.team 1
  let (i, s) := s.engineFault g va kind
  let s := s.setTile id { o with fault := some i }
  (s.tileThreads o).foldl (fun s r =>
    let redo := s.launchAddr r
    ((s.unpark r).modThread r fun t =>
      { t with redo := redo, back := some t.place, pc := o.pc, park := .fault (dieOfCore o.core) i va }).diverge r) s

/-- Slab progress after step 5 (11 R234, R235); the next slab follows, or the end. -/
def State.slabDone (s : State) (id : Nat) (o : TileOp) : State :=
  if o.slabs ≤ o.slab + 1 then s.endTile id o
  else (s.setTile id { o with slab := o.slab + 1, bad := ((s.tileNo id).getD o).bad }).prepend [event .tileSlabComplete { id := id }]

/-- Runs a slab whose words have been asked for: `k` uses them. -/
def withWords (id : Nat) (o : TileOp) (r : Fetched × State) (k : WordMap → State → State) : State :=
  match r with
  | (.ok m, s) => k m (s.unpin id)
  | (.waits, s) => s
  | (.fault kind va, s) => (s.unpin id).parkTile id ((s.tileNo id).getD o) kind va
  | (.poisoned, s) => s.trapTile id o 0x11 0 0

end Sys2Proof.Machine
end

