-- ==== Sys2Proof/Machine/Chisel.lean ====
section
/-!
DEFINITION. Machine/Chisel.lean: the Chisel (12 R261 to R268; 20 R422 to R426): compiling a sparse tile into micro-ops, the cache of
a core, and CHPRE, CHINV and CHRD.
-/

namespace Sys2Proof.Machine

/-! ## Identities and programs -/

/-- What the format register gives to an identity (12 R261): its value for a narrow float, the HALF bit for an integer class at
width 4. -/
def idFormat (etype cl : Nat) (f : Word) : Word :=
  if !clInt cl then f else if etype = 5 then (if f.getLsbD 18 then 1 else 0) else 0

/-- The identity of an operation's tile, as a new entry (12 R261, R262). -/
def TileOp.entry (o : TileOp) : ChEntry :=
  { ctx := o.kid, rc := o.ra, coord := o.ca, fmt := idFormat o.a.etype o.cl o.fa, cl := o.cl / 2, m := o.m }

/-- Two entries have one identity. -/
def ChEntry.same (x y : ChEntry) : Bool :=
  x.ctx == y.ctx && x.rc == y.rc && x.coord == y.coord && x.fmt == y.fmt && x.cl == y.cl && x.m == y.m

/-- The positions of a tile with their element addresses, in increasing row and K; those out of bounds are left out. -/
def TileOp.tileElems (o : TileOp) : List (Nat × Nat × Int) :=
  (List.range o.rowsA).flatMap fun i => (List.range (o.a.ksIn o.ca 48)).map fun k => (i, k, o.aAt i k)

/-- A code is not zero (12 R263). -/
def nonZero (t : NumTy) (c : Nat) : Bool :=
  match t.decode false c with
  | .fin _ 0 _ => false
  | _ => true

/-- The non-zero elements of a tile: row, K position, code. -/
def TileOp.nonZeros (o : TileOp) (m : WordMap) : List (Nat × Nat × Nat) :=
  (o.tileElems.map fun p => (p.1, p.2.1, m.code p.2.2 o.a.width)).filter fun p => nonZero o.classes.1 p.2.2

/-- The micro-ops of elements: a B-row load before the first multiply-accumulate that uses it (12 R263; 20 R423). -/
def microOps : List (Nat × Nat × Nat) → List Nat → List Word
  | [], _ => [0]
  | (i, k, c) :: r, seen =>
    let mac : Word := BitVec.ofNat 32 (2 * 2 ^ 30 + i * 2 ^ 24 + k * 2 ^ 18 + c)
    if seen.contains k then mac :: microOps r seen
    else BitVec.ofNat 32 (2 ^ 30 + k * 2 ^ 18) :: mac :: microOps r (k :: seen)

/-- What a compile makes: whether the entry is dense, and its micro-ops (12 R263).
DEDUCED, safe: notes/assumptions/58.md. -/
def TileOp.compile (o : TileOp) (m : WordMap) : Bool × List Word :=
  let nz := o.nonZeros m
  let ops := microOps nz []
  if 2 * o.m * 48 < 5 * nz.length ∨ 1024 < ops.length then (true, []) else (false, ops)

/-! ## The cache (12 R262, R265, R266) -/

/-- The entry of a core that has an identity. -/
def Core.chEntry (c : Core) (e : ChEntry) : Option ChEntry := c.chisel.find? e.same

/-- An entry that a queued or running CHRUN of a core uses. -/
def State.chUsed (s : State) (c : Core) (e : ChEntry) : Bool :=
  c.seq.any fun id => match s.tileNo id with
    | some o => o.kind == TileKind.chrun && e.same o.entry
    | none => false

/-- The entries of a full cache without the least recently used one that no CHRUN uses and into which nothing compiles. -/
def dropEntry (es : List ChEntry) (used : ChEntry → Bool) : List ChEntry :=
  if es.length < 256 then es
  else
    match (es.filter fun e => !used e && e.busy.isNone).foldl (fun (b : Option ChEntry) e =>
      match b with
      | none => some e
      | some x => if e.use < x.use then some e else some x) none with
    | some x => es.filter fun e => !e.same x
    | none => es

/-- Changes the entry of a core that has an identity. -/
def State.modEntry (s : State) (core : Nat) (e : ChEntry) (f : ChEntry → ChEntry) : State :=
  s.modCore core fun c => { c with chisel := c.chisel.map fun y => if y.same e then f y else y }

/-- The operation that compiles into an entry, while it is under way. -/
def State.compiling (s : State) (e : ChEntry) : Option Nat := e.busy.filter fun id => (s.tileNo id).isSome

/-- Counts a compile (12 R268). -/
def Core.countCompile (c : Core) (dense : Bool) : Core :=
  { c with comp := min 0xFF (c.comp + 1), dense := if dense then min 0xFF (c.dense + 1) else c.dense }

/-- A watched word's L2 unit carries the core's presence bit (12 R266). -/
def State.watchUnit (s : State) (core w : Nat) : State :=
  s.modMem fun m => match aget? m.l2 (l2Key (dieOfCore core) (w / 64)) with
    | some x => { m with l2 := aset m.l2 (l2Key (dieOfCore core) (w / 64)) { x with pres := setBit x.pres (core % 40) true } }
    | none => m

/-- The words that hold a tile's elements. -/
def State.tileWords (s : State) (o : TileOp) : Except (XFail × Nat) (List Loc) × State :=
  match s.tileLocs (s.siteOf o.team 1) (akeys (needWords [] (o.tileElems.map fun p => p.2.2) o.a.width)) with
  | (.error x, s) => (.error x, s)
  | (.ok xs, s) => (.ok (xs.map (·.2)), s)

/-- The team's interval log holds one of some words. -/
def Team.logs (t : Team) (ws : List Loc) : Bool := t.log.any fun e => ws.contains e.loc

/-- What a lookup with a compile, if one is needed, comes to: the program, or what the fetch came to. -/
inductive Compiled where
  | prog (dense : Bool) (ops : List Word)
  | other (f : Fetched)
  deriving DecidableEq, Repr

/-- Reads a tile and makes its program. -/
def State.chRead (s : State) (id : Nat) (o : TileOp) (e : Event) : Compiled × State :=
  match s.tileFetch id o e (needWords [] (o.tileElems.map fun p => p.2.2) o.a.width) [] with
  | (.ok m, s) =>
    let (dense, ops) := o.compile m
    (.prog dense ops, (s.unpin id).modCore o.core fun c => c.countCompile dense)
  | (f, s) => (.other f, s)

/-- A compile into the entry of an operation's identity begins: a new entry, or the next version of a stale one. Its words are watched
from then on (12 R265, R266).
DEDUCED, safe: notes/assumptions/58.md. -/
def State.chBegin (s : State) (id : Nat) (o : TileOp) (ws : List Loc) : State :=
  let s := s.tick
  match (s.core o.core).chEntry o.entry with
  | some _ => s.modEntry o.core o.entry fun x => { x with busy := some id, late := false, serve := [], watch := ws, use := s.mem.age }
  | none => s.modCore o.core fun c =>
      { c with chisel := dropEntry c.chisel (s.chUsed c) ++
          [{ o.entry with busy := some id, fresh := true, watch := ws, use := s.mem.age }] }

/-- A compile into an entry ends (12 R262, R265): the entry holds the program, stale if the compile is, which serves the CHRUNs that
reached it in time and go on. -/
def State.chEnd (s : State) (o : TileOp) (x : ChEntry) (dense : Bool) (ops : List Word) : State :=
  let s := (devWords x.watch).foldl (fun s w => s.watchUnit o.core w) s
  let s := s.tick
  let s := s.modEntry o.core x fun y =>
    { y with version := if y.fresh then 0 else (y.version + 1) % 2 ^ 16, dense := dense, ops := ops, stale := y.late, busy := none,
             late := false, fresh := false, serve := [], use := s.mem.age }
  x.serve.foldl (fun s j => match s.tileNo j with
    | some y => (s.setTile j { y with prog := some (dense, ops) }).append [event .tileSlabComplete { id := j }]
    | none => s) s

/-- The compile that an operation has begun goes on. A poisoned element ends it with no entry kept. A CHPRE whose compile has become
stale compiles again (20 R425). -/
def State.chCompile (s : State) (id : Nat) (o : TileOp) (e : Event) (x : ChEntry) : Compiled × State :=
  match s.chRead id o e with
  | (.prog dense ops, s) =>
    let late := match (s.core o.core).chEntry x with
      | some y => y.late
      | none => false
    (if o.kind == TileKind.chpre && late then .other .waits else .prog dense ops, s.chEnd o x dense ops)
  | (.other .poisoned, s) => (.other .poisoned, s.modCore o.core fun c => { c with chisel := c.chisel.filter fun y => !y.same x })
  | r => r

/-- An operation has come to a compile in progress: it waits for its end, which serves a CHRUN unless the compile is stale. -/
def State.chJoin (s : State) (id : Nat) (o : TileOp) (x : ChEntry) : State :=
  if o.kind = .chpre ∨ x.late ∨ x.serve.contains id then s
  else s.modEntry o.core x fun y => { y with serve := y.serve ++ [id] }

/-- A CHRUN or CHPRE finds a program that is not stale. -/
def State.chHit (s : State) (o : TileOp) (x : ChEntry) : State :=
  let s := s.tick
  (s.modEntry o.core x fun y => { y with use := s.mem.age }).modCore o.core fun c =>
    { c with hit := if o.kind = .chrun then min 0xFF (c.hit + 1) else c.hit }

/-- The lookup of 12 R265: every write that happens-before has been applied at the die (R267). -/
def State.chLookup (s : State) (id : Nat) (o : TileOp) (e : Event) : Compiled × State :=
  let s := s.applyAll (dieOfCore o.core)
  match s.tileWords o with
  | (.error (.held w, _), s) => (.other .waits, s.awaitWord w e)
  | (.error (.fault k, va), s) => (.other (.fault k va), s)
  | (.ok ws, s) =>
    if (s.team o.team).logs ws then s.chRead id o e
    else
      match (s.core o.core).chEntry o.entry with
      | some x =>
        match s.compiling x with
        | some j => if j = id then s.chCompile id o e x else (.other .waits, s.chJoin id o x)
        | none =>
          if x.stale ∨ x.busy.isSome then (.other .waits, (s.chBegin id o ws).append [e]) else (.prog x.dense x.ops, s.chHit o x)
      | none => (.other .waits, (s.chBegin id o ws).append [e])

/-- CHISEL_COMPILE_END (12 R265): the program that a CHRUN runs is found or compiled, and the CHRUN goes on with its slab; a CHPRE
ends.
DEDUCED, safe: notes/assumptions/58.md. -/
def execChiselCompileEnd (s : State) : Out :=
  let id := s.ev.id
  match s.tileNo id with
  | none => .next s
  | some o =>
    if (o.kind = .chrun ∨ o.kind = .chpre) ∧ o.prog.isNone ∧ s.tileRuns id o then
      match (s.beginTile id o).chLookup id o (event .chiselCompileEnd { id := id }) with
      | (.prog dense ops, s) =>
        if o.kind = .chpre then .next (s.endTile id o)
        else .next ((s.setTile id { o with prog := some (dense, ops) }).prepend [event .tileSlabComplete { id := id }])
      | (.other f, s) => .next (withWords id o (f, s) (fun _ s => s))
    else .next s

/-! ## Running a program (12 R264) -/

/-- The kind of a micro-op (20 R423). -/
def microKind (w : Word) : Nat := bitsOf w 31 30

/-- The K position of a micro-op. -/
def microK (w : Word) : Nat := bitsOf w 23 18

/-- The values of A that a program holds, row by row; the other positions are masked. -/
def progRows (t : NumTy) (rows : Nat) (ops : List Word) : List (List (Option Num)) :=
  (List.range rows).map fun i => (List.range 48).map fun k =>
    (ops.find? fun w => microKind w == 2 && bitsOf w 29 24 == i && microK w == k).map fun w => t.decode false (bitsOf w 7 0)

/-- Rows with their zero elements masked. -/
def maskZeros (rows : List (List (Option Num))) : List (List (Option Num)) :=
  rows.map fun r => r.map fun x => match x with
    | some (.fin _ 0 _) => none
    | y => y

/-- The K positions at which some row is not masked. -/
def usedKs (rows : List (List (Option Num))) : List Nat :=
  (List.range 48).filter fun k => rows.any fun r => (r.getD k none).isSome

/-- The rows of a CHRUN: from its program, or from the tile with zero codes masked. -/
def State.chRows (s : State) (id : Nat) (o : TileOp) (e : Event) (dense : Bool) (ops : List Word) :
    Except Fetched (List (List (Option Num)) × WordMap) × State :=
  if dense then
    match s.tileFetch id o e (needWords [] (gridElems (o.aGrid [])) o.a.width) [] with
    | (.ok m, s) => (.ok (maskZeros (o.aRows m), m), s)
    | (f, s) => (.error f, s)
  else (.ok (progRows o.classes.1 o.rowsA ops, []), s)

/-- The slab of a CHRUN. -/
def State.runChisel (s : State) (id : Nat) (o : TileOp) (dense : Bool) (ops : List Word) : State :=
  let e := event .tileSlabComplete { id := id }
  match s.chRows id o e dense ops with
  | (.error f, s) => withWords id o (f, s) (fun _ s => s)
  | (.ok (rows, m), s) =>
    let ks := (usedKs rows).filter o.kIn
    withWords id o (s.tileFetch id o e (needWords [] (o.bElems ks) o.b.width) m) fun m s =>
      (s.modTeam o.team fun t => { t with acc := o.addSlab false rows (o.bCols m) t.acc }).slabDone id o

/-! ## Instructions of one team (06 R463) -/

/-- The policy of an engine that walks tensor records: plain order, USE 0, generic space (19 R408; 20 R422).
DEDUCED, unsafe: notes/assumptions/57.md. -/
def enginePolicyOk (p : Word) : Bool :=
  polOrder p == 0 && polUse p == 0 && polScope p ≤ 5 && polSpace p == 0

/-- An instruction that acts once for each team of the bundle: `f` acts for one, in the state before, with the team's lowest active
lane and all of its active lanes. -/
def perTeam (f : State → Lane → List Lane → Except Excuse (State → State)) (b s : State) (u : Nat) : State :=
  let ls := s.issue.act.filter fun l => refTeam l.ref = u
  match ls with
  | [] => s
  | l :: _ =>
    match f b l ls with
    | .error x => s.excuseTeam u x
    | .ok k => k s

/-- Such an instruction in every team of the bundle.
DEDUCED, unsafe: notes/assumptions/74.md. -/
def teamsOp (f : State → Lane → List Lane → Except Excuse (State → State)) (s : State) : State :=
  s.actTeams.foldl (perTeam f s) s

/-- Sets the completion flag of an instruction in lanes. -/
def State.setFlags (s : State) (ls : List Lane) (flag : Nat) : State := ls.foldl (fun s l => s.setFlag l.ref flag) s

/-- The handle's record, if it is valid. -/
def State.handleOf (s : State) (r h : Nat) : Option (List Word) := aget? (s.preTeam r).handles h

/-- The error of a class. -/
def classBad (x : Except Word NumTy) : Option Word :=
  match x with
  | .ok _ => none
  | .error f => some f

/-- The operation that a lane's Chisel instruction names, before its checks.
DEDUCED, unsafe: notes/assumptions/57.md. -/
def chiselOp (b : State) (kind : TileKind) (l : Lane) (rc : List Word) (cl : Nat) (ca : Dword) (flag : Nat) (ls : List Lane) : TileOp :=
  let t := b.preTeam l.ref
  { kind := kind, word := b.issue.word, pc := b.issue.here, team := refTeam l.ref, grp := refGrp l.ref, flag := flag,
    lanes := ls.map (·.ref), acc := 0, cl := cl, m := (t.groupOf l.ref).m, ca := ca, fa := l.pre.f[0], pol := l.pre.m[0],
    ra := rc, kid := t.ctx, core := t.core }

/-- The corners of the elements that an operation reads of A or B: rows along the other axis, K positions from the origin on. -/
def Tensor.kCorners (t : Tensor) (c : Dword) (rows ks : Nat) : List Int :=
  if t.kax then t.corners (coordCh c) (coordC0 c) rows (coordC1 c) ks else t.corners (coordCh c) (coordC0 c) ks (coordC1 c) rows

/-- The checks of a Chisel instruction that names one tile by h(8s) and n8 (20 R422). -/
def chiselCheck (b : State) (kind : TileKind) (h cl flag : Nat) (l : Lane) (ls : List Lane) : Except Excuse TileOp :=
  let pol := l.pre.m[0]
  if !enginePolicyOk pol then .error (trap 0x03 pol)
  else
    match b.handleOf l.ref h with
    | none => .error (trap 0x05 (BitVec.ofNat 32 h))
    | some rc =>
      match classBad (classA (tensorOf rc) cl l.pre.f[0]) with
      | some f => .error (trap 0x04 f)
      | none =>
        if (tensorOf rc).etype < 3 then .error (trap 0x05 (BitVec.ofNat 32 h))
        else
          match readConsumed b l [.n 8] with
          | .error x => .error x
          | .ok vs => .ok (chiselOp b kind l rc cl (argAt vs 0) flag ls)

/-- CHPRE of one team (20 R425). -/
def chpreTeam (h cl flag : Nat) (b : State) (l : Lane) (ls : List Lane) : Except Excuse (State → State) :=
  match chiselCheck b .chpre h cl flag l ls with
  | .error x => .error x
  | .ok o =>
    match firstBad [
      ((badCorner (o.a.kCorners o.ca o.m 48)).isSome, trap 0x06 0 ((badCorner (o.a.kCorners o.ca o.m 48)).getD 0)),
      (coordC0 o.ca % 16 != 0, trap 0x07 0 o.ca)] with
    | some x => .error x
    | none => .ok fun s =>
      let (id, s) := s.fresh
      ((s.setTile id o).setFlags ls flag).emit l.ref (event .chiselCompileEnd { id := id })

/-- CHPRE. -/
def execChpre (fs : Bool) (hs : Fin 4) (cl : Fin 8) (s : State) : Out :=
  .next (teamsOp (chpreTeam (8 * hs.val) cl.val (s.issue.flag fs)) s)

/-- Makes stale the entries of a context that a test picks, on every core of a die (20 R425). -/
def State.chStale (s : State) (ctx : Nat) (die : Option Nat) (hit : ChEntry → Bool) : State :=
  { s with cores := amap s.cores fun c x =>
      if die.isNone ∨ die = some (dieOfCore c) then x.unwatch fun e => e.ctx == ctx && hit e else x }

/-- An entry's format matches an f0 (20 R425, scope 0): what f0 gave to its identity. -/
def ChEntry.formatIs (e : ChEntry) (f : Word) : Bool := e.fmt == idFormat (tensorOf e.rc).etype (e.cl * 2) f

/-- CHINV of one team (20 R425). -/
def chinvTeam (h scope : Nat) (b : State) (l : Lane) (_ : List Lane) : Except Excuse (State → State) :=
  let t := b.preTeam l.ref
  let pol := l.pre.m[0]
  if !enginePolicyOk pol then .error (trap 0x03 pol)
  else if scope = 2 then .ok fun s => s.chStale t.ctx (some (dieOfCore t.core)) fun _ => true
  else
    match b.handleOf l.ref h with
    | none => .error (trap 0x05 (BitVec.ofNat 32 h))
    | some rc =>
      if (tensorOf rc).etype < 3 then .error (trap 0x05 (BitVec.ofNat 32 h))
      else
        match readConsumed b l [.n 8] with
        | .error x => .error x
        | .ok vs => .ok fun s => s.chStale t.ctx (some (dieOfCore t.core)) fun e =>
            e.rc == rc && (scope == 1 || (e.coord == argAt vs 0 && e.m == (t.groupOf l.ref).m && e.formatIs l.pre.f[0]))

/-- CHINV: its flag clears at once, every matching entry being stale. -/
def execChinv (_fs : Bool) (hs : Fin 4) (imm : BitVec 8) (s : State) : Out :=
  .next (teamsOp (chinvTeam (8 * hs.val) imm.toNat) s)

/-- The status word of an entry (20 R426). -/
def chStatus : Option ChEntry → Word
  | none => 0
  | some e => if e.fresh then 0 else BitVec.ofNat 32 (2 ^ 31 + (if e.stale then 2 ^ 30 else 0) + (if e.dense then 2 ^ 29 else 0)
      + e.version % 2 ^ 16 * 2 ^ 13 + e.ops.length)

/-- The micro-op that CHRD reads. -/
def chOp (e : Option ChEntry) (i : Nat) : Word :=
  match e with
  | some x => if x.fresh then 0 else x.ops.getD i 0
  | none => 0

/-- One lane of CHRD. -/
def chrdLane (e : Option ChEntry) (s : State) (l : Lane) : State :=
  match readConsumed s l [.n 9] with
  | .error x => s.excuse l x
  | .ok vs => s.push l.ref { v := chStatus e ++ chOp e (bitsOf (argAt vs 0) 10 0) }

/-- CHRD of one team (20 R426): it waits while a compile of the identity is in progress. -/
def chrdTeam (h cl : Nat) (b : State) (l : Lane) (ls : List Lane) : Except Excuse (State → State) :=
  match chiselCheck b .chpre h cl 15 l ls with
  | .error x => .error x
  | .ok o =>
    let e := (b.core o.core).chEntry o.entry
    if (e.bind b.compiling).isSome then .error .notReady else .ok fun s => ls.foldl (chrdLane e) s

/-- CHRD: its flag clears at the push. -/
def execChrd (_fs : Bool) (hs : Fin 4) (cl : Fin 8) (s : State) : Out :=
  .next (teamsOp (chrdTeam (8 * hs.val) cl.val) s).pushOff

end Sys2Proof.Machine
end

