-- ==== Sys2Proof/Machine/AccessProc.lean ====
section
/-!
DEFINITION. Machine/AccessProc.lean: the access processor (12 R245 to R255; 20 R416 to R421): APGO, gathers and scatters, feed
queues as threads and the program use them, and branches that resolve.
-/

namespace Sys2Proof.Machine

/-! ## APGO (12 R245; 20 R417) -/

/-- The thread of a program as APGO sets it up. -/
def apThread (t : Dword) (arg : Val) (m : Vector Word 8) : Thread :=
  { pc := t.setWidth 57 + 4, n := (Vector.replicate 16 ({} : Val)).set 0 { v := arg.v }, m := m }

/-- Starts a team's program. -/
def State.startAp (s : State) (u : Nat) (th : Thread) (lanes : List Nat) (flag : Nat) : State :=
  let s := s.setThread (apRef u) th
  let s := s.modTeam u fun t =>
    { t with ap := { t.ap with running := true, started := some (lanes, flag), settled := some th, unsettled := [], branches := [] } }
  lanes.foldl (fun s r => s.setFlag r flag) s

/-- APGO of one team: not ready while its program runs, or while an older access of an active lane is under way (the fork edge).
DEDUCED, unsafe: notes/assumptions/60.md. -/
def apgoTeam (flag : Nat) (sa sb : Src) (b : State) (l : Lane) (ls : List Lane) : Except Excuse (State → State) :=
  let u := refTeam l.ref
  if (b.team u).ap.running ∨ b.forkHolds (ls.map (·.ref)) b.issue.first then .error .notReady
  else
    match readConsumed b l [sa, sb] with
    | .error x => .error x
    | .ok vs =>
      let t := argAt vs 0
      if !canonical t then .error (trap 0x06 0 t)
      else if t.toNat % 16 ≠ 0 then .error (trap 0x07 0 t)
      else .ok fun s => (popSrcs s l [sa, sb]).startAp u (apThread t { v := argAt vs 1 } l.pre.m) (ls.map (·.ref)) flag

/-- APGO. -/
def execApgo (fs : Bool) (sa sb : Src) (s : State) : Out := .next (teamsOp (apgoTeam (s.issue.flag fs) sa sb) s)

/-! ## Addresses of elements (12 R250 to R252) -/

/-- What walking the active lanes has found: locations of lanes 0 to j − 1, and the reason why lane j faulted. -/
structure Elements where
  locs : List (List Loc) := []
  bad  : Option Excuse := none
  deriving DecidableEq, Repr

/-- A reason that makes the instruction wait is no fault of an element. -/
def Excuse.waits : Excuse → Bool
  | .notReady => true
  | .await _ => true
  | _ => false

/-- The index word of a lane (12 R250): its sign-extended value; a poisoned one is consumed. -/
def State.indexWord (s : State) (l : Lane) (pol : Word) (a : Dword) : Except Excuse Dword × State :=
  match s.reach l pol a 4 false with
  | (.error x, s) => (.error x, s)
  | (.ok ls, s) =>
    match (s.unbackedRecord l.ref a ls).wordsNow (s.agentOf l.ref) pol ls with
    | (.error x, s) => (.error x, s)
    | (.ok ws, s) =>
      let w := ws.headD (0, true)
      if w.2 then (.error (trap 0x11), s) else (.ok (w.1.signExtend 64), s)

/-- The address of an element. -/
def State.elemAddr (s : State) (l : Lane) (pol : Word) (base sb : Dword) (idx : Bool) (size k : Nat) : Except Excuse Dword × State :=
  if idx then
    match s.indexWord l pol (sb + BitVec.ofNat 64 (4 * k)) with
    | (.error x, s) => (.error x, s)
    | (.ok i, s) => (.ok (base + i * BitVec.ofNat 64 size), s)
  else (.ok (base + BitVec.ofNat 64 k * sb), s)

/-- Walks lanes k, k + 1, … up to the count, until one faults. A wait of any lane is a wait of the instruction. -/
def State.elements (s : State) (l : Lane) (pol : Word) (base sb : Dword) (idx : Bool) (size : Nat) (write : Bool) :
    Nat → Nat → Except Excuse Elements × State
  | _, 0 => (.ok {}, s)
  | k, n + 1 =>
    match s.elemAddr l pol base sb idx size k with
    | (.error x, s) => if x.waits then (.error x, s) else (.ok { bad := some x }, s)
    | (.ok a, s) =>
      match s.reach l pol a size write with
      | (.error x, s) => if x.waits then (.error x, s) else (.ok { bad := some x }, s)
      | (.ok ls, s) =>
        match (s.unbackedRecord l.ref a ls).elements l pol base sb idx size write (k + 1) n with
        | (.error x, s) => (.error x, s)
        | (.ok e, s) => (.ok { e with locs := ls :: e.locs }, s)

/-- The count of a gather or scatter: n1[5:0], at most 32, or 16 in protected mode (20 R418). -/
def State.gatherCount (s : State) (u : Nat) (n1 : Dword) : Nat := min (s.feedLanes u) (bitsOf n1 5 0)

/-- The mask of the lanes 0 to j − 1. -/
def lowMask (j : Nat) : BitVec 32 := BitVec.ofNat 32 (2 ^ j - 1)

/-! ## GATH (12 R250, R251; 20 R418) -/

/-- The gathers and scatters of a core in flight (12 R246). -/
def State.gathers (s : State) (core : Nat) : Nat :=
  (s.ops.filter fun p => match p.2 with
    | .gather o => o.core == core
    | _ => false).length + (s.reqs.filter fun p => p.2.scat && p.2.core == core).length

/-- The gathers of a team in flight to a queue.
DEDUCED, unsafe: notes/assumptions/61.md. -/
def State.gathersTo (s : State) (u dq : Nat) : List (Nat × Op) :=
  s.ops.filter fun p => match p.2 with
    | .gather o => o.team == u && o.dq == dq
    | _ => false

/-- A team's queue has no room: entries and gathers under way fill it. -/
def State.feedFull (s : State) (u dq : Nat) : Bool :=
  decide (64 ≤ ((aget {} (s.team u).dq dq : Feed).entries.length + (s.gathersTo u dq).length))

/-- Starts a gather whose elements are known.
DEDUCED, unsafe: notes/assumptions/61.md. -/
def State.startGather (s : State) (l : Lane) (flag dq : Nat) (pol : Word) (size : Nat) (locs : List (List Loc)) : State :=
  let u := refTeam l.ref
  let g := s.agentOf l.ref
  let (id, s) := s.fresh
  let o : GatherOp := { ref := l.ref, team := u, core := g.core, flag := flag, dq := dq, pol := pol, size := size, locs := locs,
                        instr := (s.team u).ap.count }
  let s := ({ s with ops := aset s.ops id (.gather o) }.push l.ref { v := (lowMask locs.length).setWidth 64 }).setFlag l.ref flag
  s.emitAll l.ref (s.fetchEvents g id pol (devWords locs.flatten) ++ [event .gatherComplete { id := id }])

/-- GATH of the program. -/
def gathLane (dq flag : Nat) (m : Fin 8) (sa sb : Src) (size : Nat) (idx : Bool) (b s : State) (l : Lane) : State :=
  let u := refTeam l.ref
  match readConsumed b l [sa, sb, .n 1] with
  | .error x => s.excuse l x
  | .ok vs =>
    if 16 ≤ s.gathers (b.coreOf l.ref) ∨ s.feedFull u dq then s.excuse l .notReady
    else
      match s.elements l (l.pol m) (argAt vs 0) (argAt vs 1) idx size false 0 (b.gatherCount u (argAt vs 2)) with
      | (.error x, s) => s.excuse l x
      | (.ok e, s) =>
        match e.locs, e.bad with
        | [], some x => s.excuse l x
        | locs, _ => s.startGather l flag dq (l.pol m) size locs

/-- GATH. -/
def execGath (dq m : Fin 8) (fs : Bool) (sa sb : Src) (sz md : Bool) (s : State) : Out :=
  .next (policyGate .load m (fun s =>
    (s.forLanes (gathLane dq.val (s.issue.flag fs) m sa sb (if sz then 8 else 4) md s)).pushOff) s)

/-- Reads the elements of a gather, lane by lane. A word that a package which is down has held up reads as poisoned (02 R48). -/
def State.readElems (s : State) (g : Agent) (pol : Word) (size : Nat) : List (List Loc) → List Val × State
  | [] => ([], s)
  | ls :: r =>
    let lost := (devWords ls).any s.isLost
    let (ws, s) := s.readWords g pol ls
    let (vs, s) := s.readElems g pol size r
    ({ v := loadValue size false 0 (ws.map (·.1)), psn := ws.any (·.2) || lost } :: vs, s)

/-- An entry pushed by an instruction is speculative while an older branch is unresolved (12 R253). -/
def Team.specAt (t : Team) (instr : Nat) : Bool := t.ap.branches.any fun x => x.instr < instr

/-- GATHER_COMPLETE (12 R251): the elements have been read, and the entry is pushed, after those of older gathers to the queue. -/
def execGatherComplete (s : State) : Out :=
  let id := s.ev.id
  match aget? s.ops id with
  | some (.gather o) =>
    if (s.gathersTo o.team o.dq).any fun p => p.1 < id then .next s
    else
      match s.agentHold (s.agentOf o.ref) o.pol o.locs.flatten (s.again .gatherComplete) with
      | some s => .next s
      | none =>
        let (vs, s) := s.readElems (s.agentOf o.ref) o.pol o.size o.locs
        let s := { s with ops := adel s.ops id }.clearFlag o.ref o.flag
        .next ((s.feedPush o.team o.dq vs (lowMask o.locs.length) ((s.team o.team).specAt o.instr) o.instr).prepend
          [teamEndEvent o.team])
  | _ => .next s

/-! ## SCAT (12 R252; 20 R418) -/

/-- Starts the writes of a scatter: one request holds them all. -/
def State.startScatter (s : State) (l : Lane) (flag : Nat) (pol data : Word) (locs : List (List Loc)) : State :=
  let s := if storeEscapes pol then s.escapeBy l.ref else s
  let g := s.agentOf l.ref
  let (id, s) := s.addReq { ref := l.ref, flag := flag, kind := .store, core := g.core, kid := g.ctx, pol := pol, va := 0, off := 0,
                            locs := locs.flatten, scat := true }
  let (n, s) := locs.flatten.foldl (fun (p : Nat × State) x =>
    let (k, s) := p.2.putWord l.ref id pol data 15 x
    (p.1 + k, s)) (0, s)
  let s := s.push l.ref { v := BitVec.ofNat 64 locs.length }
  match aget? s.reqs id with
  | some x => if n = 0 then { s with reqs := adel s.reqs id } else { s with reqs := aset s.reqs id { x with left := n } }.setFlag l.ref flag
  | none => s

/-- SCAT of the program: it waits until every older instruction has settled (12 R255). -/
def scatLane (dn flag : Nat) (m : Fin 8) (sa sb : Src) (idx : Bool) (b s : State) (l : Lane) : State :=
  match readConsumed b l [sa, sb, .n 1, .n (Fin.ofNat 16 dn)] with
  | .error x => s.excuse l x
  | .ok vs =>
    if 16 ≤ s.gathers (b.coreOf l.ref) ∨ b.apHolds l.ref (l.pol m) true then s.excuse l .notReady
    else
      match s.elements l (l.pol m) (argAt vs 0) (argAt vs 1) idx 4 true 0 (b.gatherCount (refTeam l.ref) (argAt vs 2)) with
      | (.error x, s) => s.excuse l x
      | (.ok e, s) =>
        match e.locs, e.bad with
        | [], some x => s.excuse l x
        | locs, _ => s.startScatter l flag (l.pol m) (loWord (argAt vs 3)) locs

/-- SCAT. -/
def execScat (dq m : Fin 8) (fs : Bool) (sa sb : Src) (md : Bool) (s : State) : Out :=
  .next (policyGate .store m (fun s => (s.forLanes (scatLane dq.val (s.issue.flag fs) m sa sb md s)).pushOff) s)

/-! ## DQSEND, DQCNT, GVALID, APWAIT (20 R419, R420) -/

/-- DQSEND of the program: poison of the value, or of the mask, poisons every lane value. -/
def dqsendLane (dq : Nat) (sa sb : Src) (s : State) (l : Lane) : State :=
  let u := refTeam l.ref
  match readAll s l [sa, sb] .none with
  | .error x => s.excuse l x
  | .ok vs =>
    if s.feedFull u dq ∨ !(s.gathersTo u dq).isEmpty then s.excuse l .notReady
    else
      let mask : BitVec 32 := if (vs.getD 1 {}).psn then 0xFFFFFFFF else loWord (argAt vs 1)
      let mask := if s.feedLanes u = 16 then mask &&& 0xFFFF else mask
      let instr := (s.team u).ap.count
      s.feedPush u dq (List.replicate 32 { v := argAt vs 0, psn := anyPsn vs }) mask ((s.team u).specAt instr) instr

/-- DQSEND. -/
def execDqsend (dq : Fin 8) (_fs : Bool) (sa sb : Src) (s : State) : Out := .next (s.forLanes (dqsendLane dq.val sa sb))

/-- DQCNT: the entries that the lane can pop. -/
def execDqcnt (dq : Fin 8) (_fs : Bool) (s : State) : Out :=
  .next (s.forLanes fun s l =>
    s.push l.ref { v := BitVec.ofNat 64 ((aget {} (s.preTeam l.ref).dq dq.val : Feed).count (s.visLane l.ref)) }).pushOff

/-- GVALID: the mask of the lane's next entry, which it does not pop. -/
def execGvalid (dq : Fin 8) (_fs : Bool) (s : State) : Out :=
  .next (s.forLanes fun s l =>
    let t := s.preTeam l.ref
    match (aget {} t.dq dq.val : Feed).head (s.visLane l.ref) with
    | some e => s.push l.ref { v := e.mask.setWidth 64 }
    | none => s.excuse l (if s.feedOver (refTeam l.ref) dq.val then trap 0x0C (BitVec.ofNat 32 dq.val) else .notReady)).pushOff

/-- A team's program runs, or an access of it is under way (12 R249, join). -/
def State.apBusy (s : State) (u : Nat) : Bool :=
  (s.team u).ap.running || (s.reqs.any fun p => p.2.ref == apRef u)
    || (s.ops.any fun p => match p.2 with
        | .gather o => o.team == u
        | _ => false)

/-- APWAIT: the status of the program that ended last. -/
def execApwait (_fs : Bool) (s : State) : Out :=
  .next (s.forLanes fun s l =>
    let u := refTeam l.ref
    let a := (s.preTeam l.ref).ap
    if s.apBusy u then s.excuse l .notReady
    else s.push l.ref { v := if a.ended then BitVec.ofNat 64 (256 + a.status.toNat) else 0 }).pushOff

/-! ## Branches that resolve (12 R253, R254) -/

/-- The queues when branches have resolved: an entry stays speculative only behind one that has not, and one that every lane has
dropped is freed. -/
def Team.unmark (t : Team) (lanes : Nat) : Team :=
  { t with dq := amap t.dq fun _ f =>
      ({ f with entries := f.entries.map fun e => { e with spec := t.specAt e.instr } } : Feed).release lanes }

/-- The flags of the program that an operation older than a branch still holds. -/
def State.apFlags (s : State) (u : Nat) (x : ApBranch) : BitVec 12 :=
  let held (i : Nat) : Bool :=
    (s.reqs.any fun p => p.2.ref == apRef u && decide (p.1 < x.first) && p.2.flag == i)
      || (s.ops.any fun p => match p.2 with
          | .gather o => o.team == u && decide (p.1 < x.first) && o.flag == i
          | _ => false)
  (List.range 12).foldl (fun c i => if x.saved.cf.getLsbD i && held i then setBit c i true else c) 0

/-- Squashes every instruction younger than a branch, and goes on where the branch leads. -/
def State.squash (s : State) (u : Nat) (x : ApBranch) : State :=
  let cf := s.apFlags u x
  let th := { x.saved with cf := cf }
  let s := { s with reqs := afilter s.reqs fun k y => y.ref ≠ apRef u ∨ k < x.first,
                    ops := afilter s.ops fun k y => match y with
                      | .gather o => o.team ≠ u ∨ k < x.first
                      | _ => true }
  (s.setThread (apRef u) th).modTeam u fun t =>
    { t with dq := amap t.dq fun _ f => f.squash x.instr,
             ap := { t.ap with branches := [], unsettled := (t.ap.unsettled.filter fun p => p.1 < x.instr) ++ [(x.instr, th)] } }

/-- AP_BRANCH_RESOLVE: the oldest unresolved branch of a team's program resolves. -/
def execApBranchResolve (s : State) : Out :=
  let u := s.ev.id
  match (s.team u).ap.branches with
  | [] => .next s
  | x :: r =>
    if x.right then .next (s.modTeam u fun t => { t with ap := { t.ap with branches := r } }.unmark (s.feedLanes u))
    else .next ((s.squash u x).modTeam u fun t => t.unmark (s.feedLanes u))

end Sys2Proof.Machine
end

