-- ==== Sys2Proof/Machine/Armature.lean ====
section
/-!
DEFINITION. Machine/Armature.lean: what a package does with the messages and flits of its links, link state and link training, and
the failure of a peer (02 R32 to R49).
-/

namespace Sys2Proof.Machine

/-! ## Messages at the home (02 R40, R46) -/

/-- The words of this package that a message names: with its index in the unit. -/
def FabMsg.named (m : FabMsg) : List (Nat × Nat) := (maskWords m.mask).map fun i => (i, m.unit % 2 ^ 31 * 64 + i)

/-- A discarded message sets PROTERR of its link (02 R40).
DEDUCED, safe: notes/assumptions/27.md. -/
def State.discardMsg (s : State) (g : Nat) : State := s.modLink g fun l => { l with proterr := true }

/-- The key id that tags a word at its home: that of the unit the LLC holds, else that under which the word went to another package. -/
def MemSys.tagOf (m : MemSys) (w : Nat) : Option Nat :=
  match aget? m.llc (w / 64) with
  | some x => some x.kid
  | none => aget? m.tags w

/-- The key id under which a remote request reaches a word: that which tags it, else one that the spec leaves open
(DEDUCED, safe: notes/assumptions/13.md). -/
def State.remoteKid (s : State) (w : Nat) : Nat × State :=
  match s.mem.tagOf w with
  | some k => (k, s)
  | none =>
    let (v, s) := s.takeFree
    (v.toNat % 256, s)

/-- The event being executed, which its home has taken in and tries again. -/
def State.againTaken (s : State) (op : Instr) : Event := { op := op, arg := { s.ev with keep := true } }

/-- Whether a request of another package for a word has to wait: as one of a die does, without its own copy where `but` names it. -/
def State.remoteHold (s : State) (write : Bool) (but : Option Nat) (e : Event) (w : Nat) : Option State :=
  match s.hold w write but e with
  | some s => some s
  | none =>
    match if write then s.copyHold (s.remoteKid w).1 w e else none with
    | some s => some s
    | none => s.roomHold w e

/-- Runs a request of another package when it is for this package and nothing holds its words.
DEDUCED, safe: notes/assumptions/27.md. -/
def remoteRequest (op : Instr) (write : Bool) (own : Bool) (k : FabMsg → State → State) (s : State) : State :=
  let m := s.ev.msg
  if m.unit / 2 ^ 31 ≠ s.arm.pkgid then s.discardMsg s.ev.link
  else
    match (m.named.map (·.2)).findSome? (s.remoteHold write (if own then some m.srcPkg else none) (s.againTaken op)) with
    | some s => s
    | none => k m s

/-- Reads named words for another package: index, data and poison of each. -/
def State.readRemote (s : State) : List (Nat × Nat) → List (Nat × Word × Bool) × State
  | [] => ([], s)
  | (i, w) :: ws =>
    let (kid, s) := s.remoteKid w
    let (d, psn, s) := s.plinthRead kid w s.ev.keep
    let (r, s) := s.readRemote ws
    ((i, d, psn || s.isLost w) :: r, s)

/-- Enters a package in the remote sharer list of a unit (02 R46): its slot, or none when the list is full. -/
def State.addSharer (s : State) (w pkg : Nat) : Option Nat × State :=
  let s := (s.dirRoom (w / 64)).modDir w fun x => { x with gone := x.gone.filter (· != pkg) }
  let e := aget {} s.mem.dir (w / 64)
  match e.rlist.idxOf? pkg with
  | some i => (some i, s)
  | none =>
    match e.rlist.idxOf? 1024 with
    | some i => (some i, s.modMem fun m => { m with dir := aset m.dir (w / 64) { e with rlist := e.rlist.set i pkg } })
    | none =>
      if e.rlist.length < 4 then
        (some e.rlist.length, s.modMem fun m => { m with dir := aset m.dir (w / 64) { e with rlist := e.rlist ++ [pkg] } })
      else (none, s.modMem fun m => { m with dir := aset m.dir (w / 64) { e with rovf := true } })

/-- The slot of the remote sharer list that a package modifying a word of a unit can take: its own, a free one, or one whose package
modifies no word of the unit, since the overflow bit can stand for a sharer but not for a modifier. -/
def DirEntry.modifierSlot (e : DirEntry) (pkg : Nat) : Option Nat :=
  match e.rlist.idxOf? pkg with
  | some i => some i
  | none =>
    (List.range 4).find? fun i => e.rlist.getD i 1024 == 1024 || !(e.words.any fun p => p.2.rst == 2 && p.2.ridx == i)

/-- A request for sole ownership finds every slot of its unit naming the modifier of some word: the words of the first are revoked, and
the request waits.
DEDUCED, safe: notes/assumptions/105.md. -/
def State.slotHold (s : State) (w pkg : Nat) (e : Event) : Option State :=
  let d := aget {} s.mem.dir (w / 64)
  let p := d.rlist.getD 0 1024
  if (d.modifierSlot pkg).isSome ∨ (s.routeTo p).isNone then none
  else
    let ws := (d.words.filter fun q => q.2.rst = 2 ∧ q.2.ridx = 0).map fun q => w / 64 * 64 + q.1
    let s := ws.foldl (fun s x => if ahas s.mem.recalls x then s else s.recallFrom x [p]) s
    s.waitAny ws e

/-- Enters the modifier of a word: its slot. What a package without a route modified in that slot is no longer its own. -/
def State.addModifier (s : State) (w pkg : Nat) : Nat × State :=
  let s := s.dirRoom (w / 64)
  let e := aget {} s.mem.dir (w / 64)
  let i := (e.modifierSlot pkg).getD 0
  let ps := (List.range (max (i + 1) e.rlist.length)).map fun j => if j = i then pkg else e.rlist.getD j 1024
  let rovf := e.rovf || (i < e.rlist.length && e.rlist.getD i 1024 != pkg && e.rlist.getD i 1024 != 1024)
  let free (x : DirWord) : DirWord := if x.rst = 2 ∧ x.ridx = i ∧ e.rlist.getD i 1024 ≠ pkg then { x with rst := 0 } else x
  (i, s.modMem fun m => { m with dir := aset m.dir (w / 64) { e with rlist := ps, rovf := rovf, words := amap e.words fun _ x => free x } })

/-- RDW. -/
def execRdw (s : State) : Out :=
  .next (remoteRequest .rdw false false (fun m s =>
    let (ws, s) := s.readRemote m.named
    let s := m.named.foldl (fun s p =>
      (s.addSharer p.2 m.srcPkg).2.modDir p.2 fun x => { x with rst := 1 }) s
    s.replyData m 0x20 5 ws) s)

/-- A word goes modified to another package; its key id stays noted. -/
def State.ownRemote (s : State) (w pkg : Nat) : State :=
  let (i, s) := (s.homeOnly w).addModifier w pkg
  let s := s.modDir w fun x => { x with rst := 2, ridx := i, gone := [] }
  match aget? s.mem.llc (w / 64) with
  | some x => s.modMem fun m => { m with tags := aset m.tags w x.kid }
  | none => s

/-- RDO: the words are revoked from every other package and every die, and are modified at the requester from then on. -/
def execRdo (s : State) : Out :=
  .next (remoteRequest .rdo true true (fun m s =>
    match s.slotHold (m.unit % 2 ^ 31 * 64) m.srcPkg (s.againTaken .rdo) with
    | some s => s
    | none =>
      let s := m.named.foldl (fun s p => s.copyFirst (s.remoteKid p.2).1 p.2) s
      let (ws, s) := s.readRemote m.named
      (m.named.foldl (fun s p => s.ownRemote p.2 m.srcPkg) s).replyData m 0x20 5 ws) s)

/-- The i-th carried word of a message with its mask and poison. The bit of PMASK that belongs to a carried word is the one with the
word's index in the unit; a word that a message names and does not carry is 0.
DEDUCED, unsafe: notes/assumptions/110.md. -/
def FabMsg.carried (m : FabMsg) (i : Nat) (k : Nat) : Word × BitVec 4 × Bool :=
  (m.words.getD k 0, m.be.getD k 15, m.pmask.getLsbD i)

/-- The named words with their places among the carried ones. -/
def FabMsg.numbered (m : FabMsg) : List ((Nat × Nat) × Nat) := m.named.zip (List.range m.named.length)

/-! ### Remote writes (02 R47, R49) -/

/-- A remote write is stamped on entry by the die that owns the receiving link. Until it is performed no other component applies it. -/
def State.stampRemote (s : State) (x : Write) : Nat × State :=
  let (id, s) := s.newWrite x
  let s := s.stampWrite id
  (id, s.modMem fun m => { m with writes := amod x m.writes id fun y => { y with togo := [] } })

/-- Takes in the writes of a message: they are stamped, and performed after the earlier ones of their package.
DEDUCED, safe: notes/assumptions/111.md. -/
def State.takeWrites (s : State) (op : Instr) (xs : List Write) : State :=
  let p := s.ev.msg.srcPkg
  let (ids, s) := (xs.filter fun x => s.admits x.kid x.w false).foldl (fun (q : List Nat × State) x =>
    let (id, s) := q.2.stampRemote x
    (q.1 ++ [id], s)) ([], s)
  let e : Event := { op := op, arg := { s.ev with keep := true, words := ids } }
  let first := (aget [] s.arm.writes p).isEmpty
  let s := { s with arm := { s.arm with writes := amod [] s.arm.writes p (· ++ [e]) } }
  if first then s.prepend [e] else s

/-- A stamped remote write has been performed: the other components come to apply it. -/
def State.performed (s : State) (id : Nat) (x : Write) : State :=
  (s.modMem fun m => { m with writes := aset m.writes id { x with togo := otherComps x.comp } }).prepend (applyEvents id x.comp)

/-- A remote write is performed at the home of its word. One that a package which is down has held up writes nothing (02 R48). -/
def State.performRemote (s : State) (id : Nat) : State :=
  match aget? s.mem.writes id with
  | none => s
  | some x =>
    (if s.isLost x.w then s
     else ((s.copyFirst x.kid x.w).homeOnly x.w).homeStore x.kid x.w .normal x.data x.mask x.psn).performed id x

/-- Whether the writes of a message have to wait at the home, one by a package that may keep its copy where `but` names it. -/
def State.takenHold (s : State) (but : Option Nat) (e : Event) (ids : List Nat) : Option State :=
  (ids.filterMap fun id => aget? s.mem.writes id).findSome? fun x =>
    match s.hold x.w true but e with
    | some s => some s
    | none => s.copyHold x.kid x.w e

/-- The first remote writes of a package have been performed: the next follow. -/
def State.nextRemote (s : State) (p : Nat) : State :=
  let q := (aget [] s.arm.writes p).drop 1
  ({ s with arm := { s.arm with writes := if q.isEmpty then adel s.arm.writes p else aset s.arm.writes p q } }).prepend (q.take 1)

/-- Performs the writes of a message that its home has taken in, when nothing holds their words, and answers it by DONE.
DEDUCED, safe: notes/assumptions/111.md. -/
def State.runWrites (s : State) (op : Instr) : State :=
  let m := s.ev.msg
  let ids := s.ev.words
  match s.takenHold none (s.again op) ids with
  | some s => s
  | none => ((ids.foldl (fun s id => s.performRemote id) s).nextRemote m.srcPkg).reply m 0x21 5 m.mask 0 []

/-- The write that a message makes of a word, by the die that owns the link. -/
def FabMsg.writeOf (m : FabMsg) (link kid w : Nat) (p : (Nat × Nat) × Nat) : Write :=
  let (d, mask, psn) := m.carried p.1.1 p.2
  { comp := dieOfLink link, core := none, kid := kid, w := w, data := d, mask := mask, psn := psn }

/-- WRW (02 R47): each word is written at the home, stamped on entry as a write of the die that owns the link, in the order of the
package's writes, and answered by DONE. -/
def execWrw (s : State) : Out :=
  let e := s.ev
  .next (if e.keep then s.runWrites .wrw
    else if e.msg.unit / 2 ^ 31 ≠ s.arm.pkgid then s.discardMsg e.link
    else
      let (xs, s) := e.msg.numbered.foldl (fun (q : List Write × State) p =>
        let (kid, s) := q.2.remoteKid p.1.2
        (q.1 ++ [e.msg.writeOf e.link kid p.1.2 p], s)) ([], s)
      s.takeWrites .wrw xs)

/-- Takes in the atomics of an ATW, which are stamped on entry (02 R47). Their operand is the first word of the data slot. -/
def State.takeAtoms (s : State) : State :=
  let m := s.ev.msg
  let (ids, s) := m.numbered.foldl (fun (q : List Nat × State) p =>
    let (kid, s) := q.2.remoteKid p.1.2
    if s.admits kid p.1.2 false then
      let (id, s) := s.stampRemote { comp := dieOfLink s.ev.link, core := none, kid := kid, w := p.1.2, data := m.words.getD 0 0,
                                     mask := 15, psn := false, atom := some (m.aop % 16) }
      (q.1 ++ [id], s)
    else (q.1, s)) ([], s)
  s.prepend [{ op := .atw, arg := { s.ev with keep := true, words := ids } }]

/-- A stamped atomic is performed at the home of its word: the old word and its poison. A poisoned word is left. -/
def State.performAtom (s : State) (new : Word) (id : Nat) : Word × Bool × State :=
  match aget? s.mem.writes id with
  | none => (0, true, s)
  | some x =>
    let (old, psn, s) := ((s.copyFirst x.kid x.w).homeOnly x.w).homeWord x.kid x.w .normal
    let psn := psn || s.isLost x.w
    (old, psn, (if psn then s
      else s.homeStore x.kid x.w .normal (atomNew (x.atom.getD 0) old x.data new) 15 false).performed id x)

/-- Performs the atomics of an ATW when nothing holds their words, and answers with the old words; a word under no live key id is
poisoned. -/
def State.runAtoms (s : State) : State :=
  let m := s.ev.msg
  let ids := s.ev.words
  match s.takenHold (some m.srcPkg) (s.again .atw) ids with
  | some s => s
  | none =>
    let (ws, s) := m.named.foldl (fun (q : List (Nat × Word × Bool) × State) p =>
      match ids.find? fun id => (aget? q.2.mem.writes id).any fun x => x.w == p.2 with
      | some id =>
        let (old, psn, s) := q.2.performAtom (m.words.getD 1 0) id
        (q.1 ++ [(p.1, old, psn)], s)
      | none => (q.1 ++ [(p.1, 0, true)], q.2)) ([], s)
    s.replyData m 0x20 5 ws

/-- ATW: an atomic at the home, after the word is revoked from every other package; answered by DATA with the old word. AOP is
the atomic's FN (18 R382), and the new word of CAS is the second of the data slot (DEDUCED, unsafe: notes/assumptions/14.md). -/
def execAtw (s : State) : Out :=
  let e := s.ev
  .next (if e.keep then s.runAtoms
    else if 27 ≤ e.msg.aop ∨ (13 ≤ e.msg.aop ∧ e.msg.aop < 16) ∨ e.msg.unit / 2 ^ 31 ≠ s.arm.pkgid then s.discardMsg e.link
    else s.takeAtoms)

/-- EVW (02 R46): modified words come back to their home; an INV in flight for them takes them as the write-back. -/
def execEvw (s : State) : Out :=
  let m := s.ev.msg
  .next (if m.unit / 2 ^ 31 ≠ s.arm.pkgid then s.discardMsg s.ev.link
    else
      let s := m.numbered.foldl (fun s p =>
        let (d, mask, psn) := m.carried p.1.1 p.2
        let (kid, s) := s.remoteKid p.1.2
        let s := if ahas s.mem.recalls p.1.2 then s else s.copyFirst kid p.1.2
        (s.homeWriteBy (dieOfLink s.ev.link) kid p.1.2 d mask psn true).modDir p.1.2 fun x => { x with rst := 0 }) s
      s.reply m 0x21 5 m.mask 0 [])

/-- INV (02 R38): this package answers that it holds no copy. Its page tables name only its own memory (08 R162), so no die
holds a word of another package.
DEDUCED, safe: notes/assumptions/37.md. -/
def execInvMsg (s : State) : Out := .next (s.reply s.ev.msg 0x22 0 s.ev.msg.mask 0 [])

/-- The live context and replica entry whose die-0 replica holds a word (18 R375). -/
def State.mcwEntry (s : State) (w : Nat) : Option (Nat × Replica) :=
  let hit (x : Replica) : Bool :=
    x.used && x.len != 0 && decide (aget 0 x.pa 0 * 2 ^ 19 ≤ w) && decide (w < (aget 0 x.pa 0 + x.len) * 2 ^ 19)
  (s.ctxs.filter fun p => p.2.state == .live).findSome? fun p =>
    ((p.2.reps.map (·.2)).find? hit).map fun x => (p.1, x)

/-- MCW (02 R49; 18 R375): the word is written in every replica of the entry that covers it, each as a remote write. -/
def execMcw (s : State) : Out :=
  let e := s.ev
  .next (if e.keep then s.runWrites .mcw
    else if e.msg.unit / 2 ^ 31 ≠ s.arm.pkgid ∨ e.msg.named.any fun p => (s.mcwEntry p.2).isNone then s.discardMsg e.link
    else
      s.takeWrites .mcw (e.msg.numbered.flatMap fun p =>
        match s.mcwEntry p.1.2 with
        | none => []
        | some (c, x) => (List.range 4).map fun i =>
            e.msg.writeOf e.link c (p.1.2 - aget 0 x.pa 0 * 2 ^ 19 + aget 0 x.pa i * 2 ^ 19) p))

/-! ## Replies -/

/-- An access that a package does not answer leaves an error record of its context, once (20 R438). -/
def State.reqRecord (s : State) (id : Nat) : State :=
  match aget? s.reqs id with
  | some r =>
    if r.noted then s
    else { s.errRecord r.kid 0 4 (s.tidOf r.ref) r.va with reqs := aset s.reqs id { r with noted := true } }
  | none => s

/-- What waits for a request to a package has its answer: a write that an MCW carries (`kind` 0), or a recall. With `lost` there will
be none, since the package cannot be reached or is down (02 R46, R48): the write is discarded with an error record. -/
def State.answered (s : State) (pkg kind x : Nat) (lost : Bool) : State :=
  if kind = 0 then (if lost then s.reqRecord ((aget? s.mem.writes x).map (·.req) |>.getD 0) else s).mcwDone x
  else s.recallAnswered x pkg lost

/-- A reply ends the wait of its tag. The tag is free for a request that waits for one.
DESIGN CHOICE, safe: notes/assumptions/112.md. -/
def State.answerTag (s : State) (tag : Nat) (lost : Bool := false) : State :=
  match aget? s.arm.waits tag with
  | none => s
  | some (pkg, k, x) => (({ s with arm := { s.arm with waits := adel s.arm.waits tag } }).sendUnsent).answered pkg k x lost

/-- DATA: words and poison bits for the request that the tag names. -/
def execDataMsg (s : State) : Out := .next (s.answerTag s.ev.msg.tag)

/-- DONE; with OPC 0, which no message has, the finding that no reply will come, since the request was discarded (02 R40, R46).
DESIGN CHOICE, safe: notes/assumptions/112.md. -/
def execDoneMsg (s : State) : Out := .next (s.answerTag s.ev.msg.tag (s.ev.msg.opc == 0))

/-- INVACK. -/
def execInvack (s : State) : Out := .next (s.answerTag s.ev.msg.tag)

/-- WBK: the modified data goes to the home, as a write of the die that owns the link (02 R47; 09 R190), and the recall is answered. -/
def execWbk (s : State) : Out :=
  let m := s.ev.msg
  let s := m.numbered.foldl (fun s p =>
    let (d, mask, psn) := m.carried p.1.1 p.2
    let (kid, s) := s.remoteKid p.1.2
    s.homeWriteBy (dieOfLink s.ev.link) kid p.1.2 d mask psn true) s
  .next (s.answerTag m.tag)

/-! ## A peer that fails (02 R48) -/

/-- Marks a word lost-poisoned, which is a write of the Plinth (09 R185): the key id that tags it at the home, if one does.
DEDUCED, safe: notes/assumptions/32.md. -/
def State.losePoison (s : State) (w : Nat) : Option Nat × State :=
  let kid := s.mem.tagOf w
  let k := kid.getD 0
  let s := (((s.applyAll 5).homeOnly w).llcPut k w .normal (poisonWord w .modified 15)).writeStored k w 0 true
  let s := s.stampAll { comp := 5, core := none, kid := k, w := w, data := 0, mask := 15, psn := true }
  (kid, (s.modMem fun m => { m with tags := adel m.tags w }).modDir w fun x => { x with rst := 0 })

/-- The words that the directory shows as modified at a package. -/
def MemSys.modifiedAt (m : MemSys) (pkg : Nat) : List Nat :=
  m.dir.flatMap fun p => (p.2.words.filter fun q => q.2.rst = 2 ∧ p.2.rlist.getD q.2.ridx 1024 = pkg).map fun q => p.1 * 64 + q.1

/-- Removes a package from a sharer list; slots keep their numbers. -/
def DirEntry.removeSharer (e : DirEntry) (pkg : Nat) : DirEntry :=
  let l := e.rlist.map fun p => if p = pkg then 1024 else p
  let gone := !e.rovf && l.all (· = 1024)
  { e with rlist := if gone then [] else l,
           words := if gone then amap e.words fun _ x => if x.rst = 1 then { x with rst := 0 } else x else e.words }

/-- Everything that waits for a reply of a package completes, what has not been sent for want of a tag with it (02 R48). -/
def State.answerAll (s : State) (pkg : Nat) : State :=
  let gone := s.arm.unsent.filter fun x => x.1.dstPkg = pkg
  let s := { s with arm := { s.arm with unsent := s.arm.unsent.filter fun x => x.1.dstPkg ≠ pkg } }
  let s := ((s.arm.waits.filter fun p => p.2.1 = pkg).map (·.1)).foldl (fun s t => s.answerTag t true) s
  gone.foldl (fun s x => s.answered pkg x.2.1 x.2.2 true) s

/-- A participant of a collective that a package has sent. -/
def Op.ofPackage (o : Op) (pkg : Nat) : Bool :=
  match o with
  | .coll o => o.pkg == some pkg
  | _ => false

/-- A package is down (02 R48): its route is cleared, its modified words are lost-poisoned, it leaves the sharer lists, what
waits for it completes, and after that the contexts of the lost words are restored. Its participants of collectives that are not
matched count as ranks that are down (20 R430).
DEDUCED, safe: notes/assumptions/32.md.
DEDUCED, unsafe: notes/assumptions/33.md. -/
def State.peerDown (s : State) (pkg group : Nat) : State :=
  let s := { s with ops := afilter s.ops fun _ o => !o.ofPackage pkg }
  let s := { s with arm := { s.arm with routes := adel s.arm.routes pkg, down := (pkg :: s.arm.down).eraseDups } }
  let (kids, s) := (s.mem.modifiedAt pkg).foldl (fun (p : List Nat × State) w =>
    let (k, s) := p.2.losePoison w
    match k with
    | some k => if k = 0 then (p.1, s.plinthFault 1 w) else (p.1 ++ [k], s)
    | none => (p.1, s.plinthFault 1 w)) ([], s)
  let s := s.modMem fun m => { m with dir := amap m.dir fun _ e => e.removeSharer pkg }
  let s := s.prepend (kids.eraseDups.map fun k => event .ctxRestore { ctx := k, cause := 1 })
  (s.answerAll pkg).postMbx 0x04 pkg (BitVec.ofNat 32 group)

/-- PEERDN: a message that reports package UNIT[40:31] down. The event names the link on which it came.
DEDUCED, unsafe: notes/assumptions/33.md. -/
def execPeerdn (s : State) : Out :=
  let p := s.ev.msg.unit / 2 ^ 31 % 1024
  .next (if s.arm.down.contains p then s else s.peerDown p s.ev.link)

/-- ARM_IDENT (02 R45). -/
def execArmIdent (s : State) : Out :=
  .next (s.modLink s.ev.link fun l => { l with peerv := true, peerpkg := s.ev.msg.srcPkg })

/-! ## Links (02 R42, R45) -/

/-- The ports of a link that are powered and have lock. -/
def State.lockedPorts (s : State) (g : Nat) : List Nat := [2 * g, 2 * g + 1].filter fun p => s.portLive p && (s.port p).lock

/-- A route entry names a link: it is usable, or the link has cleared its VALID bit. -/
def Route.names (r : Route) (g : Nat) : Bool := (r.valid || r.cut) && r.group == g

/-- Clears the VALID bit of every route entry that names a link (02 R45). -/
def State.clearRoutes (s : State) (g : Nat) : State :=
  let cut (r : Route) : Route := if r.names g then { r with valid := false, cut := true } else r
  { s with arm := { s.arm with routes := amap s.arm.routes fun _ r => cut r } }

/-- A link that was up goes down: PEERDN is set, the packages routed over it are down, and its route entries are cleared.
DEDUCED, unsafe: notes/assumptions/33.md. -/
def State.goDown (s : State) (g : Nat) : State :=
  if !(s.link g).up then s
  else
    let s := s.modLink g fun l =>
      { l with up := false, peerdn := true, half := false, replay := [], outq := [], freed := [], retryDue := false, early := [],
               waiting := false, acked := false, txseq := 0, rxseq := 0, creq := 0, crep := 0, cctl := 0, retries := 0,
               replayDue := none }
    let pkgs := (s.arm.routes.filter fun p => p.2.valid && p.2.group == g && p.1 != s.arm.pkgid).map (·.1)
    (pkgs.foldl (fun s p => s.peerDown p g) s).clearRoutes g

/-- A link whose AGRP_CTL.UP is 1 comes up with the credits of R37, unless the topology keeps every link down (02 R43) or no port of
it has lock.
DEDUCED, safe: notes/assumptions/113.md. -/
def State.comeUp (s : State) (g : Nat) : State :=
  let ps := s.lockedPorts g
  if !(s.link g).want ∨ (s.link g).up ∨ s.arm.topo = 0 ∨ ps.isEmpty then s
  else s.modLink g fun l => { l with up := true, half := ps.length = 1, side := ps.headD 0 % 2, creq := 128, crep := 128, cctl := 16 }

/-- AGRP_CTL.UP of a link is written. -/
def State.setWant (s : State) (g : Nat) (b : Bool) : State := s.modLink g fun l => { l with want := b }

/-- LINK_UP. -/
def execLinkUp (s : State) : Out := .next ((s.setWant s.ev.link true).comeUp s.ev.link)

/-- LINK_DOWN. -/
def execLinkDown (s : State) : Out := .next ((s.setWant s.ev.link false).goDown s.ev.link)

/-- The ports of a link that take part in training: those with power that are not left off (02 R45; 01 R20). -/
def State.trainPorts (s : State) (g : Nat) : List Nat :=
  [2 * g, 2 * g + 1].filter fun p => !s.hub.portsOff.contains p && s.serOn p

/-- Changes the ports of a link that take part in training. -/
def State.modPorts (s : State) (g : Nat) (f : Port → Port) : State := (s.trainPorts g).foldl (fun s p => s.modPort p f) s

/-- Step 1 of R45 starts on a link, at the rate of its level. -/
def State.startTraining (s : State) (g rate : Nat) : State :=
  (s.modPorts g fun p => { p with rate := rate, tmode := 1, en := true }).modLink g fun l =>
    { l with step := 1, half := (s.trainPorts g).length = 1, side := (s.trainPorts g).headD 0 % 2 }

/-- The condition of step 4 (02 R45). -/
def State.peerOk (s : State) (g : Nat) : Bool :=
  let l := s.link g
  l.peerv && l.peerpkg != s.arm.pkgid && (s.arm.topo != 1 || (aget {} s.arm.routes l.peerpkg).names g)

/-- The condition of step 3 on the port's errors (02 R45). -/
def Port.clean (p : Port) : Bool := p.feccor ≤ 128 && p.bad == 0

/-- The identity of this package and a link's port group (02 R40). A link that is not up carries it outside the sequence of its flits.
DESIGN CHOICE, unsafe: notes/assumptions/114.md. -/
def State.sendIdent (s : State) (g : Nat) : State :=
  let m : FabMsg := { opc := 0x41, srcComp := dieOfLink g, srcPkg := s.arm.pkgid, dstPkg := s.arm.pkgid, unit := g }
  s.modLink g fun l =>
    let (h, l) := l.header 2 0 (3, 0)
    l.emit 0 (buildFlit h (msgBytes m))

/-- LINK_TRAIN_STEP_DONE: the condition of a step of R45 is met, and the next step starts. -/
def execLinkTrainStepDone (s : State) : Out :=
  let g := s.ev.link
  let goOn (n : Nat) (s : State) : State := s.modLink g fun l => { l with step := n }
  .next (match (s.link g).step with
    | 1 => goOn 2 (s.modPorts g fun p => { p with sig := true })
    | 2 => goOn 3 (s.modPorts g fun p => { p with eqdone := true, tmode := 2, bad := 0, feccor := 0 })
    | 3 =>
      if (s.trainPorts g).all fun p => (s.port p).clean then
        (goOn 4 (s.modPorts g fun p => { p with lock := true, tmode := 0, bad := 0, feccor := 0 })).sendIdent g
      else s
    | 4 => if s.peerOk g then goOn 5 ((s.setWant g true).comeUp g) else s
    | 5 => if (s.link g).up then goOn 0 s else s
    | _ => s)

/-- A link is left down: what it carried is lost, its route entries are cleared, and the start record says that its part of step 14
failed. After a failure of step 1, 4 or 5 the next start leaves it down too, and its ports off.
DEDUCED, safe: notes/assumptions/113.md. -/
def State.leaveDown (s : State) (g : Nat) : State :=
  let n := (s.link g).step
  let s := (s.goDown g).modPorts g fun p => { p with en := false, sig := false, eqdone := false, lock := false }
  let s := s.modLink g fun l => { l with step := 0, want := false, half := false }
  let s := if n = 1 ∨ 4 ≤ n then s.modHub fun h => { h with portsOff := ([2 * g, 2 * g + 1] ++ h.portsOff).eraseDups } else s
  (s.clearRoutes g).stepFailed 14 g

/-- LINK_TRAIN_STEP_LIMIT: a step reaches its limit. `val` names the ports that failed (1 lower, 2 upper, 3 both): when only one
port fails steps 1 to 3 it is left off and training goes on; otherwise the link is left down.
DEDUCED, unsafe: notes/assumptions/36.md. -/
def execLinkTrainStepLimit (s : State) : Out :=
  let g := s.ev.link
  let n := (s.link g).step
  let failed := (s.trainPorts g).filter fun p => s.ev.val.getLsbD (p % 2)
  .next (if n = 0 then s
    else if n ≤ 3 ∧ failed.length = 1 ∧ (s.trainPorts g).length = 2 then
      let p := failed.headD 0
      ((s.modPort p fun x => { x with en := false, sig := false, eqdone := false, lock := false }).modHub fun h =>
        { h with portsOff := p :: h.portsOff }).modLink g fun l => { l with half := true, side := 1 - p % 2 }
    else s.leaveDown g)

/-! ## Flits (02 R34 to R37) -/

/-- Applies an acknowledgement: flits up to ACKSEQ leave the replay buffer, and the count of retries ends with the flit it counts for. -/
def Link.acknowledge (l : Link) (ack : Nat) : Link :=
  { l with replay := afilter l.replay fun k _ => 512 ≤ seqBefore k ack,
           retries := if seqBefore l.retryAt ack < 512 then 0 else l.retries }

/-- A retry request (02 R36): a replay is due, or the link goes down when the consecutive requests for one SEQ reach LIMIT. -/
def State.retry (s : State) (g ack : Nat) : State :=
  let l := s.link g
  let at' := (ack + 1) % 1024
  let n := if l.retryAt = at' then l.retries + 1 else 1
  if max 1 l.limit ≤ n then s.goDown g
  else (s.modLink g fun l => { l with retries := n, retryAt := at', replayDue := some ack }).sendOn g

/-- The instruction that a message's arrival is (02 R40). -/
def msgInstr (opc : Nat) : Option Instr :=
  match opc with
  | 0x01 => some .rdw
  | 0x02 => some .rdo
  | 0x03 => some .wrw
  | 0x04 => some .atw
  | 0x05 => some .evw
  | 0x06 => some .invMsg
  | 0x07 => some .mcw
  | 0x20 => some .dataMsg
  | 0x21 => some .doneMsg
  | 0x22 => some .invack
  | 0x23 => some .wbk
  | 0x40 => some .peerdn
  | 0x41 => some .armIdent
  | _ => none

/-- The messages of an accepted flit: a malformed one is discarded, those of a down package too, and a link that is not up takes
identities only. DSTPKG is not looked at: what arrives is handled here, and UNIT names the home.
DEDUCED, unsafe: notes/assumptions/110.md.
DESIGN CHOICE, unsafe: notes/assumptions/114.md. -/
def State.takeMessages (s : State) (g : Nat) (ms : List (Option FabMsg)) : State :=
  let s := if ms.any Option.isNone then s.discardMsg g else s
  let ok := ms.filterMap fun m => m.bind fun m =>
    if s.arm.down.contains m.srcPkg || (!(s.link g).up && m.opc != 0x41) then none
    else (msgInstr m.opc).map fun i => event i { msg := m, link := g }
  s.prepend ok

/-- Whether the header's credits and acknowledgement apply (02 R35). -/
def Link.applyHeader (l : Link) (h : Word) : Link :=
  let l := if h.getLsbD 9 then l.acknowledge (bitsOf h 19 10) else l
  if bitsOf h 7 6 < 3 then l.addCredits (bitsOf h 7 6) (· + bitsOf h 5 0) else l

/-- A bad flit, or one out of order: it and what came early are discarded, and a retry is requested, once until the replay arrives. -/
def State.refuseFlit (s : State) (g : Nat) (bad : Bool) : State :=
  (s.modLink g fun l => { l with retryDue := l.retryDue || bad || !l.waiting, waiting := true, early := [] }).sendOn g

/-- The next sequence number that a port delivers in order: the first after the newest accepted one that belongs to the port and has
not come early (02 R33).
DEDUCED, safe: notes/assumptions/115.md. -/
def Link.expects (l : Link) (side : Nat) : Nat :=
  ((List.range 1024).map fun i => (l.rxseq + 1 + i) % 1024).find? (fun q => (l.half || q % 2 == side) && !ahas l.early q) |>.getD 0

/-- Accepts the flits in order, as far as they have come (02 R33, R36): header and payload of each; `n` bounds them. -/
def State.acceptFlits (s : State) (g : Nat) : Nat → List (Option FabMsg) → List (Option FabMsg) × State
  | 0, ms => (ms, s)
  | n + 1, ms =>
    let q := ((s.link g).rxseq + 1) % 1024
    match aget? (s.link g).early q with
    | none => (ms, s)
    | some (h, payload) =>
      let s := s.modLink g fun l =>
        { l.applyHeader h with rxseq := q, acked := true, waiting := false, early := adel l.early q,
                               freed := l.freed ++ [bitsOf h 31 30] }
      let s := if h.getLsbD 8 then s.retry g (bitsOf h 19 10) else s
      if (s.link g).up then s.acceptFlits g n (ms ++ parseSlots 15 payload) else (ms ++ parseSlots 15 payload, s)

/-- A flit of a link that is up (02 R33, R35, R36): the header of an idle flit applies; a flit that comes early over one port is kept
until those before it have come over the other; a flit that the port should not deliver yet is refused; one accepted before is dropped
with its header; and until a replay arrives everything else is discarded.
DEDUCED, safe: notes/assumptions/115.md. -/
def State.takeFlit (s : State) (g side : Nat) (h : Word) (payload : List Byte) : State :=
  let l := s.link g
  let seq := bitsOf h 29 20
  if bitsOf h 31 30 = 3 then
    if l.waiting then s
    else
      let s := s.modLink g fun l => l.applyHeader h
      (if h.getLsbD 8 then s.retry g (bitsOf h 19 10) else s).sendOn g
  else if seq = (l.rxseq + 1) % 1024 then
    let (ms, s) := (s.modLink g fun l => { l with early := aset l.early seq (h, payload) }).acceptFlits g 512 []
    (s.sendOn g).takeMessages g ms
  else if seqBefore seq l.rxseq < 512 then s
  else if !l.waiting && seq == l.expects side then s.modLink g fun l => { l with early := aset l.early seq (h, payload) }
  else s.refuseFlit g false

/-- What a flit carries once its errors are corrected: the header and the payload. -/
def flitParts (bs : List Nat) : Word × List Byte :=
  (BitVec.ofNat 32 (leNats (bs.take 4)), ((bs.drop 4).take 240).map fun b => (BitVec.ofNat 8 b : Byte))

/-- FLIT_RECEIVE: a port without power receives nothing, one in pattern mode nothing to be read; in training mode flits are only judged
(02 R41). A link that is not up takes the identity that a flit carries. -/
def execFlitReceive (s : State) : Out :=
  let p := s.ev.port
  let g := p / 2
  let x := s.port p
  .next (if !s.portLive p ∨ x.tmode = 1 then s
    else match correctFlit s.ev.bytes with
    | none =>
      let s := s.modPort p fun x => { x with bad := satInc 0xFFFF x.bad }
      if x.tmode = 0 ∧ (s.link g).up then s.refuseFlit g true else s
    | some (bs, n) =>
      let s := s.modPort p fun x => { x with feccor := min 0xFFFF (x.feccor + n) }
      let (h, payload) := flitParts bs
      if x.tmode ≠ 0 then s
      else if (s.link g).up then s.takeFlit g (p % 2) h payload
      else s.takeMessages g (parseSlots 15 payload))

/-- A port of a link no longer has lock (02 R33, R36): the link goes on with the other port and replays on it what is
unacknowledged; without one it goes down. -/
def State.loseLock (s : State) (p : Nat) : State :=
  let g := p / 2
  let had := (s.lockedPorts g).contains p
  let s := s.modPort p fun x => { x with lock := false }
  if !(s.link g).up ∨ !had then s
  else if (s.lockedPorts g).isEmpty then s.goDown g
  else
    let first (l : Link) : Nat := (l.replay.map (·.1)).foldl (fun b k => if seqBefore k b < 512 then (k + 1023) % 1024 else b) l.txseq
    (s.modLink g fun l => { l with half := true, side := 1 - p % 2, early := [], replayDue := some (first l) }).sendOn g

/-- PORT_LOCK_LOSS. -/
def execPortLockLoss (s : State) : Out := .next (s.loseLock s.ev.port)

/-- A write of ALNK_CTL (02 R41): a port that loses its power loses signal and lock, and a link whose ports are back in normal mode
sends what is due. -/
def State.portControl (s : State) (p : Nat) (v : Word) : State :=
  let s := if v.getLsbD 0 then s else (s.loseLock p).modPort p fun x => { x with sig := false, eqdone := false }
  (s.modPort p fun x => { x with tmode := if bitsOf v 4 3 = 3 then x.tmode else bitsOf v 4 3, rate := bitsOf v 2 1,
                                 en := v.getLsbD 0 }).sendOn (p / 2)

/-! ## Registers that a read clears -/

/-- ALNK_ERR_READ (02 R41). -/
def execAlnkErrRead (s : State) : Out :=
  let x := s.port s.ev.port
  .next ((s.readBack (BitVec.ofNat 32 (x.bad * 65536 + x.feccor))).modPort s.ev.port fun x => { x with bad := 0, feccor := 0 })

/-- AGRP_RETRY_READ (02 R42). -/
def execAgrpRetryRead (s : State) : Out :=
  let l := s.link s.ev.link
  .next ((s.readBack (BitVec.ofNat 32 (l.limit * 65536 + l.replays))).modLink s.ev.link fun l => { l with replays := 0 })

end Sys2Proof.Machine
end

