-- ==== Sys2Proof/Machine/Plinth.lean ====
section
/-!
DEFINITION. Machine/Plinth.lean: PLC and PLFENCE (18 R388 to R391): arithmetic at the homes of words.
-/

namespace Sys2Proof.Machine

/-! ## Flags of operations that outlive a placement (14 R289) -/

/-- The address of the word that holds cf in the saved record of a thread (13 R278), with its launch.
DEDUCED, unsafe: notes/assumptions/47.md. -/
def State.savedCf (s : State) (r : Nat) : Option (Site × Nat) :=
  let u := refTeam r
  (s.launches.find? fun p => p.2.saved.any fun c => c.any fun t => t.uid == u).bind fun p =>
    (p.2.saved.flatten.find? fun t => t.uid == u).map fun t =>
      ({ core := p.2.die * 40, tlb := 2, ctx := p.2.ctx, launch := p.1, team := u },
       (p.2.rc.slotVa t.slot + 4096 + 512 * (32 * refGrp r + refLane r) + 464) % 2 ^ 57)

/-- A flag clears in the saved record of a thread whose team is not placed. -/
def State.clearSaved (s : State) (r flag : Nat) : State :=
  match s.savedCf r with
  | none => s
  | some (g, va) =>
    match s.engineLoc g va true with
    | (.error _, s) => s
    | (.ok x, s) =>
      let (d, _, s) := s.engineRead g .normal 0 x
      s.engineWrite g .normal (setBit d flag false) 3 false x

/-- An event has to wait before a flag clears in saved records: for the word that holds one, or for an entry of a page table. -/
def State.flagHolds (s : State) (refs : List Nat) (flag : Nat) (e : Event) : Option State :=
  if 12 ≤ flag then none
  else
    refs.findSome? fun r =>
      if ahas s.teams (refTeam r) then none
      else
        match s.savedCf r with
        | none => none
        | some (g, va) =>
          match s.engineLoc g va true with
          | (.error (.held w), s) => some (s.awaitWord w e)
          | (.error (.fault _), _) => none
          | (.ok x, s) => s.engineHold g true e x

/-- The flag of an engine operation clears in a lane, in its saved record if its team is not placed. -/
def State.endFlag (s : State) (r flag : Nat) : State :=
  if 12 ≤ flag then s
  else if ahas s.teams (refTeam r) then s.clearFlag r flag
  else s.clearSaved r flag

/-! ## The record (18 R389) -/

/-- The bytes lo to lo + n − 1 of a record's words, as a number. -/
def recAt (ws : List Word) (lo n : Nat) : Nat := leAt (wordsBytes ws) lo n

/-- A command is well formed. -/
def plcOk (ws : List Word) : Bool :=
  let op := recAt ws 0 1
  let dst : Dword := BitVec.ofNat 64 (recAt ws 8 8)
  let src : Dword := BitVec.ofNat 64 (recAt ws 16 8)
  decide (1 ≤ op ∧ op ≤ 5) && recAt ws 1 3 == 0 && decide (1 ≤ recAt ws 4 4 ∧ recAt ws 4 4 ≤ 4096)
    && canonical dst && dst.toNat % 4 == 0 && canonical src && src.toNat % 4 == 0
    && ((op == 1 || op == 4) == (src == 0))
    && (!(op == 1 || op == 2) || recAt ws 24 4 == 0) && (op == 5 || recAt ws 28 4 == 0) && (op == 1 || recAt ws 32 4 == 0)
    && recAt ws 36 28 == 0

/-! ## Ranges -/

/-- The location of a word of a range: the Plinths use the replica of die 0 (18 R375). -/
def State.plcLoc (s : State) (g : Site) (va : Nat) (write : Bool) : Except XFail Loc × State := s.engineLocAt g 0 va write

/-- The locations of consecutive words of a range, or the fault. -/
def State.plcLocs (s : State) (g : Site) (write : Bool) : Nat → Nat → Except (XFail × Nat) (List Loc) × State
  | _, 0 => (.ok [], s)
  | va, n + 1 =>
    match s.plcLoc g (va % 2 ^ 57) write with
    | (.error k, s) => (.error (k, va % 2 ^ 57), s)
    | (.ok x, s) =>
      match s.plcLocs g write (va + 4) n with
      | (.error x, s) => (.error x, s)
      | (.ok xs, s) => (.ok (x :: xs), s)

/-- What a lane leaves its bundle with when an address of a range has no translation. -/
def Site.leaves (g : Site) (va : Nat) : XFail → Excuse
  | .fault k => .fault va k g.tlb
  | .held w => .await (event .homeReadShared { die := dieOfCore g.core, core := g.core, kid := g.ctx, w := w })

/-- Whether some word of a range, as far as it translates, lies in host memory. -/
def State.meetsHost (s : State) (g : Site) : Nat → Nat → Bool × State
  | _, 0 => (false, s)
  | va, n + 1 =>
    match s.plcLoc g (va % 2 ^ 57) false with
    | (.ok (.host _), s) => (true, s)
    | (_, s) => s.meetsHost g (va + 4) n

/-! ## PLC (18 R390) -/

/-- Pushes a status in the lanes that a command serves. -/
def State.plcStatus (s b : State) (l : Lane) (n : Nat) : State :=
  (b.receivers l).foldl (fun s k => s.push k.ref { v := BitVec.ofNat 64 n }) s

/-- Sends an accepted command. -/
def State.startPlc (s b : State) (l : Lane) (flag : Nat) (ws : List Word) (dst src : List Loc) : State :=
  let s := s.escapeBy l.ref
  let s := (s.unbackedRecord l.ref (BitVec.ofNat 64 (recAt ws 8 8)) dst).unbackedRecord l.ref (BitVec.ofNat 64 (recAt ws 16 8)) src
  let (id, s) := s.fresh
  let o : PlcOp := { launch := (b.team (refTeam l.ref)).launch, ref := l.ref, refs := (b.receivers l).map (·.ref), flag := flag,
                     kid := b.ctxOf l.ref, op := recAt ws 0 1, dst := dst, src := src,
                     a := BitVec.ofNat 32 (recAt ws 24 4), b := BitVec.ofNat 32 (recAt ws 28 4),
                     imm := BitVec.ofNat 32 (recAt ws 32 4) }
  let s := { s.plcStatus b l 0 with ops := aset s.ops id (.plc o) }
  ((b.receivers l).foldl (fun s k => s.setFlag k.ref flag) s).emit l.ref (event .plinthWordApply { id := id })

/-- A command whose record has been read. -/
def State.judgePlc (s b : State) (l : Lane) (flag : Nat) (ws : List Word) : State :=
  let n := recAt ws 4 4
  let dst := recAt ws 8 8
  let src := recAt ws 16 8
  let m := if src = 0 then 0 else n
  if !plcOk ws then s.plcStatus b l 1
  else
    let g := { s.siteOf (refTeam l.ref) 2 with core := b.coreOf l.ref, ctx := b.ctxOf l.ref }
    let (hd, s) := s.meetsHost g dst n
    let (hs, s) := s.meetsHost g src m
    if hd || hs then s.plcStatus b l 2
    else
      match s.plcLocs g true dst n with
      | (.error (x, va), s) => s.excuse l (g.leaves va x)
      | (.ok ds, s) =>
        match s.plcLocs g false src m with
        | (.error (x, va), s) => s.excuse l (g.leaves va x)
        | (.ok ss, s) => s.startPlc b l flag ws ds ss

/-- One lane of PLC: the record is 16 plain word reads.
DEDUCED, safe: notes/assumptions/62.md. -/
def plcLane (b : State) (flag : Nat) (sa : Src) (s : State) (l : Lane) : State :=
  match readConsumed b l [sa] with
  | .error x => s.excuse l x
  | .ok vs =>
    if b.pairDiffers l [sa] then s.excuse l (trap 0x12)
    else if b.shadowed l then popSrcs s l [sa]
    else
      match s.reach l 0 (argAt vs 0) 64 false with
      | (.error x, s) => s.excuse l x
      | (.ok ls, s) =>
        match (s.unbackedRecord l.ref (argAt vs 0) ls).wordsNow (s.agentOf l.ref) 0 ls with
        | (.error x, s) => s.excuse l x
        | (.ok ws, s) =>
          if ws.any (·.2) then s.excuse l (trap 0x11)
          else (popSrcs s l [sa]).judgePlc b l flag (ws.map (·.1))

/-- PLC. -/
def execPlc (m : Fin 8) (fs : Bool) (sa : Src) (s : State) : Out :=
  .next (policyGateBy enginePolicyOk m (fun s => (s.forLanes (plcLane s (s.issue.flag fs) sa)).pushOff) s)

/-! ## Performing words -/

/-- f32 of a word, never flushed. -/
def f32Num (w : Word) : Num := fmt32.decode false w.toNat

/-- RoundToF32 with RNE. -/
def f32Of (x : Num) : Word := BitVec.ofNat 32 (fmt32.round .rne false x).1

/-- The new value of a word of a command. -/
def PlcOp.value (o : PlcOp) (d x : Word) : Word :=
  match o.op with
  | 1 => o.imm
  | 2 => x
  | 3 => f32Of ((f32Num o.a).fma .rne (f32Num x) (f32Num d)).1
  | 4 => f32Of ((f32Num o.a).mul (f32Num d)).1
  | _ =>
    let t := f32Of ((f32Num o.b).fma .rne (f32Num d) (f32Num x)).1
    f32Of ((f32Num o.a).negate.fma .rne (f32Num t) (f32Num d)).1

/-- The first wait of a word of a command, which is written at its home (03 R81).
DEDUCED, safe: notes/assumptions/63.md. -/
def State.plcHold (s : State) (kid : Nat) (e : Event) (d x : Loc) : Option State :=
  match (devWords [d]).findSome? fun w => s.writeHold kid w e with
  | some s => some s
  | none => (devWords [x]).findSome? fun w => s.readHold 5 w e

/-- A word of a range as the Plinths read it: poisoned where it is not backed. -/
def State.plcRead (s : State) (kid : Nat) : Loc → Word × Bool × State
  | .dev w =>
    let (d, psn, s) := s.plinthRead kid w true
    (d, psn || s.isLost w, s)
  | _ => (0, true, s)

/-- One RMW event of component P: a poisoned d stays as it is; a poisoned s poisons d. -/
def State.plcApply (s : State) (o : PlcOp) (d x : Loc) : State :=
  match d with
  | .dev w =>
    let (old, bad, s) := s.plcRead o.kid d
    if bad then s
    else
      let (v, psn, s) := if o.src.isEmpty then (0, false, s) else s.plcRead o.kid x
      (s.copyFirst o.kid w).plinthWrite o.kid w (if psn then 0 else o.value old v) psn true
  | _ => s

/-- PLINTH_WORD_APPLY: the next word of a command is performed, after the issuing thread's older accesses and commands; after the
last its flag clears.
DEDUCED, safe: notes/assumptions/63.md. -/
def execPlinthWordApply (s : State) : Out :=
  let e := s.again .plinthWordApply
  let id := s.ev.id
  match aget? s.ops id with
  | some (.plc o) =>
    let older := s.ops.any fun p => match p.2 with
      | .plc x => decide (p.1 < id) && x.ref == o.ref
      | _ => false
    if older ∨ s.forkHolds [o.ref] id then .next s
    else
      match o.dst[o.next]? with
      | none =>
        match s.flagHolds o.refs o.flag e with
        | some s => .next s
        | none => .next (o.refs.foldl (fun s r => s.endFlag r o.flag) { s with ops := adel s.ops id })
      | some d =>
        let x := o.src.getD o.next .none
        match s.plcHold o.kid e d x with
        | some s => .next s
        | none =>
          let s := s.plcApply o d x
          .next ({ s with ops := aset s.ops id (.plc { o with next := o.next + 1 }) }.prepend [e])
  | _ => .next s

/-! ## PLFENCE (18 R391) -/

/-- PLFENCE: not complete while a PLC of the thread is under way. -/
def execPlfence (_fs : Bool) (s : State) : Out :=
  .next (s.forLanes fun s l =>
    if s.ops.any fun p => match p.2 with
      | .plc o => o.refs.contains l.ref
      | _ => false
    then s.excuse l .notReady else s)

end Sys2Proof.Machine
end

