-- ==== Sys2Proof/Machine/Drain.lean ====
section
/-!
DEFINITION. Machine/Drain.lean: what a TDRAIN stages when it captures an accumulator, and how its words are written (10 R216 to
R219; 11 R237 to R239; 19 R410).
-/

namespace Sys2Proof.Machine

/-! ## Outputs -/

/-- One output of a drain: its record, coordinate word, class, rounding field, and whether it is the transposed one. -/
structure Output where
  t    : Tensor
  c    : Dword
  ty   : NumTy
  rm   : Nat
  turn : Bool
  deriving DecidableEq, Repr

/-- DEN of a control word (19 R410). -/
def ctlD (c : Dword) : Bool := c.getLsbD 0

/-- TEN. -/
def ctlT (c : Dword) : Bool := c.getLsbD 1

/-- The barrier that the control word names, with BEN. -/
def ctlBar (c : Dword) : Option Nat := if c.getLsbD 13 then some (bitsOf c 12 9) else none

/-- The outputs of a drain, D before T. -/
def TileOp.outputs (o : TileOp) : List Output :=
  (if ctlD o.ctl then [{ t := o.a, c := o.ca, ty := okClass (classA o.a o.cl o.fa), rm := bitsOf o.ctl 4 2, turn := false }] else [])
    ++ (if ctlT o.ctl then [{ t := o.b, c := o.cb, ty := okClass (classB o.b o.cl o.fb), rm := bitsOf o.ctl 7 5, turn := true }]
        else [])

/-- The rows of the accumulator that are drained (19 R410). -/
def TileOp.drained (o : TileOp) : Nat := min o.m 32

/-- The position of accumulator element (i, j) in an output: its first two indices. -/
def Output.pos (x : Output) (i j : Nat) : Nat × Nat :=
  if x.turn then (coordC0 x.c + i, coordC1 x.c + j) else (coordC0 x.c + j, coordC1 x.c + i)

/-- The elements of an output in increasing (row, column) order, those out of bounds left out. -/
def Output.elems (x : Output) (rows : Nat) : List (Nat × Nat) :=
  (if x.turn then (List.range 32).flatMap fun j => (List.range rows).map fun i => (i, j)
   else (List.range rows).flatMap fun i => (List.range 32).map fun j => (i, j)).filter fun p =>
    x.t.inside (coordCh x.c) (x.pos p.1 p.2).1 (x.pos p.1 p.2).2

/-- The 16-element block of an output that an element lies in: its row and its block along dimension 0 (11 R238). -/
def Output.block (x : Output) (p : Nat × Nat) : Nat × Nat := ((x.pos p.1 p.2).2, (x.pos p.1 p.2).1 / 16)

/-- The output quantises its blocks. -/
def Output.scales (x : Output) : Bool := x.t.scale != 0 && decide (3 ≤ x.t.etype)

/-- The exact address of a block's scale byte. -/
def Output.scaleAddr (x : Output) (b : Nat × Nat) : Int :=
  x.t.scale.toInt + Int.ofNat ((coordCh x.c * x.t.size.getD 1 0 + b.1) * ceilDiv (x.t.size.getD 0 0) 16 + b.2)

/-! ## Scales (11 R238) -/

/-- The largest finite value of a class. -/
def NumTy.largest : NumTy → Num
  | .nar f => f.decode f.top
  | .int signed w => Num.ofInt (intHigh signed w)
  | .h4 => halfValue 7
  | .ieee f => f.decode false (f.infCode - 1)

/-- The floor of the base-2 logarithm of a finite magnitude. -/
def Num.exponent : Num → Int
  | .fin _ m e => (log2 m : Int) + e
  | _ => 0

/-- The scale code of a block of values. -/
def scaleCode (ty : NumTy) (vs : List Num) : Nat :=
  let top := vs.foldl (fun a x => if a.lt x.abs then x.abs else a) (.zero false)
  if vs.any Num.isNan then 0xFF
  else
    match top with
    | .inf _ => 254
    | .fin _ 0 _ => 127
    | _ => (min (max (127 + (top.exponent - ty.largest.exponent)) 0) 254).toNat

/-- A value divided by its block's scale. -/
def unscale (code : Nat) (x : Num) : Num := if code = 0xFF then x else x.scale (127 - (code : Int))

/-! ## Rounding -/

/-- The rounding of a field of the control word: none for stochastic rounding. -/
def drainMode (rm : Nat) : Option Mode :=
  match rm with
  | 2 => some .rz
  | 3 => some .ru
  | 4 => some .rd
  | 5 => none
  | _ => some .rne

/-- Converts a value, drawing from the stochastic state where the rounding asks for it. -/
def drainConvert (ty : NumTy) (rm : Nat) (sr : Word) (x : Num) : Nat × Word :=
  match drainMode rm with
  | some m => ((ty.convert m false x).1, sr)
  | none => ((ty.convert (srMode (srNext sr)) false x).1, srNext sr)

/-! ## Staging -/

/-- Bits placed into the bytes of an image, by byte address. -/
def placeBits (m : AMap Nat) (ba : Int) (w code : Nat) : AMap Nat :=
  let off := (ba % 8).toNat
  (List.range (ceilDiv (off + w) 8)).foldl (fun m i =>
    let a := vaOf (ba / 8 + Int.ofNat i)
    let mask := (2 ^ w - 1) * 2 ^ off / 2 ^ (8 * i) % 256
    let bits := code % 2 ^ w * 2 ^ off / 2 ^ (8 * i) % 256
    aset m a (aget 0 m a &&& (255 - mask) ||| bits)) m

/-- What staging has built: the bytes, the stochastic state, and the bits of elements. -/
structure Stage where
  bytes : AMap Nat
  sr    : Word
  bits  : Nat
  deriving DecidableEq, Repr

/-- Stages an output: scales first, then every element.
DEDUCED, unsafe: notes/assumptions/53.md. -/
def Output.stage (x : Output) (rows : Nat) (value : Nat → Nat → Num) (g : Stage) : Stage :=
  let es := x.elems rows
  let codes : AMap Nat := if x.scales then
      es.foldl (fun m p =>
        let b := x.block p
        let k := b.1 * 2 ^ 32 + b.2
        if ahas m k then m else aset m k (scaleCode x.ty ((es.filter fun q => x.block q = b).map fun q => value q.1 q.2))) []
    else []
  let g := codes.foldl (fun g p =>
    { g with bytes := aset g.bytes (vaOf (x.scaleAddr (p.1 / 2 ^ 32, p.1 % 2 ^ 32))) p.2 }) g
  es.foldl (fun g p =>
    let b := x.block p
    let v := unscale (aget 127 codes (b.1 * 2 ^ 32 + b.2)) (value p.1 p.2)
    let (c, sr) := drainConvert x.ty x.rm g.sr v
    { bytes := placeBits g.bytes (x.t.bitAddr (coordCh x.c) (x.pos p.1 p.2).1 (x.pos p.1 p.2).2) x.t.width c, sr := sr,
      bits := g.bits + x.t.width }) g

/-- The words of staged bytes, each with its mask. -/
def stageWords (m : AMap Nat) : List (Nat × Word × BitVec 4) :=
  let ws : AMap (Nat × BitVec 4) := m.foldl (fun ws p =>
    let (d, k) := aget (0, 0) ws (p.1 / 4 * 4)
    aset ws (p.1 / 4 * 4) (d + p.2 * 2 ^ (8 * (p.1 % 4)), setBit k (p.1 % 4) true)) []
  ws.map fun p => (p.1, BitVec.ofNat 32 p.2.1, p.2.2)

/-- The value of an accumulator element as a drain reads it: i32 with INT, else f32. -/
def TileOp.accValue (o : TileOp) (acc : AMap Word) (i j : Nat) : Num :=
  let w := aget 0 acc (accKey o.acc i j)
  if o.ctl.getLsbD 8 then Num.ofInt w.toInt else fmt32.decode false w.toNat

/-- What a drain stages from the accumulators, with a stochastic state.
DEDUCED, unsafe: notes/assumptions/53.md. -/
def TileOp.staged (o : TileOp) (acc : AMap Word) (sr : Word) : Stage :=
  o.outputs.foldl (fun g x => x.stage o.drained (o.accValue acc) g) { bytes := [], sr := sr, bits := 0 }

/-! ## Events -/

/-- The end of a drain: its buffer is freed, its flag clears, it arrives at its barrier, and its team may end. -/
def State.endDrain (s : State) (id : Nat) (o : TileOp) : State :=
  let s := { s with ops := adel s.ops id }.modCore o.core fun c => { c with drains := c.drains.filter (· != id) }
  let s := (s.clearFlags o.lanes o.flag).prepend [teamEndEvent o.team]
  match ctlBar o.ctl with
  | some b => s.arriveCopy o.team b o.bytes
  | none => s

/-- DRAIN_CAPTURE_END (11 R237): the image is staged with the stochastic state of the group's lowest live thread; the
instruction is no longer outstanding. A drain that writes publishes the log first in a rollback launch (R239). -/
def execDrainCaptureEnd (s : State) : Out :=
  let id := s.ev.id
  match s.tileNo id with
  | none => .next s
  | some o =>
    if o.kind = .drain ∧ s.tileRuns id o then
      let r := (s.liveRefs o.team o.grp).headD (laneRef o.team o.grp 0)
      let g := o.staged (s.team o.team).acc (s.thread r).sr
      let o := { o with captured := true, outs := stageWords g.bytes, bytes := g.bits / 8 }
      let s := ((s.modThread r fun t => { t with sr := g.sr }).leaveSeq id o).setTile id o
      let s := s.modCore o.core fun c => { c with drains := c.drains ++ [id] }
      if o.outs.isEmpty then .next (s.endDrain id o)
      else
        let (es, s) := if (s.launch (s.team o.team).launch).rollback then s.escapeLog o.team r else ([], s)
        .next (s.prepend (es ++ [event .drainComplete { id := id }]))
    else .next s

/-- Writes the words of a drain that are left, until one faults or has to wait. -/
def State.runDrain (s : State) (id : Nat) (o : TileOp) (g : Site) : List (Nat × Word × BitVec 4) → Bool × State
  | [] => (true, s.setTile id o)
  | (va, d, mask) :: r =>
    match s.engineLoc g va true with
    | (.error (.held w), s) => (false, (s.setTile id o).awaitWord w (event .drainComplete { id := id }))
    | (.error (.fault k), s) =>
      let (i, s) := s.engineFault g va k
      (false, s.setTile id { o with fault := some i })
    | (.ok x, s) =>
      match s.engineHold g true (event .drainComplete { id := id }) x with
      | some s => (false, s.setTile id o)
      | none =>
        let new := x == Loc.none && !o.bad
        let s := if new then s.opRecord o.team va else s
        let cls := match x with
          | .dev w => classOf o.pol w
          | _ => .normal
        (s.engineWrite g cls d mask false x).runDrain id { o with next := o.next + 1, bad := o.bad || new } g r

/-- The publication before a drain's first write (11 R239; 09 R203) has not been performed. -/
def State.drainWaits (s : State) (o : TileOp) : Bool := o.next == 0 && !(s.publishing o.team).isEmpty

/-- DRAIN_COMPLETE (11 R237, R239): the staged words are written as writes of the die; after the last the drain ends. -/
def execDrainComplete (s : State) : Out :=
  let id := s.ev.id
  match s.tileNo id with
  | none => .next s
  | some o =>
    if o.captured ∧ o.fault.isNone ∧ !s.drainWaits o ∧ !s.forkHolds (groupRefs o.team o.grp) id then
      match s.runDrain id o (s.siteOf o.team 1) (o.outs.drop o.next) with
      | (true, s) => .next (s.endDrain id o)
      | (false, s) => .next s
    else .next s

end Sys2Proof.Machine
end

