-- ==== Sys2Proof/Machine/Tile.lean ====
section
/-!
DEFINITION. Machine/Tile.lean: the tile instructions (11 R229 to R239; 12 R256, R264; 19 R404 to R411; 20 R424): their checks and
what they capture at issue, and the slabs of the sequencer.
-/

namespace Sys2Proof.Machine

/-! ## What an instruction captures (11 R233; 14 R300) -/

/-- The static part of a tile instruction: its kind, presence register, accumulator, first handle, CL field and flag. -/
structure TileInstr where
  kind : TileKind
  z    : Nat
  acc  : Nat
  h    : Nat
  cl   : Nat
  flag : Nat
  deriving DecidableEq, Repr

/-- It multiplies A by B. -/
def TileKind.multiplies : TileKind → Bool
  | .mma | .sc _ | .ms _ | .chrun => true
  | _ => false

/-- It moves memory, so that it reads a policy. -/
def TileKind.moves : TileKind → Bool
  | .zero => false
  | _ => true

/-- The lane of a place as it stands before the chain. -/
def State.laneAt (b : State) (r : Nat) : Lane :=
  match b.issue.lanes.find? fun l => l.ref = r with
  | some l => l
  | none => { ref := r, pre := b.thread r }

/-- A named register of a lane as a tile instruction captures it: none while it is not produced. -/
def Lane.regN (l : Lane) (i : Fin 16) : Option Val := if l.pre.n[i].pend.isSome then none else some l.pre.n[i]

/-- The registers of the lowest live thread, and every lane's scales. -/
structure TileRegs where
  n8  : Val
  n9  : Val
  n11 : Val
  scl : List Val
  deriving DecidableEq, Repr

/-- The values of a register in the first lanes of a group: none while one is not produced. -/
def State.laneRegs (b : State) (u g n : Nat) (i : Fin 16) : Option (List Val) :=
  ((groupRefs u g).take n).foldr (fun r x =>
    match (b.laneAt r).regN i, x with
    | some v, some vs => some (v :: vs)
    | _, _ => none) (some [])

/-- The lanes whose scale registers are read: at M < 32 those below M (10 R221). -/
def State.scaleLanes (b : State) (r : Nat) : Nat := min 32 ((b.preTeam r).groupOf r).m

/-- Which registers an instruction reads: n8, n9, n11 and n10. -/
def TileInstr.reads (i : TileInstr) (ctl : Dword) : Bool × Bool × Bool × Bool :=
  match i.kind with
  | .sc _ => (true, true, false, true)
  | .lda => (true, false, true, false)
  | .drain => (ctlD ctl, ctlT ctl, true, false)
  | .mma | .ms _ | .chrun => (true, true, false, false)
  | _ => (false, false, false, false)

/-- The control word of an instruction: 0 where it reads none, or a poisoned one. -/
def TileInstr.control (i : TileInstr) (l : Lane) : Dword :=
  match i.kind with
  | .lda | .drain => if l.pre.n[11].psn then 0 else l.pre.n[11].v
  | _ => 0

/-- Captures the registers; none while one of those that are read is not produced.
DESIGN CHOICE, safe: notes/assumptions/118.md. -/
def TileInstr.capture (i : TileInstr) (b : State) (l : Lane) : Option TileRegs :=
  let (r8, r9, r11, r10) := i.reads (i.control l)
  let get (want : Bool) (k : Fin 16) : Option Val := if want then l.regN k else some {}
  match get r8 8, get r9 9, get r11 11, (if r10 then b.laneRegs (refTeam l.ref) (refGrp l.ref) (b.scaleLanes l.ref) 10 else some []) with
  | some n8, some n9, some n11, some scl => some { n8 := n8, n9 := n9, n11 := n11, scl := scl }
  | _, _, _, _ => none

/-- A pair of the group differs in a register that the instruction compares (11 R236). -/
def TileInstr.differs (i : TileInstr) (b : State) (l : Lane) : Bool :=
  let (r8, r9, _, r10) := i.reads (i.control l)
  let pair (k : Fin 16) (r : Nat) : Bool := (b.laneAt r).pre.n[k].v != (b.laneAt (r + 4)).pre.n[k].v
  b.isProtected l.ref && (groupRefs (refTeam l.ref) (refGrp l.ref)).any fun r =>
    refLane r % 2 == 0 && ((r8 && pair 8 r) || (r9 && pair 9 r) || (r10 && decide (refLane r < b.scaleLanes l.ref) && pair 10 r))

/-- The operation that an instruction enqueues for the group of a lane `l`, the lowest live one. What stands in the scale registers that
are not read is a free value: of the columns of B that they would scale the spec states no scale (10 R221). `free` counts the free
values taken.
DESIGN CHOICE, safe: notes/assumptions/118.md. -/
def TileInstr.op (i : TileInstr) (b : State) (l : Lane) (x : TileRegs) (lanes : List Nat) (free : Nat) : TileOp :=
  let t := b.preTeam l.ref
  let rec' (k : Nat) : List Word := (b.handleOf l.ref (i.h + k)).getD []
  let two := i.kind.multiplies || (i.kind == TileKind.drain && ctlT (i.control l))
  let one := i.kind.multiplies || i.kind == TileKind.lda || (i.kind == TileKind.drain && ctlD (i.control l))
  let ra := if one then rec' 0 else []
  let a := tensorOf ra
  { kind := i.kind, word := b.issue.word, pc := b.issue.here, team := refTeam l.ref, grp := refGrp l.ref, flag := i.flag,
    lanes := lanes, acc := i.acc, cl := i.cl, m := (t.groupOf l.ref).m, ca := x.n8.v, cb := x.n9.v,
    cm := match i.kind with
      | .ms _ => BitVec.ofNat 64 (coordCh x.n8.v * 2 ^ 48 + a.rowOrigin x.n8.v * 2 ^ 24 + a.kOrigin x.n8.v / 24)
      | _ => 0,
    fa := l.pre.f[0], fb := l.pre.f[1], pol := if i.kind.moves then l.pre.m[0] else 0, ctl := i.control l, ra := ra,
    rb := if two then rec' 1 else [],
    rm := match i.kind with
      | .ms _ => rec' 2
      | _ => [],
    scl := match i.kind with
      | .sc _ => x.scl.map (·.v) ++ (List.range (32 - x.scl.length)).map fun k => Config.freeValue (free + k)
      | _ => [],
    kid := t.ctx, core := t.core }

/-! ## Checks (19 R408) -/

/-- The accumulator and selector checks (11 R230; 10 R221), and a drain's barrier (19 R410). -/
def TileInstr.illegal (i : TileInstr) (b : State) (l : Lane) : Bool :=
  let t := b.preTeam l.ref
  let m := (t.groupOf l.ref).m
  decide (t.accs ≤ i.acc)
    || (i.kind.multiplies && m == 64 && (i.acc % 2 == 1 || decide (t.accs ≤ i.acc + 1)))
    || (match i.kind with
        | .sc sel => !scaleSelOk (b.isProtected l.ref) m sel
        | .drain => match ctlBar (i.control l) with
          | some k => decide (t.nbars ≤ k)
          | none => false
        | _ => false)

/-- The handles that an operation uses. -/
def TileInstr.handles (i : TileInstr) (l : Lane) : List Nat :=
  match i.kind with
  | .mma | .sc _ | .chrun => [i.h, i.h + 1]
  | .ms _ => [i.h, i.h + 1, i.h + 2]
  | .lda => [i.h]
  | .drain => (if ctlD (i.control l) then [i.h] else []) ++ (if ctlT (i.control l) then [i.h + 1] else [])
  | _ => []

/-- The class checks of an operation: the value of the first invalid format register. -/
def TileOp.badClass (o : TileOp) : Option Word :=
  match o.kind with
  | .mma | .sc _ | .ms _ | .chrun =>
    match classBad (classA o.a o.cl o.fa) with
    | some f => some f
    | none => classBad (classB o.b o.cl o.fb)
  | .drain =>
    match (if ctlD o.ctl then classBad (classA o.a o.cl o.fa) else none) with
    | some f => some f
    | none => if ctlT o.ctl then classBad (classB o.b o.cl o.fb) else none
  | _ => none

/-- The record checks that come after those of the formats: the handle that fails. -/
def TileOp.badRecord (o : TileOp) (h : Nat) : Option Nat :=
  let mis := o.a.etype != o.b.etype
  match o.kind with
  | .mma | .sc _ => if mis then some h else none
  | .ms _ => if mis then some h else if o.meta.etype != 0 || o.meta.kax then some (h + 2) else none
  | .chrun => if o.a.etype < 3 ∨ mis then some h else none
  | .lda => if 2 < o.a.etype then some h else none
  | _ => none

/-- The K positions of an operand that lie in bounds over the whole instruction. -/
def TileOp.kSpan (o : TileOp) : Nat :=
  let n := 48 * o.slabs
  match o.kind with
  | .ms _ => o.b.ksIn o.cb n
  | _ => min (o.a.ksIn o.ca n) (o.b.ksIn o.cb n)

/-- The corners of the tile A. TMMS reads the compressed elements of the half-slabs that it meets (12 R258); the compile of CHRUN reads
the tile up to its own bounds (12 R263). -/
def TileOp.aCorners (o : TileOp) : List Int :=
  match o.kind with
  | .ms nsel =>
    let n := sparseN nsel
    let x := o.a.kOrigin o.ca / 24 * n
    let ks := ceilDiv o.kSpan 24 * n
    if o.a.kax then o.a.corners (coordCh o.ca) (coordC0 o.ca) o.m x ks else o.a.corners (coordCh o.ca) x ks (coordC1 o.ca) o.m
  | .chrun => o.a.kCorners o.ca o.m 48
  | _ => o.a.kCorners o.ca o.m o.kSpan

/-- The corners of the metadata. -/
def TileOp.metaCorners (o : TileOp) : List Int :=
  match o.kind with
  | .ms _ => o.meta.corners (coordCh o.ca) (o.a.kOrigin o.ca / 24) (ceilDiv o.kSpan 24) (o.a.rowOrigin o.ca) o.rowsA
  | _ => []

/-- The corners of an output and of its scales. -/
def Output.corners (x : Output) (rows : Nat) : List Int :=
  let n0 := if x.turn then rows else 32
  let n1 := if x.turn then 32 else rows
  let k0 := clip (coordC0 x.c) n0 (x.t.size.getD 0 0)
  let k1 := clip (coordC1 x.c) n1 (x.t.size.getD 1 0)
  let body := x.t.corners (coordCh x.c) (coordC0 x.c) n0 (coordC1 x.c) n1
  if x.scales ∧ body ≠ [] then
    body ++ [coordC1 x.c, coordC1 x.c + k1 - 1].flatMap fun r =>
      [coordC0 x.c / 16, (coordC0 x.c + k0 - 1) / 16].map fun c => x.scaleAddr (r, c)
  else body

/-- The corner addresses of everything that an operation will touch (11 R464). -/
def TileOp.corners (o : TileOp) : List Int :=
  match o.kind with
  | .mma | .sc _ | .chrun => o.aCorners ++ o.b.kCorners o.cb 32 o.kSpan
  | .ms _ => o.aCorners ++ o.b.kCorners o.cb 32 o.kSpan ++ o.metaCorners
  | .lda => o.a.corners (coordCh o.ca) (coordC0 o.ca) 32 (coordC1 o.ca) 32
  | .drain => o.outputs.flatMap fun x => x.corners o.drained
  | _ => []

/-- The first coordinate word that is not aligned (11 R227; 12 R258). -/
def TileOp.badCoord (o : TileOp) : Option Dword :=
  let off (c : Dword) : Bool := coordC0 c % 16 != 0
  match o.kind with
  | .mma | .sc _ | .chrun => if off o.ca then some o.ca else if off o.cb then some o.cb else none
  | .ms _ => if off o.ca || o.a.kOrigin o.ca % 48 != 0 then some o.ca else if off o.cb then some o.cb else none
  | .lda => if off o.ca then some o.ca else none
  | .drain => (o.outputs.find? fun x => off x.c).map (·.c)
  | _ => none

/-- The checks of a tile instruction for the group whose lowest live lane is `l`, in the order of 13 R271: the operation that it
enqueues, or the reason why its bundle does not issue. `n` operations of the bundle stand before it, and `whole` says whether every
group of the bundle is converged and has its live threads in it. -/
def TileInstr.check (i : TileInstr) (b s : State) (whole : Bool) (n : Nat) (l : Lane) (lanes : List Nat) : Except Excuse TileOp :=
  let t := b.preTeam l.ref
  match i.capture b l with
  | none => .error .notReady
  | some x =>
    let o := i.op b l x lanes (s.free + 32 * n)
    let pol := l.pre.m[0]
    match firstBad [
      (decide (8 ≤ (s.core t.core).seq.length + n), .notReady),
      (i.illegal b l, trap 0x01 b.issue.word),
      (!whole, trap 0x02),
      (i.kind.moves && !enginePolicyOk pol, trap 0x03 pol),
      (((i.handles l).find? fun h => (b.handleOf l.ref h).isNone).isSome,
        trap 0x05 (BitVec.ofNat 32 (((i.handles l).find? fun h => (b.handleOf l.ref h).isNone).getD 0))),
      (o.badClass.isSome, trap 0x04 (o.badClass.getD 0)),
      ((o.badRecord i.h).isSome, trap 0x05 (BitVec.ofNat 32 ((o.badRecord i.h).getD 0))),
      (x.n8.psn || x.n9.psn || x.n11.psn || x.scl.any (·.psn), trap 0x11),
      (i.differs b l, trap 0x12),
      ((badCorner o.corners).isSome, trap 0x06 0 ((badCorner o.corners).getD 0)),
      (o.badCoord.isSome, trap 0x07 0 (o.badCoord.getD 0)),
      (match i.kind, ctlBar o.ctl with
        | .drain, some k => !(aget {} t.bars k : Barrier).init
        | _, _ => false, trap 0x0D (BitVec.ofNat 32 ((ctlBar o.ctl).getD 0)))] with
    | some e => .error e
    | none => .ok o

/-! ## Issue -/

/-- The event that carries an operation on. -/
def TileKind.first : TileKind → Instr
  | .drain => .drainCaptureEnd
  | .chrun => .chiselCompileEnd
  | .chpre => .chiselCompileEnd
  | _ => .tileSlabComplete

/-- Enqueues an operation (11 R233, R236): it is its group's outstanding tile instruction, and its flag is set in the active
lanes. -/
def State.enqueueTile (s : State) (r : Nat) (o : TileOp) : State :=
  let (id, s) := s.fresh
  let s := (s.setTile id o).modCore o.core fun c => { c with seq := c.seq ++ [id] }
  let s := s.modTeam o.team fun t => t.modGroup o.grp fun g => { g with tile := some id, tilePc := o.pc }
  (o.lanes.foldl (fun s r => s.setFlag r o.flag) s).emit r (event o.kind.first { id := id })

/-- The groups among lanes whose presence guard is not empty (12 R256).
DEDUCED, safe: notes/assumptions/56.md. -/
def State.presentGroups (s : State) (ls : List Lane) (z : Nat) : List (Nat × Nat) :=
  (groupsOf (ls.map (·.ref))).filter fun p => z == 0 || (aget noTeam s.issue.teams p.1).z.getLsbD z

/-- A bundle of which a group has an outstanding tile instruction waits (13 R277; 19 R404).
DEDUCED, safe: notes/assumptions/56.md. -/
def tileGate (k : State → State) (s : State) : State :=
  if (groupsOf s.issue.all).any fun p => ((aget noTeam s.issue.teams p.1).groups.getD p.2 noGroup).tile.isSome then
    s.excuseBundle .notReady
  else k s

/-- The lowest live lane of a group. -/
def State.leadLane (b : State) (u g : Nat) : Lane := b.laneAt ((b.liveRefs u g).headD (laneRef u g 0))

/-- The active lanes of a group. -/
def State.actOf (s : State) (u g : Nat) : List Nat :=
  (s.issue.act.filter fun l => refTeam l.ref = u ∧ refGrp l.ref = g).map (·.ref)

/-- Checks every group, then enqueues one operation for each. -/
def tileGroups (i : TileInstr) (b : State) (whole : Bool) : List (Nat × Nat) → List TileOp → State → State
  | [], os, s =>
    let s := os.foldl (fun s o => s.enqueueTile (o.lanes.headD 0) o) s
    { s with free := s.free + 32 * os.length }
  | (u, g) :: r, os, s =>
    match i.check b s whole os.length (b.leadLane u g) (b.actOf u g) with
    | .error x => s.excuseBundle x
    | .ok o => tileGroups i b whole r (os ++ [o]) s

/-- A bundle in which every presence guard is empty is not counted for wear (12 R256). -/
def State.markEmpty (s : State) (gs : List (Nat × Nat)) : State :=
  if gs.isEmpty ∧ !s.issue.act.isEmpty then { s with issue := { s.issue with uncounted := true } } else s

/-- A tile instruction in every group of the bundle that has an active lane. Every group whose presence guard is not empty has to be
converged and whole, whatever the guards of its threads are (07 R148). -/
def tileInstr (kind : TileKind) (z : Fin 16) (fs : Bool) (acc h cl : Nat) (s : State) : State :=
  tileGate (fun s =>
    let gs := s.presentGroups s.issue.act z.val
    let whole := (s.presentGroups s.issue.everyone z.val).all fun p => s.groupWhole p.1 p.2
    let s := s.markEmpty gs
    if gs.isEmpty ∧ !whole then s.excuseBundle (trap 0x02)
    else tileGroups { kind := kind, z := z.val, acc := acc, h := h, cl := cl, flag := s.issue.flag fs } s whole gs [] s) s

/-- TMMA. -/
def execTmma (z : Fin 16) (fs : Bool) (acc : Fin 32) (hs : Fin 4) (cl : Fin 8) (s : State) : Out :=
  .next (tileInstr .mma z fs acc.val (8 * hs.val) cl.val s)

/-- TMMA.sc. -/
def execTmmaSc (z : Fin 16) (fs : Bool) (acc : Fin 32) (hs : Fin 4) (cl : Fin 8) (imm : BitVec 6) (s : State) : Out :=
  .next (tileInstr (.sc imm.toNat) z fs acc.val (8 * hs.val) cl.val s)

/-- TMMS. -/
def execTmms (z : Fin 16) (fs : Bool) (acc : Fin 32) (hs : Fin 4) (cl : Fin 8) (nsel : Fin 4) (s : State) : Out :=
  .next (tileInstr (.ms nsel.val) z fs acc.val (8 * hs.val) cl.val s)

/-- TZERO. -/
def execTzero (z : Fin 16) (fs : Bool) (acc : Fin 32) (s : State) : Out := .next (tileInstr .zero z fs acc.val 0 0 s)

/-- TLDA. -/
def execTlda (z : Fin 16) (fs : Bool) (acc : Fin 32) (hs : Fin 4) (s : State) : Out :=
  .next (tileInstr .lda z fs acc.val (8 * hs.val) 0 s)

/-- TDRAIN. -/
def execTdrain (z : Fin 16) (fs : Bool) (acc : Fin 32) (hs : Fin 4) (cl : Fin 8) (s : State) : Out :=
  .next (tileInstr .drain z fs acc.val (8 * hs.val) cl.val s)

/-- CHRUN. -/
def execChrun (z : Fin 16) (fs : Bool) (acc : Fin 32) (hs : Fin 4) (cl : Fin 8) (s : State) : Out :=
  .next (tileInstr .chrun z fs acc.val (8 * hs.val) cl.val s)

/-! ## TSHAPE (19 R411) -/

/-- M and the row count of a lane's group; 32 and 32 without shape-menu. -/
def State.shapeOf (s : State) (r : Nat) : Dword :=
  if (s.launchOf r).shapemenu then
    let g := (s.preTeam r).groupOf r
    BitVec.ofNat 64 (g.m % 256 * 2 ^ 32 + g.rows % 2 ^ 32)
  else BitVec.ofNat 64 (32 * 2 ^ 32 + 32)

/-- TSHAPE in the groups of the bundle. -/
def shapeGroups (gs : List (Nat × Nat)) (s : State) : State :=
  let inGroup (r : Nat) : Bool := gs.contains (refTeam r, refGrp r)
  if gs.all fun p => s.groupWhole p.1 p.2 then
    let s := s.forLanes fun s l => if inGroup l.ref then s.push l.ref { v := s.shapeOf l.ref } else s
    s.issue.off.foldl (fun s l => if inGroup l.ref then s.push l.ref l.pre.q[0] else s) s
  else s.excuseBundle (trap 0x02)

/-- TSHAPE: it is not queued; its flag clears at the push. -/
def execTshape (z : Fin 16) (_fs : Bool) (s : State) : Out :=
  .next (tileGate (fun s => shapeGroups (s.presentGroups s.issue.everyone z.val)
    (s.markEmpty (s.presentGroups s.issue.act z.val))) s)

/-! ## Slabs (11 R234, R235) -/

/-- Runs the next slab of an operation that may run. -/
def State.runSlab (s : State) (id : Nat) (o : TileOp) : State :=
  let e := event .tileSlabComplete { id := id }
  let put (f : AMap Word → AMap Word) (s : State) : State := (s.modTeam o.team fun t => { t with acc := f t.acc }).slabDone id o
  match o.kind with
  | .zero => put o.zeroed s
  | .lda => withWords id o (s.tileFetch id o e (needWords [] (o.loadGrid.filterMap (·.2)) o.a.width) []) fun m s => put (o.loaded m) s
  | .chrun =>
    match o.prog with
    | some (dense, ops) => s.runChisel id o dense ops
    | none => s.prepend [event .chiselCompileEnd { id := id }]
  | .drain => s.prepend [event .drainCaptureEnd { id := id }]
  | .chpre => s.prepend [event .chiselCompileEnd { id := id }]
  | _ =>
    if o.slabs ≤ o.slab then s.endTile id o
    else withWords id o (s.slabFetch id o e) fun m s =>
      put (o.addSlab (s.launch (s.team o.team).launch).protect (o.aRows m) (o.bCols m)) s

/-- TILE_SLAB_COMPLETE (11 R234): the sequencer runs one slab, and the next follows. -/
def execTileSlabComplete (s : State) : Out :=
  let id := s.ev.id
  match s.tileNo id with
  | none => .next s
  | some o => if s.tileRuns id o then .next ((s.beginTile id o).runSlab id o) else .next s

end Sys2Proof.Machine
end

