-- ==== Sys2Proof/Machine/Presence.lean ====
section
/-!
DEFINITION. Machine/Presence.lean: the presence registers and tensor-record handles of a team (12 R256, R257; 19 R413 to R415).
-/

namespace Sys2Proof.Machine

/-- Writes a presence register; writes to z0 are ignored (07 R160). -/
def Team.setZ (t : Team) (k : Nat) (v : Bool) : Team := if k = 0 then t else { t with z := setBit t.z k v }

/-- Writes a presence register of a team: what issues in the same cycle still sees the old value (12 R257). -/
def State.setZ (s : State) (u k : Nat) (v : Bool) : State :=
  let now := s.cyc + s.issue.cycle
  s.modTeam u fun t =>
    { t.setZ k v with zold := some (now, match t.zold with
        | some x => if x.1 = now then x.2 else t.z
        | none => t.z) }

/-- A presence register; z0 reads present. -/
def Team.getZ (t : Team) (k : Nat) : Bool := k == 0 || t.z.getLsbD k

/-- ZSET of one team. -/
def zsetTeam (k : Nat) (sa : Src) (b : State) (l : Lane) (_ : List Lane) : Except Excuse (State → State) :=
  match readConsumed b l [sa] with
  | .error x => .error x
  | .ok vs => .ok fun s => (popSrcs s l [sa]).setZ (refTeam l.ref) k ((argAt vs 0).getLsbD 0)

/-- ZSET (19 R414). -/
def execZset (za : Fin 16) (_fs : Bool) (sa : Src) (s : State) : Out := .next (teamsOp (zsetTeam za.val sa) s)

/-- The operations of ZLOG (19 R413). -/
def zlogOf (op : Fin 4) (a b : Bool) : Bool :=
  match op with
  | 0 => a && b
  | 1 => a || b
  | 2 => a != b
  | 3 => a && !b

/-- ZLOG of one team: both registers are read as before the chain. -/
def zlogTeam (k za zb : Nat) (op : Fin 4) (b : State) (l : Lane) (_ : List Lane) : Except Excuse (State → State) :=
  let t := b.preTeam l.ref
  .ok fun s => s.setZ (refTeam l.ref) k (zlogOf op (t.getZ za) (t.getZ zb))

/-- ZLOG (19 R414). -/
def execZlog (k za zb : Fin 16) (op : Fin 4) (_fs : Bool) (s : State) : Out :=
  .next (teamsOp (zlogTeam k.val za.val zb.val op) s)

/-- ZTST (19 R414): pushes in every active lane. -/
def execZtst (za : Fin 16) (_fs : Bool) (s : State) : Out :=
  .next (s.forLanes fun s l => s.push l.ref { v := ofBool64 ((s.preTeam l.ref).getZ za.val) }).pushOff

/-! ## Handles -/

/-- What reading a record at issue comes to: its words, or why the lanes do not complete. -/
def State.readRecord (s : State) (l : Lane) (a : Dword) : Except Excuse (List Word) × State :=
  match s.reach l 0 a 128 false with
  | (.error x, s) => (.error x, s)
  | (.ok ls, s) =>
    match (s.unbackedRecord l.ref a ls).wordsNow (s.agentOf l.ref) 0 ls with
    | (.error x, s) => (.error x, s)
    | (.ok ws, s) => if ws.any (·.2) then (.error (trap 0x11), s) else (.ok (ws.map (·.1)), s)

/-- HLD of one team (19 R414): an invalid record traps and leaves the handle as it was. -/
def hldTeam (k : Nat) (sa : Src) (b s : State) (u : Nat) : State :=
  match (s.issue.act.filter fun l => refTeam l.ref = u).head? with
  | none => s
  | some l =>
    match readConsumed b l [sa] with
    | .error x => s.excuseTeam u x
    | .ok vs =>
      match s.readRecord l (argAt vs 0) with
      | (.error x, s) => s.excuseTeam u x
      | (.ok ws, s) =>
        if recordOk ws then (popSrcs s l [sa]).modTeam u fun t => { t with handles := aset t.handles k ws }
        else s.excuseTeam u (trap 0x05 (BitVec.ofNat 32 k))

/-- HLD: its flag clears when the handle is written, at the end of issue. -/
def execHld (k : Fin 32) (_fs : Bool) (sa : Src) (s : State) : Out := .next (s.actTeams.foldl (hldTeam k.val sa s) s)

/-- HSET of one team (19 R414): the whole record is checked; an invalid handle's is zeros. -/
def hsetTeam (k d : Nat) (sa : Src) (b : State) (l : Lane) (_ : List Lane) : Except Excuse (State → State) :=
  match readConsumed b l [sa] with
  | .error x => .error x
  | .ok vs =>
    let ws := setRecord ((b.handleOf l.ref k).getD (List.replicate 32 0)) d (argAt vs 0)
    if recordOk ws then .ok fun s => (popSrcs s l [sa]).modTeam (refTeam l.ref) fun t => { t with handles := aset t.handles k ws }
    else .error (trap 0x05 (BitVec.ofNat 32 k))

/-- HSET. -/
def execHset (k : Fin 32) (za : Fin 16) (_fs : Bool) (sa : Src) (s : State) : Out := .next (teamsOp (hsetTeam k.val za.val sa) s)

/-- HRD (19 R414): a doubleword of a handle in every active lane, 0 if the handle is invalid. -/
def execHrd (k : Fin 32) (za : Fin 16) (_fs : Bool) (s : State) : Out :=
  .next (s.forLanes fun s l =>
    let ws := (s.handleOf l.ref k.val).getD []
    s.push l.ref { v := ws.getD (2 * za.val + 1) 0 ++ ws.getD (2 * za.val) 0 }).pushOff

end Sys2Proof.Machine
end

