-- ==== Sys2Proof/Machine/Collective.lean ====
section
/-!
DEFINITION. Machine/Collective.lean: collectives (20 R427 to R432): COLL and COLLST, the matching of participants, and the writes
of each.
-/

namespace Sys2Proof.Machine

/-! ## Records (20 R428) -/

/-- The operation of a record. -/
def CollOp.op (o : CollOp) : Nat := recAt o.rc 0 1

/-- The element type. -/
def CollOp.dtype (o : CollOp) : Nat := recAt o.rc 1 1

/-- The reduction. -/
def CollOp.rop (o : CollOp) : Nat := recAt o.rc 2 1

/-- The number of participants. -/
def CollOp.npart (o : CollOp) : Nat := recAt o.rc 4 4

/-- The rank of the participant. -/
def CollOp.rank (o : CollOp) : Nat := recAt o.rc 8 4

/-- The elements of a block, or SLOTCAP. -/
def CollOp.count (o : CollOp) : Nat := recAt o.rc 12 4

/-- The size of an element type in bytes. -/
def collSize (dtype : Nat) : Nat := [4, 4, 4, 2, 8].getD dtype 4

/-- The size of an element. -/
def CollOp.size (o : CollOp) : Nat := collSize o.dtype

/-- The identity of a collective in its context. -/
def CollOp.tag (o : CollOp) : Nat := recAt o.rc 56 8

/-- A record keeps every limit of 20 R428. -/
def collOk (ws : List Word) : Bool :=
  let op := recAt ws 0 1
  let size := collSize (recAt ws 1 1)
  let n := recAt ws 4 4
  let k := recAt ws 12 4
  decide (1 ≤ op ∧ op ≤ 4) && decide (recAt ws 1 1 ≤ 4) && decide (recAt ws 2 1 ≤ 2)
    && (!(op == 2 || op == 4) || recAt ws 2 1 == 0) && recAt ws 3 1 == 0 && decide (1 ≤ n ∧ n ≤ 1024) && decide (recAt ws 8 4 < n)
    && (if op = 4 then decide (k ≤ 2 ^ 24) else decide (1 ≤ k ∧ k ≤ 2 ^ 24 ∧ n * k ≤ 2 ^ 28))
    && recAt ws 16 8 % size == 0 && recAt ws 24 8 % size == 0 && recAt ws 32 8 % 4 == 0
    && (if op = 4 then recAt ws 40 8 % 4 == 0 && recAt ws 48 8 % 16 == 0 else recAt ws 40 8 == 0 && recAt ws 48 8 == 0)
    && recAt ws 64 56 == 0

/-! ## Reading -/

/-- Where a participant's accesses are made: its context, through the engine TLB of its core, outside its team (20 R432). -/
def CollOp.site (o : CollOp) : Site := { core := o.core, tlb := 2, ctx := o.kid, launch := 0, team := 0 }

/-- An error record of a participant has been written. -/
def State.collNoted (s : State) (id : Nat) : Bool :=
  match aget? s.ops id with
  | some (.coll o) => o.bad
  | _ => false

/-- Replaces a participant; that its error record has been written stays known. -/
def State.setColl (s : State) (id : Nat) (o : CollOp) : State :=
  { s with ops := aset s.ops id (.coll { o with bad := o.bad || s.collNoted id }) }

/-- The error record of a participant's first access to an unbacked word (20 R438). -/
def State.collRecord (s : State) (id : Nat) (o : CollOp) (va : Nat) (x : Loc) : State :=
  if x = .none ∧ !o.gone.contains (va / 4096) ∧ !s.collNoted id then
    match aget? s.ops id with
    | some (.coll y) => (s.errRecord o.kid 0 4 o.tid (ofVa (BitVec.ofNat 57 va))).setColl id { y with bad := true }
    | _ => s
  else s

/-- The location of a word of a participant; one of a page whose fault was answered with fail is nowhere. -/
def State.collLoc (s : State) (o : CollOp) (va : Nat) (write : Bool) : Except XFail Loc × State :=
  if o.gone.contains (va / 4096) then (.ok .none, s) else s.engineLoc o.site va write

/-- What reading can come to. -/
inductive CollRead where
  | ok (ws : List (Word × Bool))
  | stop
  deriving DecidableEq, Repr

/-- Reads consecutive words for a participant. A fault is recorded and holds it; a word that its home holds back is waited for. -/
def State.collWords (s : State) (id : Nat) (o : CollOp) (e : Event) (va : Nat) : Nat → CollRead × State
  | 0 => (.ok [], s)
  | n + 1 =>
    match s.collWords id o e va n with
    | (.stop, s) => (.stop, s)
    | (.ok ws, s) =>
      let a := (va + 4 * n) % 2 ^ 57
      match s.collLoc o a false with
      | (.error (.held w), s) => (.stop, s.awaitWord w e)
      | (.error (.fault k), s) =>
        let (i, s) := s.engineFault o.site a k
        (.stop, s.setColl id { o with fault := some i })
      | (.ok x, s) =>
        match s.engineHold o.site false e x with
        | some s => (.stop, s)
        | none =>
          let cls := match x with
            | .dev w => classOf o.pol w
            | _ => .normal
          let (d, p, s) := (s.collRecord id o a x).engineRead o.site cls (polFill o.pol) x
          (.ok (ws ++ [(d, p)]), s)

/-- The elements of SEND that a participant holds. -/
def CollOp.sendCount (o : CollOp) : Nat :=
  match o.op with
  | 3 => o.npart * o.count
  | 4 => ((o.cnts.getD []).map (·.toNat)).foldl (· + ·) 0
  | _ => o.count

/-- The words that a byte range touches. -/
def wordSpan (a len : Nat) : Nat := if len = 0 then 0 else (a + len - 1) / 4 - a / 4 + 1

/-- Reads what is still missing of a participant, in the order RANKS, CNTS, SEND; `data` says whether SEND and CNTS are wanted yet.
DEDUCED, unsafe: notes/assumptions/64.md. -/
def State.collFill (s : State) (id : Nat) (o : CollOp) (e : Event) (data : Bool) : Option CollOp × State :=
  match o.ranks with
  | none =>
    match s.collWords id o e (recAt o.rc 32 8) o.npart with
    | (.stop, s) => (none, s)
    | (.ok ws, s) =>
      let o := { o with ranks := some (ws.map fun w => if w.2 then 0xFFFFFFFF else w.1) }
      (some o, s.setColl id o)
  | some _ =>
    if !data then (some o, s)
    else
      match o.cnts with
      | none =>
        match s.collWords id o e (recAt o.rc 40 8) (if o.op = 4 then o.npart else 0) with
        | (.stop, s) => (none, s)
        | (.ok ws, s) =>
          let o := { o with cnts := some (ws.map fun w => if w.2 then 0 else w.1) }
          (some o, s.setColl id o)
      | some _ =>
        match o.send with
        | some _ => (some o, s)
        | none =>
          let a := recAt o.rc 16 8
          match s.collWords id o e (a / 4 * 4) (wordSpan a (o.sendCount * o.size)) with
          | (.stop, s) => (none, s)
          | (.ok ws, s) =>
            let o := { o with send := some ws }
            (some o, s.setColl id o)

/-- An element under way: its bits and poison. -/
structure Elem where
  v   : Nat
  psn : Bool
  deriving DecidableEq, Repr

/-- Element i of a participant's SEND. -/
def CollOp.elem (o : CollOp) (i : Nat) : Elem :=
  let off := recAt o.rc 16 8 % 4 + i * o.size
  let ws := ((o.send.getD []).drop (off / 4)).take (if o.size = 8 then (8 + off % 4 + 3) / 4 else 1)
  { v := wordsNat (ws.map (·.1)) / 2 ^ (8 * (off % 4)) % 2 ^ (8 * o.size), psn := ws.isEmpty || ws.any (·.2) }

/-! ## Reduction (20 R430) -/

/-- One step of a float reduction. -/
def collFloat (f : Fmt) (rop a b : Nat) : Nat :=
  let x := f.decode false a
  let y := f.decode false b
  (f.round .rne false (match rop with
    | 0 => (x.add .rne y).1
    | 1 => (x.min y).1
    | _ => (x.max y).1)).1

/-- One step of an integer reduction. -/
def collInt (signed : Bool) (bits rop a b : Nat) : Nat :=
  let val (x : Nat) : Int := if signed then signedOf bits x else (x : Nat)
  match rop with
  | 0 => (a + b) % 2 ^ bits
  | 1 => if val a ≤ val b then a else b
  | _ => if val a ≤ val b then b else a

/-- Op of 20 R430. -/
def collStep (dtype rop : Nat) (a b : Elem) : Elem :=
  { v := match dtype with
      | 0 => collFloat fmt32 rop a.v b.v
      | 1 => collInt true 32 rop a.v b.v
      | 2 => collInt false 32 rop a.v b.v
      | 3 => collFloat fmtB16 rop a.v b.v
      | _ => collInt true 64 rop a.v b.v,
    psn := a.psn || b.psn }

/-- Reduce over the ranks, in their order. -/
def collReduce (dtype rop : Nat) : List Elem → Elem
  | [] => { v := 0, psn := true }
  | x :: xs => xs.foldl (collStep dtype rop) x

/-! ## Results -/

/-- The participant of a rank. -/
def ofRank (ps : List CollOp) (r : Nat) : Option CollOp := ps.find? fun p => p.rank == r

/-- Element i of a rank; one of a package that is down is poisoned. -/
def rankElem (ps : List CollOp) (r i : Nat) : Elem :=
  match ofRank ps r with
  | some p => p.elem i
  | none => { v := 0, psn := true }

/-- The count that rank s sends to rank d (20 R431); a rank that is down counts as sending all that it could. -/
def CollOp.sentTo (s d : CollOp) : Nat := min ((s.cnts.getD []).getD d.rank 0).toNat d.count

/-- The SEND index at which the block for a rank starts. -/
def CollOp.prefixOf (s : CollOp) (d : Nat) : Nat := (((s.cnts.getD []).take d).map (·.toNat)).foldl (· + ·) 0

/-- The elements that a participant receives: their RECV index and value. -/
def CollOp.results (o : CollOp) (ps : List CollOp) : List (Nat × Elem) :=
  let ranks := List.range o.npart
  let red (i : Nat) : Elem := collReduce o.dtype o.rop (ranks.map fun r => rankElem ps r i)
  match o.op with
  | 1 => (List.range o.count).map fun i => (i, red i)
  | 2 => ranks.flatMap fun r => (List.range o.count).map fun i => (r * o.count + i, rankElem ps r i)
  | 3 => (List.range o.count).map fun i => (i, red (o.rank * o.count + i))
  | _ => ranks.flatMap fun r =>
      match ofRank ps r with
      | some p => (List.range (p.sentTo o)).map fun k => (r * o.count + k, p.elem (p.prefixOf o.rank + k))
      | none => (List.range o.count).map fun k => (r * o.count + k, { v := 0, psn := true })

/-- The elements that a participant dropped (20 R431). -/
def CollOp.dropped (o : CollOp) (ps : List CollOp) : Nat :=
  if o.op ≠ 4 then 0
  else (List.range o.npart).foldl (fun n d =>
    let c := ((o.cnts.getD []).getD d 0).toNat
    n + (match ofRank ps d with
      | some p => c - o.sentTo p
      | none => c)) 0

/-- The 16 bytes of a participant's OUTA entry for a rank. -/
def CollOp.outEntry (o : CollOp) (ps : List CollOp) (d : Nat) : List Byte :=
  let c := ((o.cnts.getD []).getD d 0).toNat
  let sent := match ofRank ps d with
    | some p => o.sentTo p
    | none => 0
  let rcvd := match ofRank ps d with
    | some p => p.sentTo o
    | none => o.count
  natBytes 4 sent ++ natBytes 4 (c - sent) ++ natBytes 4 (o.prefixOf d + sent) ++ natBytes 4 rcvd

/-- Bytes with poison placed by address. -/
def placeBytes (m : AMap (Byte × Bool)) (a : Nat) (bs : List Byte) (psn : Bool) : AMap (Byte × Bool) :=
  (bs.zip (List.range bs.length)).foldl (fun m p => aset m ((a + p.2) % 2 ^ 57) (p.1, psn)) m

/-- The words of placed bytes: address, data, mask, poison. -/
def byteWords (m : AMap (Byte × Bool)) : List (Nat × Word × BitVec 4 × Bool) :=
  let ws : AMap (Nat × BitVec 4 × Bool) := m.foldl (fun ws p =>
    let (d, k, q) := aget (0, 0, false) ws (p.1 / 4 * 4)
    aset ws (p.1 / 4 * 4) (d + p.2.1.toNat * 2 ^ (8 * (p.1 % 4)), setBit k (p.1 % 4) true, q || p.2.2)) []
  ws.map fun p => (p.1, BitVec.ofNat 32 p.2.1, p.2.2.1, p.2.2.2)

/-- What a participant writes. -/
def CollOp.writes (o : CollOp) (ps : List CollOp) : List (Nat × Word × BitVec 4 × Bool) :=
  let m := (o.results ps).foldl (fun m p => placeBytes m (recAt o.rc 24 8 + p.1 * o.size) (natBytes o.size p.2.v) p.2.psn)
    ([] : AMap (Byte × Bool))
  let m := if o.op = 4 then
      (List.range o.npart).foldl (fun m d => placeBytes m (recAt o.rc 48 8 + 16 * d) (o.outEntry ps d) false) m
    else m
  byteWords m

/-! ## Matching (20 R429) -/

/-- The participants of a collective that are not matched yet. -/
def State.collPeers (s : State) (o : CollOp) : List (Nat × CollOp) :=
  s.ops.filterMap fun p => match p.2 with
    | .coll x => if x.kid = o.kid ∧ x.tag = o.tag ∧ !x.matched then some (p.1, x) else none
    | _ => none

/-- The package and die of an entry of RANKS. -/
def rankHome (w : Word) : Nat × Nat := (bitsOf w 9 0, bitsOf w 11 10)

/-- The ranks whose packages are down. -/
def State.downRanks (s : State) (o : CollOp) : Nat :=
  ((o.ranks.getD []).filter fun w => s.arm.down.contains (rankHome w).1).length

/-- A participant agrees with another, and its RANKS names its die. -/
def State.collAgrees (s : State) (x o : CollOp) : Bool :=
  x.op == o.op && x.dtype == o.dtype && x.rop == o.rop && x.npart == o.npart && (o.op == 4 || x.count == o.count)
    && (x.ranks.getD []).getD x.rank 0xFFFFFFFF == BitVec.ofNat 32 (dieOfCore x.core * 1024 + x.pkg.getD s.arm.pkgid)

/-- Reads for every participant what is missing. -/
def State.collFillAll (s : State) (e : Event) (data : Bool) : List (Nat × CollOp) → Option (List (Nat × CollOp)) × State
  | [] => (some [], s)
  | (id, o) :: r =>
    if o.pkg.isSome then
      match s.collFillAll e data r with
      | (none, s) => (none, s)
      | (some os, s) => (some ((id, o) :: os), s)
    else if o.fault.isSome ∨ s.forkHolds o.refs id then (none, s)
    else
      match s.collFill id o e data with
      | (none, s) => (none, s)
      | (some o, s) =>
        match s.collFillAll e data r with
        | (none, s) => (none, s)
        | (some os, s) => (some ((id, o) :: os), s)

/-- Every participant has all that is wanted of it. -/
def collFull (data : Bool) (ps : List (Nat × CollOp)) : Bool :=
  ps.all fun p => p.2.pkg.isSome || (p.2.ranks.isSome && (!data || (p.2.cnts.isSome && p.2.send.isSome)))

/-- Ends the matching: each participant of this package gets its status and writes, and one of another package is forgotten. -/
def State.collEnd (s : State) (status : Nat) (ps : List (Nat × CollOp)) : State :=
  let os := ps.map (·.2)
  let lost := os.any fun o => o.dropped os != 0
  let s := ps.foldl (fun s p =>
    if p.2.pkg.isSome then { s with ops := adel s.ops p.1 }
    else
      let done := status = 1 ∨ status = 5
      s.setColl p.1 { p.2 with matched := true,
                               status := if status = 1 ∧ lost then 2 else status,
                               drops := if done then p.2.dropped os else 0,
                               outs := if done then p.2.writes os else [], send := none }) s
  s.prepend ((ps.filter fun p => p.2.pkg.isNone).map fun p => event .collectiveComplete { id := p.1 })

/-- A participant of another package, as its record, RANKS table, counts and elements arrive; `words` names the elements that are
poisoned. -/
def remotePart (e : EvArgs) : CollOp :=
  let ws := bytesWords e.bytes
  let o : CollOp := { launch := 0, refs := [], flag := 15, kid := e.ctx, core := e.core, pol := 0, rc := ws.take 32, addr := 0, pkg := some e.ix }
  let n := if o.op = 4 then o.npart else 0
  let rest := ws.drop (32 + o.npart)
  let data := rest.drop n
  { o with ranks := some ((ws.drop 32).take o.npart), cnts := some (rest.take n),
           send := some ((data.zip (List.range data.length)).map fun p => (p.1, e.words.contains p.2)) }

/-- Judges the collective of a participant: nothing while ranks are missing. -/
def State.collMatch (s : State) (e : Event) (o : CollOp) : State :=
  let ps := s.collPeers o
  match s.collFillAll e false ps with
  | (none, s) => s
  | (some ps, s) =>
    if !collFull false ps then s.prepend [e]
    else
      let lead := (ps.find? fun p => p.2.pkg.isNone).map (·.2)
      let down := s.downRanks (lead.getD o)
      if ps.length + down < o.npart then s
      else if !(ps.all fun p => s.collAgrees p.2 o) || !((ps.map fun p => p.2.rank).Nodup) then s.collEnd 4 ps
      else
        match s.collFillAll e true ps with
        | (none, s) => s
        | (some ps, s) => if collFull true ps then s.collEnd (if down = 0 then 1 else 5) ps else s.prepend [e]

/-- COLLECTIVE_MATCH: a participant of this package asks for its collective to be matched; an event that carries a record brings a
participant of another package. -/
def execCollectiveMatch (s : State) : Out :=
  let e := s.again .collectiveMatch
  if s.ev.bytes.length < 128 then
    match aget? s.ops s.ev.id with
    | some (.coll o) => if o.matched then .next s else .next (s.collMatch e o)
    | _ => .next s
  else
    let o := remotePart s.ev
    if !collOk o.rc then .next s
    else
      let (id, s) := s.fresh
      .next ((s.setColl id o).collMatch { op := .collectiveMatch, arg := { id := id } } o)

/-! ## Completing (20 R432) -/

/-- Writes the words of a participant that are left. -/
def State.runColl (s : State) (id : Nat) (o : CollOp) (e : Event) : List (Nat × Word × BitVec 4 × Bool) → Bool × State
  | [] => (true, s.setColl id o)
  | (va, d, mask, psn) :: r =>
    match s.collLoc o va true with
    | (.error (.held w), s) => (false, (s.setColl id o).awaitWord w e)
    | (.error (.fault k), s) =>
      let (i, s) := s.engineFault o.site va k
      (false, s.setColl id { o with fault := some i })
    | (.ok x, s) =>
      match s.engineHold o.site true e x with
      | some s => (false, s.setColl id o)
      | none =>
        let cls := match x with
          | .dev w => classOf o.pol w
          | _ => .normal
        ((s.collRecord id o va x).engineWrite o.site cls (if psn then 0 else d) mask psn x).runColl id { o with next := o.next + 1 } e r

/-- The two words of DONE. -/
def CollOp.doneWords (o : CollOp) : List (Nat × Word × BitVec 4 × Bool) :=
  [((o.addr + 124) % 2 ^ 57, BitVec.ofNat 32 o.drops, 15, false), ((o.addr + 120) % 2 ^ 57, BitVec.ofNat 32 o.status, 15, false)]

/-- COLLECTIVE_COMPLETE: a matched participant makes its writes, then writes DONE, and its flag clears. -/
def execCollectiveComplete (s : State) : Out :=
  let e := s.again .collectiveComplete
  let id := s.ev.id
  match aget? s.ops id with
  | some (.coll o) =>
    if !o.matched ∨ o.fault.isSome ∨ s.forkHolds o.refs id then .next s
    else
      match s.runColl id o e ((o.outs ++ o.doneWords).drop o.next) with
      | (false, s) => .next s
      | (true, s) =>
        match s.flagHolds o.refs o.flag e with
        | some s => .next s
        | none => .next (o.refs.foldl (fun s r => s.endFlag r o.flag) { s with ops := adel s.ops id })
  | _ => .next s

/-! ## COLL and COLLST (20 R429, R432) -/

/-- The collectives of a die in flight. -/
def State.collsOn (s : State) (die : Nat) : Nat :=
  (s.ops.filter fun p => match p.2 with
    | .coll o => o.pkg.isNone && dieOfCore o.core == die
    | _ => false).length

/-- Starts a collective: a malformed record gets STATUS 3. -/
def State.startColl (s b : State) (l : Lane) (flag : Nat) (m : Fin 8) (a : Dword) (ws : List Word) : State :=
  let s := s.escapeBy l.ref
  let (id, s) := s.fresh
  let bad := !collOk ws
  let o : CollOp := { launch := (b.team (refTeam l.ref)).launch, refs := (b.receivers l).map (·.ref), flag := flag, kid := b.ctxOf l.ref,
                      core := b.coreOf l.ref, pol := l.pol m,
                      rc := ws, addr := a.toNat % 2 ^ 57, matched := bad, status := if bad then 3 else 0, tid := b.tidOf l.ref }
  let s := o.refs.foldl (fun s r => s.setFlag r flag) (s.setColl id o)
  s.emit l.ref (event (if bad then .collectiveComplete else .collectiveMatch) { id := id })

/-- One lane of COLL. -/
def collLane (b : State) (flag : Nat) (m : Fin 8) (sa : Src) (s : State) (l : Lane) : State :=
  match readConsumed b l [sa] with
  | .error x => s.excuse l x
  | .ok vs =>
    if b.pairDiffers l [sa] then s.excuse l (trap 0x12)
    else if b.shadowed l then popSrcs s l [sa]
    else if 64 ≤ s.collsOn (dieOfCore (b.coreOf l.ref)) then s.excuse l .notReady
    else
      match s.readRecord l (argAt vs 0) with
      | (.error x, s) => s.excuse l x
      | (.ok ws, s) => (popSrcs s l [sa]).startColl b l flag m (argAt vs 0) ws

/-- COLL. -/
def execColl (m : Fin 8) (fs : Bool) (sa : Src) (s : State) : Out :=
  .next (policyGateBy enginePolicyOk m (fun s => s.forLanes (collLane s (s.issue.flag fs) m sa)) s)

/-- One lane of COLLST: a load of DONE; a poisoned address performs no access (18 R372). -/
def collstLane (b : State) (m : Fin 8) (fs : Bool) (sa : Src) (s : State) (l : Lane) : State :=
  if b.shadowed l then popSrcs s l [sa]
  else
    match readAll b l [sa] .none with
    | .error x => s.excuse l x
    | .ok vs =>
      if anyPsn vs then (popSrcs s l [sa]).giveAll b l .none { psn := true }
      else
        let a := argAt vs 0 + 120
        match s.reach l (l.pol m) a 8 false with
        | (.error x, s) => s.excuse l x
        | (.ok ls, s) => (popSrcs s l [sa]).startRead b l fs .none (l.pol m) a (.load 8 false) ls

/-- COLLST. -/
def execCollst (m : Fin 8) (fs : Bool) (sa : Src) (s : State) : Out :=
  .next (policyGate .load m (fun s => (s.forLanes (collstLane s m fs sa)).pushOff) s)

end Sys2Proof.Machine
end

