-- ==== Sys2Proof/Machine/Launch.lean ====
section
/-!
DEFINITION. Machine/Launch.lean: launch records and the pending-launch stores (06 R118 to R124), LAUNCH, LAUNCHW and LSTAT
(20 R434, R435), dependences (06 R121), and the ends of teams and launches (06 R120; 16 R331; 13 R276).
-/

namespace Sys2Proof.Machine

/-! ## The launch record (06 R118, R119) -/

/-- A record from its 64 words. -/
def launchRecOf (ws : List Word) : LaunchRec :=
  let d (o : Nat) : Dword := BitVec.ofNat 64 (recAt ws o 8)
  { code := d 0, trap := d 8, kconst := d 16, cplt := d 24, deps := [d 32, d 40, d 48, d 56], teams := recAt ws 64 4 + 1,
    groups := recAt ws 68 1 % 16 + 1, cohort := recAt ws 69 1 % 16 + 1, producer := recAt ws 70 1,
    attr := BitVec.ofNat 8 (recAt ws 71 1), xpool := recAt ws 72 1, acc := recAt ws 73 1, bars := recAt ws 74 1,
    spad := recAt ws 76 4, counts := d 80, save := d 88, slots := recAt ws 96 4 }

/-- A multiple of a power of two. -/
def aligned (d : Dword) (n : Nat) : Bool := d.toNat % n == 0

/-- The limits of R118 that the record alone decides.
DEDUCED, unsafe: notes/assumptions/65.md. -/
def launchRecBad (ws : List Word) : Bool :=
  let r := launchRecOf ws
  !(aligned r.code 16 && aligned r.trap 16 && aligned r.kconst 64 && aligned r.cplt 16 && r.deps.all (aligned · 16)
      && aligned r.counts 4 && aligned r.save 65536)
    || decide (16 ≤ recAt ws 68 1) || decide (16 ≤ recAt ws 69 1) || r.attr.getLsbD 7 || recAt ws 75 1 != 0
    || recAt ws 100 156 != 0
    || (r.producer != 0xFF && decide (r.groups ≤ r.producer))
    || decide (48 < r.xpool) || decide (32 < r.acc) || decide (16 < r.bars) || r.spad % 4096 != 0 || decide (524288 < r.spad)
    || decide (r.slots < r.cohort) || (r.counts != 0) != r.attr.getLsbD 3
    || (r.attr.getLsbD 2 && decide (r.slots < r.teams))

/-- A core takes teams: it is nominal or derated (06 R126). -/
def State.coreOpen (s : State) (c : Nat) : Bool :=
  match (s.coreRec c).state with
  | .nominal => true
  | .derated => true
  | _ => false

/-- The teams of a record that an empty core holds (06 R126). -/
def LaunchRec.perCore (r : LaunchRec) : Nat :=
  let per (have' need : Nat) (n : Nat) : Nat := if need = 0 then n else min n (have' / need)
  per 48 r.xpool (per 32 r.acc (per 128 r.bars (per 524288 r.spad (32 / r.groups))))

/-- A malformed record (06 R119).
DEDUCED, unsafe: notes/assumptions/65.md. -/
def State.launchBad (s : State) (ws : List Word) : Bool :=
  let r := launchRecOf ws
  launchRecBad ws
    || (r.attr.getLsbD 2 && decide (r.perCore * ((List.range 160).filter s.coreOpen).length < r.teams))

/-! ## Completion objects (06 R120) -/

/-- Where the dispatcher of a launch works: the engine TLB of the first core of its die. -/
def Launch.site (l : Launch) (id : Nat) : Site := { core := l.die * 40, tlb := 2, ctx := l.ctx, launch := id, team := 0 }

/-- The entries of a die's store that are held (06 R122): a rejected launch holds none. -/
def State.storeUsed (s : State) (die : Nat) : Nat :=
  (s.launches.filter fun p => p.2.die = die ∧ p.2.status.map (·.1) ≠ some 3).length

/-- The polls of the stores that hold launches. -/
def State.pollEvents (s : State) : List Event :=
  ((List.range 4).filter fun d => s.launches.any fun p => p.2.die = d ∧ !p.2.ready).map fun d => event .dependencePoll { die := d }

/-- What a submission by a thread comes after (06 R124): its requests that are under way, and the publication of its team's log. -/
def State.submitAfter (s : State) (r : Nat) : List Nat :=
  (s.reqs.filter fun p => p.2.by r && p.2.kind != .prefetch && polUse p.2.pol != 3).map (·.1)
    ++ if s.isRollback r then s.publishing (refTeam r) else []

/-- A launch enters its die's store (06 R122); its dependences are read at once, and again when what it comes after has ended. -/
def State.enterStore (s : State) (l : Launch) : Event × State :=
  let (id, s) := s.fresh
  let e := event .dependencePoll { die := l.die, id := id }
  (e, l.after.foldl (fun s k => s.follow k [e]) { s with launches := aset s.launches id { l with entered := s.cyc } })

/-- The entries of a queue (04 R93). -/
def CmdQueue.size (c : CmdQueue) : Nat := 2 ^ (min c.logsize 12 + 4)

/-- An enabled queue holds an entry that the hub has not read: HEAD and TAIL count modulo the size. -/
def CmdQueue.waiting (c : CmdQueue) : Bool := c.en && c.head.toNat % c.size != c.tail.toNat % c.size

/-- HEAD after the next entry. -/
def CmdQueue.next (c : CmdQueue) : Nat := (c.head.toNat + 1) % c.size

/-- The byte address of the next entry in device memory. -/
def CmdQueue.entryAddr (c : CmdQueue) : Nat := c.base + 64 * (c.head.toNat % c.size)

/-- A host queue that waits for an entry of a die's store (04 R95): the lowest-numbered.
DESIGN CHOICE, unsafe: notes/assumptions/131.md. -/
def State.queueWaiting (s : State) (die : Nat) : Option Nat :=
  (List.range 16).find? fun q =>
    let c := aget {} s.hub.cqs q
    s.hub.hdm && c.waiting && c.die == die && (s.ctx c.ctx).state != .restoring

/-- Grants an entry to the thread that parked first (06 R123; 20 R434). -/
def State.grantParked (s : State) (die : Nat) (p : Parked) (ps : List Parked) : State :=
  let s := s.modSched die fun x => { x with parked := ps, lastHost := false }
  let (e, s) := s.enterStore { die := die, ctx := p.ctx, rc := p.rc, k := p.k, entered := 0, addr := p.addr,
                               after := s.submitAfter (p.refs.headD 0) }
  (p.refs.foldl (fun s r =>
    (s.push r {}).modThread r fun t => { t with park := .none, pc := nextSlot t.pc }) s).prepend [e]

/-- Grants a free entry of a die's store in alternation (06 R123): to the thread that parked first, or to a host queue, which takes the
entry with its next submission. -/
def State.grantEntry (s : State) (die : Nat) : State :=
  if 4096 ≤ s.storeUsed die then s
  else
    match (s.sched die).parked, s.queueWaiting die with
    | [], _ => s
    | p :: ps, none => s.grantParked die p ps
    | p :: ps, some q =>
      if (s.sched die).lastHost then s.grantParked die p ps
      else s.prepend [event .cqSubmit { queue := q, keep := true }]

/-- The entry of a launch is released: what waits for it goes on, and an abort by the ladder restores the context (13 R282). -/
def State.endEntry (s : State) (id : Nat) (l : Launch) (st : Nat) (cause : Word) : State :=
  let s := { s with launches := adel s.launches id }
  let s := if st = 2 then s.errRecord l.ctx (cause.toNat % 256) 3 l.endTid 0 else s
  let s := if st = 3 then s else s.grantEntry l.die
  let s := s.prepend s.pollEvents
  if st = 2 ∧ cause.getLsbD 9 then s.prepend [event .ctxRestore { ctx := l.ctx, cause := 1 }] else s

/-- A completion object cannot be written: a record of KIND 7, but for a rejected launch, whose own record is there. -/
def State.noObject (s : State) (id : Nat) (l : Launch) (st : Nat) (cause : Word) : State :=
  (if st = 3 then s else s.errRecord l.ctx 0 7 0xFFFFFFFF l.rc.cplt).endEntry id l st cause

/-- Writes a completion object: TEAMSDONE and CAUSE first, STATUS last. STATUS 3 is written over a poisoned object too.
DESIGN CHOICE, unsafe: notes/assumptions/123.md. -/
def State.writeObject (s : State) (id : Nat) (l : Launch) (st : Nat) (cause : Word) : State :=
  let g := l.site id
  if !canonical l.rc.cplt || !aligned l.rc.cplt 16 then s.noObject id l st cause
  else
    match s.engineLocs g true (l.rc.cplt.toNat % 2 ^ 57) 4 with
    | (.error (.held w, _), s) => s.awaitWord w (event .launchEnd { id := id })
    | (.error (.fault _, _), s) => s.noObject id l st cause
    | (.ok ls, s) =>
      match s.engineHolds g true (event .launchEnd { id := id }) ls with
      | some s => s
      | none =>
        let (old, s) := s.engineReads g .normal 0 ls
        if st ≠ 3 ∧ old.any (·.2) then s.noObject id l st cause
        else
          let at' (i : Nat) : Loc := ls.getD i .none
          let s := s.engineWrites g .normal
            [((BitVec.ofNat 32 l.done, false), at' 2), ((BitVec.ofNat 32 (l.done / 2 ^ 32), false), at' 3),
             ((cause, false), at' 1), ((BitVec.ofNat 32 st, false), at' 0)]
          s.endEntry id l st cause

/-! ## LAUNCH and LAUNCHW (20 R434) -/

/-- A read of words in pieces that do not cross a page. -/
def State.readPieces (s : State) (l : Lane) (pol : Word) (size : Nat) : List Dword → Except Excuse (List (Word × Bool)) × State
  | [] => (.ok [], s)
  | a :: as =>
    match s.reach l pol a size false with
    | (.error x, s) => (.error x, s)
    | (.ok ls, s) =>
      match (s.unbackedRecord l.ref a ls).wordsNow (s.agentOf l.ref) pol ls with
      | (.error x, s) => (.error x, s)
      | (.ok ws, s) =>
        match s.readPieces l pol size as with
        | (.error x, s) => (.error x, s)
        | (.ok r, s) => (.ok (ws ++ r), s)

/-- The constants of a block of 64 words. -/
def constsOf (ws : List Word) : List Dword := (List.range 32).map fun i => ws.getD (2 * i + 1) 0 ++ ws.getD (2 * i) 0

/-- The record and constants of a submission by a lane. The block of a record whose KCONST is misaligned is not read. -/
def State.readLaunch (s : State) (l : Lane) (a : Dword) : Except Excuse (List Word × List Word) × State :=
  let pol : Word := 3
  match s.readPieces l pol 256 [a] with
  | (.error x, s) => (.error x, s)
  | (.ok ws, s) =>
    if ws.any (·.2) then (.error (trap 0x11), s)
    else
      let rec' := ws.map (·.1)
      let k := (launchRecOf rec').kconst
      if !aligned k 64 then (.ok (rec', []), s)
      else
        match s.readPieces l pol 64 ((List.range 4).map fun i => k + BitVec.ofNat 64 (64 * i)) with
        | (.error x, s) => (.error x, s)
        | (.ok ks, s) => if ks.any (·.2) then (.error (trap 0x11), s) else (.ok (rec', ks.map (·.1)), s)

/-- A rejected launch (06 R119): a record of KIND 2, and STATUS 3. -/
def State.reject (s : State) (l : Launch) (tid : Word) : Event × State :=
  let s := s.errRecord l.ctx 0 2 tid l.addr
  let (id, s) := s.fresh
  (event .launchEnd { id := id }, { s with launches := aset s.launches id { l with status := some (3, 0), entered := s.cyc } })

/-- Pushes a status in the lanes that a submission serves. -/
def State.launchStatus (s b : State) (l : Lane) (n : Nat) : State :=
  (b.receivers l).foldl (fun s k => s.push k.ref { v := BitVec.ofNat 64 n }) s

/-- The lanes of a submission park in LAUNCHW (06 R123). -/
def State.parkLaunch (s b : State) (l : Lane) (die : Nat) (x : Launch) : State :=
  let refs := (b.receivers l).map (·.ref)
  let s := refs.foldl (fun s r => (s.modThread r fun t => { t with pc := s.issue.here, park := .launchw }).diverge r) s
  s.modSched die fun y => { y with parked := y.parked ++ [{ refs := refs, ctx := x.ctx, rc := x.rc, k := x.k, addr := x.addr }] }

/-- Submits a record that has been read. -/
def State.submit (s b : State) (l : Lane) (wait : Bool) (addr : Dword) (ws ks : List Word) : State :=
  let die := dieOfCore (b.coreOf l.ref)
  let x : Launch := { die := die, ctx := b.ctxOf l.ref, rc := launchRecOf ws, k := constsOf ks, entered := 0, addr := addr,
                      after := s.submitAfter l.ref }
  if s.launchBad ws then
    let (e, s) := s.reject x (b.tidOf l.ref)
    (s.launchStatus b l 2).emit l.ref e
  else if s.storeUsed die < 4096 then
    let (e, s) := s.enterStore x
    (s.launchStatus b l 0).emit l.ref e
  else if wait then s.parkLaunch b l die x
  else s.launchStatus b l 1

/-- The record address that a lane at the LAUNCHW at which it waited has read before (13 R279; 20 R434). -/
def State.redone (b : State) (l : Lane) : Option Dword := if b.issue.here = l.pre.pc then l.pre.redo else none

/-- The record address of a lane's submission. -/
def State.launchOperand (b : State) (sa : Src) (l : Lane) : Except Excuse Dword :=
  match b.redone l with
  | some a => .ok a
  | none =>
    match readConsumed b l [sa] with
    | .error x => .error x
    | .ok vs => if b.pairDiffers l [sa] then .error (trap 0x12) else .ok (argAt vs 0)

/-- The pops of a submission, which a lane that has waited made before. -/
def State.popLaunch (s b : State) (sa : Src) (l : Lane) : State := if (b.redone l).isSome then s else popSrcs s l [sa]

/-- One lane of LAUNCH or LAUNCHW. -/
def launchLane (b : State) (wait : Bool) (sa : Src) (s : State) (l : Lane) : State :=
  match b.launchOperand sa l with
  | .error x => s.excuse l x
  | .ok a =>
    if b.shadowed l then s.popLaunch b sa l
    else
      match (s.escapeBy l.ref).readLaunch l a with
      | (.error x, s) => s.excuse l x
      | (.ok (ws, ks), s) => (s.popLaunch b sa l).submit b l wait a ws ks

/-- LAUNCH. -/
def execLaunch (sa : Src) (s : State) : Out := .next (s.forLanes (launchLane s false sa)).pushOff

/-- LAUNCHW. -/
def execLaunchw (sa : Src) (s : State) : Out := .next (s.forLanes (launchLane s true sa)).pushOff

/-! ## LSTAT (20 R435) -/

/-- One lane of LSTAT with IMM15 0: an acquire of system scope; what it returns may be poisoned, as for a load. -/
def lstatLane (b : State) (sa : Src) (s : State) (l : Lane) : State :=
  if b.shadowed l then popSrcs s l [sa]
  else
    match readConsumed b l [sa] with
    | .error x => s.excuse l x
    | .ok vs =>
      match s.readPieces l 0x2A 16 [argAt vs 0] with
      | (.error x, s) => s.excuse l x
      | (.ok ws, s) =>
        let a := ws.getD 0 (0, true)
        let c := ws.getD 1 (0, true)
        (popSrcs s l [sa]).giveAll b l .none { v := if a.2 || c.2 then 0 else c.1 ++ a.1, psn := a.2 || c.2 }

/-- LSTAT. -/
def execLstat (sa : Src) (imm : BitVec 15) (s : State) : Out :=
  if imm = 0 then .next (s.forLanes (lstatLane s sa)).pushOff
  else
    .next (s.forLanes fun s l =>
      s.push l.ref { v := BitVec.ofNat 64 (4096 - s.storeUsed (dieOfCore (s.coreOf l.ref))) }).pushOff

/-! ## Dependences (06 R121) -/

/-- What a read of a dependence shows. -/
inductive DepRead where
  | pending | met | failed | waits
  deriving DecidableEq, Repr

/-- Reads the STATUS of a dependence of a launch. -/
def State.readDep (s : State) (id : Nat) (l : Launch) (a : Dword) : DepRead × State :=
  if a = 0 then (.met, s)
  else if !canonical a then (.failed, s)
  else
    match s.engineLoc (l.site id) (a.toNat % 2 ^ 57) false with
    | (.error (.held w), s) => (.waits, s.awaitWord w (event .dependencePoll { die := l.die, id := id }))
    | (.error (.fault _), s) => (.failed, s)
    | (.ok x, s) =>
      match s.engineHold (l.site id) false (event .dependencePoll { die := l.die, id := id }) x with
      | some s => (.waits, s)
      | none =>
        let s := if x = .none then s.errRecord l.ctx 0 4 0xFFFFFFFF a else s
        let (d, psn, s) := s.engineRead (l.site id) .normal 0 x
        (if psn then .failed else if d = 0 then .pending else if d = 1 then .met else .failed, s)

/-- Reads dependences in order. -/
def State.readDeps (s : State) (id : Nat) (l : Launch) : List Dword → List DepRead × State
  | [] => ([], s)
  | a :: as =>
    let (x, s) := s.readDep id l a
    let (r, s) := s.readDeps id l as
    (x :: r, s)

/-- Judges the dependences of a waiting launch, when what its submission comes after has ended (06 R124). -/
def State.pollLaunch (s : State) (id : Nat) : State :=
  match aget? s.launches id with
  | none => s
  | some l =>
    if l.ready ∨ l.status.isSome ∨ l.after.any fun k => ahas s.reqs k then s
    else
      let (ds, s) := s.readDeps id l l.rc.deps
      if ds.contains .waits then s
      else if ds.contains .failed then
        (s.modLaunch id fun l => { l with status := some (4, BitVec.ofNat 32 (ds.idxOf .failed)) }).prepend
          [event .launchEnd { id := id }]
      else if ds.contains .pending then s
      else s.modLaunch id fun l => { l with ready := true }

/-- DEPENDENCE_POLL: a store reads the dependences of its waiting launches, or of one of them. -/
def execDependencePoll (s : State) : Out :=
  let e := s.ev
  .next ((akeys (s.launches.filter fun p => p.2.die = e.die ∧ (e.id = 0 ∨ p.1 = e.id))).foldl (fun s id => s.pollLaunch id) s)

/-! ## The end of a team (16 R331) -/

/-- Forgets a team: its threads, parked submissions, operations and requests; instruction pages that its launch pinned on the core
are released with its last team there (08 R165). -/
def State.removeTeam (s : State) (u : Nat) : State :=
  let t := s.team u
  let s := s.dropOps u fun _ => true
  let s := { s with
    teams := adel s.teams u
    threads := afilter s.threads fun r _ => refKind r == RefKind.steward || refTeam r != u
    reqs := afilter s.reqs fun _ x => refKind x.ref == RefKind.steward || refTeam x.ref != u
    scheds := amap s.scheds fun _ x => { x with parked := x.parked.filter fun p => !(p.refs.any fun r => refTeam r == u) } }
  if s.teams.any fun p => p.2.launch = t.launch ∧ p.2.core = t.core then s
  else { s with tlbs := amap s.tlbs fun k es =>
    if k = t.core * 4 + 3 then es.map fun e => { e with pins := e.pins.filter (· != t.launch) } else es }

/-- Engine work of a team that its end waits for. -/
def State.teamBusy (s : State) (u : Nat) : Bool :=
  (s.team u).ap.running || (s.reqs.any fun p => refKind p.2.ref != RefKind.steward && refTeam p.2.ref == u)
    || (s.ops.any fun p => match p.2 with
        | .tile o => o.team == u
        | .copy o => o.team == u
        | .gather o => o.team == u
        | _ => false)

/-- A team may end: every thread has exited, and its engine work is done. One that an abort finds with engine work does not end: it is
removed, and is not among those that are done.
DEDUCED, unsafe: notes/assumptions/130.md. -/
def State.teamOver (s : State) (u : Nat) : Bool :=
  let t := s.team u
  ((teamRefs u t.groups.length).all fun r => (s.thread r).exited) && !s.teamBusy u
    && (match t.halt with
        | none => true
        | some .save => true
        | _ => false)

/-- The log of a team that ends is published (09 R202): the event that ends the team follows the publication. -/
def State.lastLog (s : State) (u : Nat) : List Event × State :=
  let (es, s) := s.publishLog u (laneRef u 0 0)
  (es, (s.publishing u).foldl (fun s id => s.follow id [teamEndEvent u]) s)

/-- TEAM_END: in a rollback launch the log is published first; the team's resources are freed. -/
def execTeamEnd (s : State) : Out :=
  let u := s.ev.id
  if ahas s.teams u ∧ s.teamOver u then
    let t := s.team u
    if !t.log.isEmpty then
      let (es, s) := s.lastLog u
      .next (s.prepend es)
    else
      .next (((s.removeTeam u).modLaunch t.launch fun l => { l with done := l.done + 1 }).prepend
        [event .launchEnd { id := t.launch }])
  else .next s

/-! ## The end of a launch (06 R120) -/

/-- Plinth commands, and where asked collectives, of a launch are under way. -/
def State.launchOps (s : State) (id : Nat) (colls : Bool) : Bool :=
  s.ops.any fun p => match p.2 with
    | .plc o => o.launch == id
    | .coll o => colls && o.launch == id
    | _ => false

/-- Every write of a context has been applied everywhere. -/
def State.writesApplied (s : State) (ctx : Nat) : Bool := !(s.mem.writes.any fun p => p.2.kid == ctx)

/-- Every team of a launch has ended, and nothing that a thread of it started is under way.
DEDUCED, unsafe: notes/assumptions/73.md. -/
def State.launchOver (s : State) (id : Nat) (l : Launch) : Bool :=
  decide (l.rc.teams ≤ l.nextCoh * l.rc.cohort) && l.saved.isEmpty && !(s.teams.any fun p => p.2.launch == id)
    && !s.launchOps id true && s.writesApplied l.ctx

/-- LAUNCH_END: the completion object is written when the launch has ended.
DEDUCED, unsafe: notes/assumptions/73.md. -/
def execLaunchEnd (s : State) : Out :=
  let id := s.ev.id
  match aget? s.launches id with
  | none => .next s
  | some l =>
    match l.status with
    | some (st, cause) =>
      if st = 2 ∧ ((s.teams.any fun p => p.2.launch == id) ∨ s.launchOps id false ∨ !s.writesApplied l.ctx) then .next s
      else .next (s.writeObject id l st cause)
    | none => if s.launchOver id l then .next (s.writeObject id l 1 0) else .next s

/-! ## Abort (13 R276) -/

/-- Step 1 of an abort: every team stops issue and its access-processor program is squashed. -/
def State.stopLaunch (s : State) (id : Nat) (cause tid : Word) : State :=
  let s := s.modLaunch id fun l => { l with status := some (2, cause), endTid := tid, countFault := none, reserving := false }
  (akeys (s.teams.filter fun p => p.2.launch = id)).foldl (fun s u =>
    (s.squashAp u).modTeam u fun t => { t with halt := some .abort }) s

/-- Steps 2 to 4: when nothing of its teams is under way, logs are discarded, teams and pending cohorts removed. -/
def State.clearLaunch (s : State) (id : Nat) : State :=
  let us := akeys (s.teams.filter fun p => p.2.launch = id)
  if us.all s.drained then
    ((us.foldl (fun s u => s.removeTeam u) s).modLaunch id fun l => { l with saved := [] }).prepend [event .launchEnd { id := id }]
  else s

/-- LAUNCH_ABORT. A launch that has already come to an end keeps it. -/
def execLaunchAbort (s : State) : Out :=
  let e := s.ev
  match aget? s.launches e.id with
  | none => .next s
  | some l =>
    match l.status with
    | none => .next ((s.stopLaunch e.id e.val e.tid).clearLaunch e.id)
    | some (st, _) => if st = 2 then .next (s.clearLaunch e.id) else .next s

end Sys2Proof.Machine
end

