-- ==== Sys2Proof/Machine/Placement.lean ====
section
/-!
DEFINITION. Machine/Placement.lean: placement of cohorts on cores (06 R125 to R130), reservation and pre-emption (R128, R134 to
R136), and rollback (13 R281, R282).
-/

namespace Sys2Proof.Machine

/-! ## What a core has free (06 R126) -/

/-- The teams on a core. -/
def State.coreTeams (s : State) (c : Nat) : List Team := (s.teams.map (·.2)).filter fun t => t.core = c

/-- The group slots in use on a core: lane array and slot. -/
def State.usedSlots (s : State) (c : Nat) : List (Nat × Nat) := (s.coreTeams c).flatMap fun t => t.groups.map fun g => (g.la, g.slot)

/-- The sum of a count over teams. -/
def sumOf (f : Team → Nat) (ts : List Team) : Nat := ts.foldl (fun n t => n + f t) 0

/-- The free scratchpad granules of a core. -/
def State.freeGranules (s : State) (c : Nat) : List Nat :=
  let used := (s.coreTeams c).flatMap fun t => t.granules
  (List.range 128).filter fun g => !used.contains g

/-- A team of a record fits a core. -/
def State.fitsCore (s : State) (c : Nat) (r : LaunchRec) : Bool :=
  let ts := s.coreTeams c
  s.coreOpen c && decide ((s.usedSlots c).length + r.groups ≤ 32) && decide (sumOf (·.xpool) ts + r.xpool ≤ 48)
    && decide (sumOf (·.accs) ts + r.acc ≤ 32) && decide (sumOf (·.nbars) ts + r.bars ≤ 128)
    && decide (r.spad / 4096 ≤ (s.freeGranules c).length)

/-- The score of a core (06 R127). -/
def State.coreScore (s : State) (c groups : Nat) : Int :=
  Int.ofNat (s.coreRec c).life - 25 * Int.ofNat ((s.usedSlots c).length + groups)

/-- The core of a die with the largest score among those that a team fits, the lowest on ties. -/
def State.bestCore (s : State) (die : Nat) (r : LaunchRec) : Option Nat :=
  ((List.range 40).map (die * 40 + ·)).foldl (fun (b : Option Nat) c =>
    if !s.fitsCore c r then b
    else match b with
      | none => some c
      | some x => if s.coreScore x r.groups < s.coreScore c r.groups then some c else some x) none

/-! ## Placing a team -/

/-- The lane array with the most free slots, the lowest on ties, and its lowest free slot. -/
def nextGroupSlot (used : List (Nat × Nat)) : Nat × Nat :=
  let inUse (a : Nat) : Nat := (used.filter fun p => p.1 = a).length
  let la := (List.range 4).foldl (fun b a => if inUse a < inUse b then a else b) 0
  (la, ((List.range 8).find? fun k => !used.contains (la, k)).getD 0)

/-- Lane arrays and slots for groups in increasing index (06 R127). -/
def groupSlots (used : List (Nat × Nat)) : Nat → List (Nat × Nat)
  | 0 => []
  | n + 1 => nextGroupSlot used :: groupSlots (nextGroupSlot used :: used) n

/-- A thread as it stands at placement (07 R159). -/
def freshThread (code : Dword) (grp lane : Nat) : Thread :=
  { pc := code.setWidth 57 + 4, sr := 0x6A09E667 ^^^ BitVec.ofNat 32 (32 * grp + lane) }

/-- The threads of a team start afresh. -/
def State.freshThreads (s : State) (u : Nat) (l : Launch) : State :=
  (List.range (32 * l.rc.groups)).foldl (fun s i =>
    let lane := if l.protect then i % 32 / 2 else i % 32
    s.setThread (laneRef u (i / 32) (i % 32)) (freshThread l.rc.code (i / 32) lane)) s

/-- A granule of a core's scratchpad reads as zero (07 R160). -/
def MemSys.clearGranule (m : MemSys) (core g : Nat) : MemSys :=
  { m with spad := afilter m.spad fun k _ => !(k / 4096 / 40 = core ∧ k % 4096 / 32 = g) }

/-- The constant cache of a core is emptied when a team of another launch is placed there (08 R172). -/
def MemSys.switchLaunch (m : MemSys) (core id : Nat) : MemSys :=
  if aget 0 m.klaunch core = id then m
  else { m with kcache := adel m.kcache core, klaunch := aset m.klaunch core id }

/-- The groups of a team on the slots found for them. -/
def groupsAt (shapes : List (Nat × Nat × BitVec 57)) (at' : List (Nat × Nat)) : List Group :=
  (at'.zip (List.range at'.length)).map fun p =>
    let x := shapes.getD p.2 (32, 0, 0)
    { la := p.1.1, slot := p.1.2, m := x.1, rows := x.2.1, tilePc := x.2.2 }

/-- Places a team on a core. -/
def State.putTeam (s : State) (id : Nat) (l : Launch) (x : SavedTeam) (core : Nat) : State :=
  let r := l.rc
  let gs := (s.freeGranules core).take (r.spad / 4096)
  let t : Team :=
    { launch := id, ctx := l.ctx, core := core, tid := x.tid, coh := x.tid / r.cohort, ix := x.tid % r.cohort, slot := x.slot,
      groups := groupsAt x.shapes (groupSlots (s.usedSlots core) r.groups), xpool := r.xpool, accs := r.acc, nbars := r.bars,
      granules := gs, spad := r.spad, phased := x.phased, note := x.note,
      shadowNote := x.shadowNote, ap := { ended := x.ended, status := x.status } }
  let s := { s with teams := aset s.teams x.uid t }
  (gs.foldl (fun s g => s.modMem fun m => m.clearGranule core g) (s.modMem fun m => m.switchLaunch core id)).freshThreads x.uid l

/-- Places the teams of a cohort on a die in increasing linear id, if each finds a core. -/
def State.placeOn (s : State) (id : Nat) (l : Launch) (die : Nat) : List SavedTeam → Option State
  | [] => some s
  | x :: xs =>
    match s.bestCore die l.rc with
    | none => none
    | some c => (s.putTeam id l x c).placeOn id l die xs

/-- The free group slots of a die's nominal and derated cores. -/
def State.dieFree (s : State) (die : Nat) : Nat :=
  (((List.range 40).map (die * 40 + ·)).filter s.coreOpen).foldl (fun n c => n + (32 - (s.usedSlots c).length)) 0

/-- The order in which dies are preferred: the most free slots, then the store's own die, then the lowest number. -/
def State.dieBefore (s : State) (own a b : Nat) : Bool :=
  let x := s.dieFree a
  let y := s.dieFree b
  decide (y < x) || (x == y && (a == own || (b != own && decide (a < b))))

/-- Places a cohort whole on one die (06 R125, R127). -/
def State.placeCohort (s : State) (id : Nat) (l : Launch) (ts : List SavedTeam) : Option State :=
  ((List.range 4).foldl (fun (b : Option (Nat × State)) d =>
    match s.placeOn id l d ts with
    | none => b
    | some x => match b with
      | none => some (d, x)
      | some y => if s.dieBefore l.die d y.1 then some (d, x) else some y) none).map (·.2)

/-- Places cohorts in one decision, or none of them. -/
def State.placeCohorts (s : State) (id : Nat) (l : Launch) : List (List SavedTeam) → Option State
  | [] => some s
  | ts :: r =>
    match s.placeCohort id l ts with
    | none => none
    | some s => s.placeCohorts id l r

/-! ## The next cohort of a launch -/

/-- The save slots that teams of a launch hold (06 R135). -/
def State.slotsHeld (s : State) (id : Nat) (l : Launch) : List Nat :=
  ((s.teams.filter fun p => p.2.launch = id).map fun p => p.2.slot) ++ l.saved.flatten.map (·.slot)

/-- The lowest save slots that are free. -/
def lowestFree (used : List Nat) (n : Nat) : List Nat := ((List.range (used.length + n)).filter fun i => !used.contains i).take n

/-- M for a row count (06 R130). -/
def shapeM (count : Nat) : Nat := ([8, 16, 32, 64].find? fun m => decide (min count 64 ≤ m)).getD 64

/-- The linear ids of a cohort. -/
def LaunchRec.cohortTids (r : LaunchRec) (j : Nat) : List Nat :=
  (List.range (min r.cohort (r.teams - j * r.cohort))).map (j * r.cohort + ·)

/-- What a read by a dispatcher gives. -/
inductive DispRead (α : Type) where
  | ok (a : α)
  | waits
  | fault (kind va : Nat)
  | poisoned
  deriving Repr

/-- The request for a word that a read of the dispatcher finds held back at its home: the next decision reads it again. -/
def askWord (die kid w : Nat) : Event := event .homeReadShared { die := die, core := die * 40, kid := kid, w := w }

/-- The row counts of teams, by group (06 R130).
DEDUCED, unsafe: notes/assumptions/66.md. -/
def State.readCounts (s : State) (id : Nat) (l : Launch) : List Nat → DispRead (List Nat) × State
  | [] => (.ok [], s)
  | t :: ts =>
    let a := l.rc.counts + BitVec.ofNat 64 (4 * t * l.rc.groups)
    if !canonical a then (.poisoned, s)
    else
      match s.engineLocs (l.site id) false (a.toNat % 2 ^ 57) l.rc.groups with
      | (.error (.held w, _), s) => (.waits, s.awaitWord w (askWord l.die l.ctx w))
      | (.error (.fault k, va), s) => (.fault k va, s)
      | (.ok ls, s) =>
        match s.engineHolds (l.site id) false (askWord l.die l.ctx ((devWords ls).headD 0)) ls with
        | some s => (.waits, s)
        | none =>
          let s := match ls.findIdx? fun x => x == Loc.none with
            | some i => s.errRecord l.ctx 0 4 (BitVec.ofNat 32 t) (a + BitVec.ofNat 64 (4 * i))
            | none => s
          let (ws, s) := s.engineReads (l.site id) .normal 0 ls
          if ws.any (·.2) then (.poisoned, s)
          else
            match s.readCounts id l ts with
            | (.ok r, s) => (.ok (ws.map (·.1.toNat) ++ r), s)
            | r => r

/-- New teams with given linear ids: identifiers, save slots, and shapes from their counts. -/
def State.newTeams (s : State) (id : Nat) (l : Launch) (tids : List Nat) (counts : List Nat) : List SavedTeam × State :=
  let slots := lowestFree (s.slotsHeld id l) tids.length
  let g := l.rc.groups
  ((tids.zip (List.range tids.length)).map fun p =>
    let (tid, i) := p
    { uid := s.nextId + i, tid := tid, slot := slots.getD i 0,
      shapes := (List.range g).map fun k =>
        if l.shapemenu then (shapeM (counts.getD (i * g + k) 0), counts.getD (i * g + k) 0, 0) else (32, 0, 0) },
   { s with nextId := s.nextId + tids.length })

/-- How a try to place the next cohort of a launch went. -/
inductive PlaceEnd where
  | placed | nofit | waits
  deriving DecidableEq, Repr

/-- A read by the dispatcher of a launch faults: a record in the queue of the store's die holds the launch (06 R130).
DEDUCED, unsafe: notes/assumptions/66.md.
DEDUCED, unsafe: notes/assumptions/68.md. -/
def State.dispatchFault (s : State) (id : Nat) (l : Launch) (kind va : Nat) : State :=
  let (i, s) := s.engineFault (l.site id) va kind
  s.modLaunch id fun l => { l with countFault := some i }

/-- The cohorts of a launch that are placed in one decision: all of a resident launch, otherwise the next. -/
def Launch.nextCohorts (l : Launch) : List Nat :=
  let n := ceilDiv l.rc.teams l.rc.cohort
  if l.resident then (List.range n).drop l.nextCoh else if l.nextCoh < n then [l.nextCoh] else []

/-- Splits teams into their cohorts.
DEDUCED, unsafe: notes/assumptions/67.md. -/
def byCohort (r : LaunchRec) (ts : List SavedTeam) : List (List SavedTeam) :=
  ((ts.map fun t => t.tid / r.cohort).eraseDups).map fun j => ts.filter fun t => t.tid / r.cohort = j

/-- Places new cohorts. -/
def State.placeNew (s : State) (id : Nat) (l : Launch) : PlaceEnd × State :=
  let js := l.nextCohorts
  let tids := js.flatMap l.rc.cohortTids
  if tids.isEmpty ∨ l.rc.slots < (s.slotsHeld id l).length + tids.length then (.waits, s)
  else
    let (ts, s1) := s.newTeams id l tids []
    if (s1.placeCohorts id l (byCohort l.rc ts)).isNone then (.nofit, s)
    else
      match if l.shapemenu then s.readCounts id l tids else (.ok [], s) with
      | (.waits, s) => (.waits, s)
      | (.fault k va, s) => (.waits, s.dispatchFault id l k va)
      | (.poisoned, s) => (.waits, s.prepend [abortEvent id 0x11 0xFFFFFFFF])
      | (.ok cs, s) =>
        let (ts, s) := s.newTeams id l tids cs
        match s.placeCohorts id l (byCohort l.rc ts) with
        | none => (.nofit, s)
        | some s => (.placed, s.modLaunch id fun l => { l with nextCoh := l.nextCoh + js.length })

/-- Reads saved teams back into their places. -/
def State.restoreTeams (s : State) (e : Event) : List SavedTeam → LoadEnd × State
  | [] => (.done, s)
  | t :: ts =>
    match s.restoreTeam t.uid false e with
    | (.done, s) => s.restoreTeams e ts
    | r => r

/-- Teams that were placed and could not be read back leave their places again. -/
def State.unplace (s : State) (ts : List SavedTeam) : State := ts.foldl (fun s t => s.removeTeam t.uid) s

/-- Places the first saved cohort of a launch (06 R136). A word of a save slot that its home holds back is read again by the next
decision of the die.
DEDUCED, unsafe: notes/assumptions/68.md. -/
def State.placeSaved (s : State) (id : Nat) (l : Launch) (ts : List SavedTeam) (rest : List (List SavedTeam)) : PlaceEnd × State :=
  match s.placeCohorts id l (byCohort l.rc ts) with
  | none => (.nofit, s)
  | some s =>
    match s.restoreTeams (event .nop) ts with
    | (.done, s) => (.placed, s.modLaunch id fun l => { l with saved := rest })
    | (.waits, s) => (.waits, s.unplace ts)
    | (.fault k va, s) => (.waits, (s.unplace ts).dispatchFault id l k va)

/-- Places the next cohort of a launch: saved cohorts come first (06 R134). -/
def State.placeNext (s : State) (id : Nat) : PlaceEnd × State :=
  let l := s.launch id
  match l.saved with
  | ts :: r => s.placeSaved id l ts r
  | [] => s.placeNew id l

/-! ## Reservation and pre-emption (06 R128, R134) -/

/-- One launch stands later than another, across all stores. -/
def laterThan (x y : Nat × Launch) : Bool :=
  decide (x.2.prio < y.2.prio)
    || (x.2.prio == y.2.prio && (decide (y.2.entered < x.2.entered)
      || (x.2.entered == y.2.entered && (decide (y.2.die < x.2.die) || (x.2.die == y.2.die && decide (y.1 < x.1))))))

/-- A reserving launch keeps a later one from placing. -/
def State.heldByReservation (s : State) (p : Nat × Launch) : Bool :=
  s.launches.any fun q => q.2.reserving && q.1 != p.1 && laterThan p q

/-- A cohort, or a whole resident launch, is to be saved: its teams stop issue (06 R134 step 1). -/
def State.markSave (s : State) (id coh : Nat) : State :=
  let resident := (s.launch id).resident
  { s with teams := amap s.teams fun _ t =>
      if t.launch = id ∧ (resident ∨ t.coh = coh) then
        match t.halt with
        | none => { t with halt := some .save }
        | some (.roll c h _) => { t with halt := some (.roll c h true) }
        | _ => t
      else t }

/-- The event that saves a cohort when it has drained. -/
def saveEvent (id coh : Nat) : Event := event .preemptSave { id := id, ix := coh }

/-- The units of pre-emption that run: launch and cohort, resident launches as one. -/
def State.units (s : State) : List (Nat × Nat) :=
  (s.teams.map fun p => (p.2.launch, if (s.launch p.2.launch).resident then 0 else p.2.coh)).eraseDups

/-- The order in which units are pre-empted: lowest priority, then youngest entry, then the highest cohort. -/
def State.preemptBefore (s : State) (x y : Nat × Nat) : Bool :=
  let a := (x.1, s.launch x.1)
  let b := (y.1, s.launch y.1)
  if x.1 = y.1 then decide (y.2 < x.2) else if a.2.prio = b.2.prio then laterThan a b else decide (a.2.prio < b.2.prio)

/-- Puts a unit into its place in that order.
DEDUCED, unsafe: notes/assumptions/67.md. -/
def State.insertUnit (s : State) (x : Nat × Nat) : List (Nat × Nat) → List (Nat × Nat)
  | [] => [x]
  | y :: ys => if s.preemptBefore x y then x :: y :: ys else y :: s.insertUnit x ys

/-- The state without the teams of a unit, to see what would fit. -/
def State.withoutUnit (s : State) (x : Nat × Nat) : State :=
  { s with teams := afilter s.teams fun _ t => !(t.launch = x.1 ∧ ((s.launch x.1).resident ∨ t.coh = x.2)) }

/-- The teams that the next placement of a launch places, for a test of fit. -/
def State.nextTeams (s : State) (id : Nat) (l : Launch) : List SavedTeam :=
  match l.saved with
  | ts :: _ => ts
  | [] => (s.newTeams id l (l.nextCohorts.flatMap l.rc.cohortTids) []).1

/-- The units to pre-empt until a launch fits. -/
def State.victims (s : State) (id : Nat) (l : Launch) : List (Nat × Nat) → List (Nat × Nat)
  | [] => []
  | x :: xs =>
    let t := s.withoutUnit x
    if (t.placeCohorts id l (byCohort l.rc (t.nextTeams id l))).isSome then [x] else x :: t.victims id l xs

/-- A reserving launch pre-empts running cohorts of strictly lower priority until its cohort fits. -/
def State.preemptFor (s : State) (id : Nat) (l : Launch) : State :=
  if !(s.sched l.die).preen then s
  else
    let us := (s.units.filter fun x => decide ((s.launch x.1).prio < l.prio) && (s.launch x.1).status.isNone).foldl
      (fun us x => s.insertUnit x us) []
    (s.victims id l us).foldl (fun s x => (s.markSave x.1 x.2).prepend [saveEvent x.1 x.2]) s

/-- The cycles after which a launch that is passed over becomes reserving. -/
def State.reserveAfter (s : State) (die : Nat) : Nat := 2 ^ max 10 (s.sched die).resv

/-- RESERVING: a ready launch that has been passed over long enough reserves. -/
def execReserving (s : State) : Out :=
  let id := s.ev.id
  match aget? s.launches id with
  | some l =>
    if l.ready ∧ l.status.isNone ∧ s.reserveAfter l.die ≤ l.passed then
      .next (s.modLaunch id fun l => { l with reserving := true })
    else .next s
  | none => .next s

/-- A launch that a decision has passed over because its next cohort did not fit. -/
def State.passOver (s : State) (id : Nat) : State :=
  let s := s.modLaunch id fun l => { l with passed := l.passed + 64 }
  let l := s.launch id
  if l.reserving then s.preemptFor id l
  else if s.reserveAfter l.die ≤ l.passed then s.prepend [event .reserving { id := id }]
  else s

/-! ## PLACEMENT_DECISION (06 R127) -/

/-- Dispatch of a context is held: it is not live, or a Cast build has not reached its cast point (05 R111, R114). -/
def Ctx.dispatchHeld (x : Ctx) : Bool :=
  x.state != .live || (match x.build with
    | some b => !b.point
    | none => false)

/-- A launch may place: it is ready, what came before its submission is performed (06 R124), and nothing holds it. -/
def State.mayPlace (s : State) (id : Nat) (l : Launch) : Bool :=
  l.ready && l.status.isNone && l.countFault.isNone && !(s.ctx l.ctx).dispatchHeld && !s.heldByReservation (id, l)
    && !(s.mem.writes.any fun p => decide (p.1 < id) && p.2.kid == l.ctx && p.2.stamp.isNone)

/-- Places cohorts of a launch until the next does not fit; `n` bounds them by what the package can hold. -/
def State.placeLaunch (s : State) (id : Nat) : Nat → State
  | 0 => s
  | n + 1 =>
    if !s.mayPlace id (s.launch id) then s
    else
      match s.placeNext id with
      | (.placed, s) => (s.modLaunch id fun l => { l with passed := 0, reserving := false }).placeLaunch id n
      | (.nofit, s) => s.passOver id
      | (.waits, s) => s

/-- Puts a launch into its place: highest priority first, then oldest entry. -/
def insertLaunch (p : Nat × Launch) : List (Nat × Launch) → List (Nat × Launch)
  | [] => [p]
  | q :: r => if laterThan q p then p :: q :: r else q :: insertLaunch p r

/-- The launches of a die in the order of a decision. -/
def State.decisionOrder (s : State) (die : Nat) : List Nat :=
  ((s.launches.filter fun p => p.2.die = die).foldl (fun ls p => insertLaunch p ls) []).map (·.1)

/-- PLACEMENT_DECISION. -/
def execPlacementDecision (s : State) : Out :=
  if s.power.hold then .next s
  else .next ((s.decisionOrder s.ev.die).foldl (fun s id => s.placeLaunch id 5120) s)

/-! ## PREEMPT_SAVE (06 R134) -/

/-- What the dispatcher keeps of a team that is saved.
DEDUCED, safe: notes/assumptions/46.md. -/
def Team.savedAs (t : Team) (u : Nat) (note : FlagNote) : SavedTeam :=
  { uid := u, tid := t.tid, slot := t.slot, shapes := t.groups.map fun g => (g.m, g.rows, g.tilePc), phased := t.phased,
    ended := t.ap.ended, status := t.ap.status, note := note, shadowNote := t.shadowNote }

/-- Steps 3 and 4: the access-processor programs are squashed, and the logs of a rollback launch are published. A log that is empty
publishes nothing. -/
def State.squashTeams (s : State) : List Nat → List Event × State
  | [] => ([], s)
  | u :: us =>
    let s := s.squashAp u
    let (es, s) := if (s.launch (s.team u).launch).rollback then s.escapeLog u (laneRef u 0 0) else ([], s)
    let (r, s) := s.squashTeams us
    (es ++ r, s)

/-- Step 5: the state of each team is written; a fault aborts the launch. -/
def State.saveTeams (s : State) (e : Event) : List Nat → SaveEnd × State
  | [] => (.done, s)
  | u :: us =>
    match s.saveTeam u false e with
    | (.done, s) => s.saveTeams e us
    | (.waits, s) => (.waits, s)
    | (.fault, s) => (.fault, s.prepend [abortEvent (s.team u).launch 0x20 (BitVec.ofNat 32 (s.team u).tid)])

/-- Step 6: the teams' resources are freed, and the cohort returns to its entry ahead of unplaced cohorts. -/
def State.returnCohort (s : State) (id : Nat) (us : List Nat) : State :=
  let x := us.map fun u => (s.team u).savedAs u (s.flagNote u)
  let l := s.launch id
  let s := us.foldl (fun s u => s.removeTeam u) s
  let s := s.modLaunch id fun l => { l with saved := l.saved ++ [x] }
  let n := if l.resident then ceilDiv l.rc.teams l.rc.cohort else 1
  s.modSched l.die fun y => { y with pre := min 0xFFFF (y.pre + n) }

/-- PREEMPT_SAVE: a cohort, or resident launch, whose teams are all to be saved is saved when it has drained, and when the log that
it publishes has been performed. -/
def execPreemptSave (s : State) : Out :=
  let e := s.again .preemptSave
  let id := s.ev.id
  let ps := s.teams.filter fun p => p.2.launch = id ∧ ((s.launch id).resident ∨ p.2.coh = s.ev.ix)
  let us := akeys ps
  if us.isEmpty ∨ !(ps.all fun p => p.2.halt == some Halt.save && !p.2.shadow) ∨ !us.all s.drained then .next s
  else
    let (es, s) := s.squashTeams us
    if !us.all s.drained then .next (s.prepend es)
    else match s.saveTeams e us with
    | (.done, s) => .next ((s.returnCohort id us).prepend es)
    | (_, s) => .next (s.prepend es)

/-! ## Rollback (13 R281, R282) -/

/-- The CAUSE word of an abort by the ladder (13 R270). -/
def ladderWord (c : Byte) (handler : Bool) : Nat := c.toNat + 512 + if handler then 256 else 0

/-- A team as it stood at placement. -/
def State.freshTeam (s : State) (u : Nat) : State :=
  let t := s.team u
  let l := s.launch t.launch
  let s := { s with threads := adel s.threads (apRef u) }
  let s := s.modTeam u fun t =>
    { t with groups := t.groups.map fun g => { la := g.la, slot := g.slot, m := g.m, rows := g.rows },
             ext := [], bars := [], handles := [], acc := [], z := 1, dq := [], ap := {}, xwait := [] }
  (t.granules.foldl (fun s g => s.modMem fun m => m.clearGranule t.core g) s).freshThreads u l

/-- Step 6: the error record, and issue resumes, unless a save follows. -/
def State.rolledBack (s : State) (u : Nat) (c : Byte) (streak : Nat) (save : Bool) : State :=
  let t := s.team u
  (s.modTeam u fun t => { t with streak := streak, escaped := false, log := [], shadow := false,
                                 halt := if save then some .save else none }).errRecord t.ctx c.toNat 1 (BitVec.ofNat 32 t.tid) 0

/-- No thread of a team waits for an entry of a store any more: one that is restored at its LAUNCHW asks again (13 R279). -/
def State.unparkTeam (s : State) (u : Nat) : State :=
  { s with scheds := amap s.scheds fun _ x => { x with parked := x.parked.filter fun p => !(p.refs.any fun r => refTeam r == u) } }

/-- Steps 2 to 6, when the team has drained and the shadow of a completed phase is taken: its tile instructions and its log are
discarded, and its state is read back. -/
def State.rollBack (s : State) (u : Nat) (c : Byte) (h save : Bool) : State :=
  let t := s.team u
  let streak := t.streak + 1
  if !s.drained u ∨ t.shadow ∨ (s.launch t.launch).countFault.isSome then s
  else if 3 ≤ streak then s.prepend [abortEvent t.launch (ladderWord 0x21 h) (BitVec.ofNat 32 t.tid)]
  else
    let s := ((s.dropOps u fun _ => true).unparkTeam u).modTeam u fun t => { t with log := [] }
    if !t.phased then (s.freshTeam u).rolledBack u c streak save
    else
      match s.restoreTeam u true (rollbackEvent u c h) with
      | (.done, s) => s.rolledBack u c streak save
      | (.waits, s) => s
      | (.fault k va, s) => s.dispatchFault t.launch (s.launch t.launch) k va

/-- ROLLBACK: a trigger of 13 R272. In an escaped interval it aborts the launch; otherwise the team's issue stops, its
access-processor program is squashed, and it rolls back when it has drained. Triggers that arrive meanwhile merge. -/
def execRollback (s : State) : Out :=
  let e := s.ev
  let t := s.team e.id
  let c : Byte := BitVec.ofNat 8 e.cause
  if !ahas s.teams e.id then .next s
  else
    match t.halt with
    | some .abort => .next s
    | some (.roll c h save) =>
      let h := h || e.keep
      .next ((s.modTeam e.id fun t => { t with halt := some (.roll c h save) }).rollBack e.id c h save)
    | x =>
      if t.escaped then .next (s.prepend [abortEvent t.launch (ladderWord c e.keep) (BitVec.ofNat 32 t.tid)])
      else
        let save := x.isSome
        let s := (s.squashAp e.id).modTeam e.id fun t => { t with halt := some (.roll c e.keep save) }
        .next (s.rollBack e.id c e.keep save)

end Sys2Proof.Machine
end

