-- ==== Sys2Proof/Machine/System.lean ====
section
/-!
DEFINITION. Machine/System.lean: Casts and the error queue as threads use them (05 R111, R112; 20 R437 to R439), system registers,
TLBINV, TRAPRET, WEARRD and HALT (20 R441 to R446).
-/

namespace Sys2Proof.Machine

/-! ## Casts (05 R111, R112; 20 R437) -/

/-- Every placed team of a context is to be saved; the events that save them. -/
def State.markContext (s : State) (c : Nat) : List Event × State :=
  let us := ((s.teams.filter fun p => p.2.ctx = c).map fun p =>
    (p.2.launch, if (s.launch p.2.launch).resident then 0 else p.2.coh)).eraseDups
  (us.map fun x => saveEvent x.1 x.2, us.foldl (fun s x => s.markSave x.1 x.2) s)

/-- Starts a Cast build into the buffer that CUR does not name.
DEDUCED, safe: notes/assumptions/72.md. -/
def State.startBuild (s : State) (c : Nat) : State :=
  s.modCtx c fun x => { x with build := some { toB := !x.cur, seq := x.seq + 1 }, built := none, failed := false }

/-- Every active lane of the bundle receives a push. -/
def State.pushActive (s : State) (n : Nat) : State := (s.forLanes fun s l => s.push l.ref { v := BitVec.ofNat 64 n }).pushOff

/-- The context of the bundle. -/
def State.bundleCtx (s : State) : Nat := s.ctxOf ((s.issue.act.head?.map (·.ref)).getD 0)

/-- CASTB of a bundle that has an active lane: the push comes before the pre-emption. -/
def State.castB (s : State) (r : Nat) : State :=
  let c := s.ctxOf r
  let x := s.ctx c
  if x.build.isSome then s.pushActive 1
  else if x.buflen = 0 then s.pushActive 2
  else
    let (es, s) := ((s.pushActive 0).startBuild c).markContext c
    s.emitAll r es

/-- CASTB. -/
def execCastb (s : State) : Out :=
  match s.issue.act with
  | [] => .next s.pushOff
  | l :: _ => .next (s.castB l.ref)

/-- Commits a completed build (05 R112): one write of the cast root. -/
def Ctx.commit (x : Ctx) (b : Bool) : Ctx := { x with cur := b, valid := true, seq := x.seq + 1, built := none }

/-- CASTC of a bundle that has an active lane: it waits while a build runs, and for the copy writes. -/
def State.castC (s : State) (c : Nat) : State :=
  let x := s.ctx c
  if x.build.isSome then s.excuseAll fun _ => .notReady
  else if x.failed then s.pushActive 2
  else
    match x.built with
    | none => s.pushActive 1
    | some b =>
      if s.mem.writes.any fun p => p.2.comp == 5 && p.2.kid == c then s.excuseAll fun _ => .notReady
      else (s.modCtx c fun x => x.commit b).pushActive 0

/-- CASTC. -/
def execCastc (s : State) : Out :=
  match s.issue.act with
  | [] => .next s.pushOff
  | l :: _ => .next (s.castC (s.ctxOf l.ref))

/-- CTX_CAST (05 R105). -/
def Ctx.castWord (x : Ctx) : Word :=
  BitVec.ofNat 32 (x.seq.toNat * 65536 + (if x.cur then 2 else 0) + if x.valid then 1 else 0)

/-- What CASTQ pushes.
DEDUCED, safe: notes/assumptions/72.md. -/
def Ctx.castQuery (x : Ctx) : Dword :=
  BitVec.ofNat 64 (x.castWord.toNat + (if x.build.isSome then 2 ^ 32 else 0) + (if x.built.isSome then 2 ^ 33 else 0)
    + if x.failed then 2 ^ 34 else 0)

/-- CASTQ. -/
def execCastq (s : State) : Out := .next (s.forLanes fun s l => s.push l.ref { v := (s.ctx (s.ctxOf l.ref)).castQuery }).pushOff

/-- A word of some pages that another package holds modified, or that its home holds back: a write of the context that has not been
applied at its home (05 R111). -/
def State.strayWord (s : State) (pages : List Nat) : Option Nat :=
  ((s.mem.dir.flatMap fun p => p.2.words.map fun q => p.1 * 64 + q.1).filter fun w => pages.contains (w / 16384)).find? fun w =>
    (s.dirWord w).rst = 2 && s.heldHome w

/-- The cast point of a build (05 R111): the cast set is fixed, dispatch resumes; a buffer that is too short fails the build. It waits
for the words of the set that other packages hold modified. -/
def State.reachPoint (s : State) (c : Nat) (b : Build) (e : Event) : State :=
  match s.castSet c with
  | (.error w, s) => (s.readHold 5 w e).getD s
  | (.ok ps, s) =>
    match s.strayWord (ps.map (·.2)) with
    | some w => (s.readHold 5 w e).getD s
    | none =>
      if (s.ctx c).buflen < listPages ps.length + ps.length then s.buildFails c
      else
        let ls := (s.launches.filter fun p => p.2.ctx = c ∧ p.2.status.isNone ∧ !p.2.saved.isEmpty).map (·.2)
        s.modCtx c fun x => { x with build := some { b with point := true, pages := ps, all := ps.map (·.1) },
                                     works := aset x.works (if b.toB then 1 else 0) ls }

/-- CAST_POINT: no team of the context is placed, and every write of the context has been applied.
DESIGN CHOICE, unsafe: notes/assumptions/50.md. -/
def execCastPoint (s : State) : Out :=
  let c := s.ev.ctx
  match (s.ctx c).build with
  | none => .next s
  | some b =>
    if b.point ∨ (s.teams.any fun p => p.2.ctx == c) ∨ !s.writesApplied c then .next s else .next (s.reachPoint c b (s.again .castPoint))

/-! ## ERRQ (20 R438, R439) -/

/-- A record of the error queue as four words. -/
def ErrRec.words (x : ErrRec) : List Word :=
  [BitVec.ofNat 32 (x.cause % 256 + x.kind % 256 * 256 + if x.dropped then 65536 else 0), x.tid, loWord x.addr, hiWord x.addr]

/-- The number that a record's 16 bytes make. -/
def ErrRec.number (x : ErrRec) : Nat := wordsNat x.words

/-- One lane of ERRQ: a plain store under the scope of m0.
DEDUCED, unsafe: notes/assumptions/71.md. -/
def errqLane (b : State) (sa : Src) (s : State) (l : Lane) : State :=
  match readConsumed b l [sa] with
  | .error x => s.excuse l x
  | .ok vs =>
    if b.pairDiffers l [sa] then s.excuse l (trap 0x12)
    else if b.shadowed l then popSrcs s l [sa]
    else
      let pol := (l.pol 0) &&& 0x38
      match s.reach l pol (argAt vs 0) 16 true with
      | (.error x, s) => s.excuse l x
      | (.ok ls, s) =>
        let s := popSrcs s l [sa]
        let give (n : Nat) (s : State) : State := s.giveAll b l .none { v := BitVec.ofNat 64 n }
        let c := s.ctxOf l.ref
        match (s.ctx c).errs with
        | [] => give 0 s
        | x :: xs =>
          let s := s.modCtx c fun y => { y with errs := xs }
          let b := { b with issue := { b.issue with fla := 15 } }
          give 1 (s.startStore b l false pol (argAt vs 0) 16 x.number ls)

/-- ERRQ.
DEDUCED, unsafe: notes/assumptions/71.md. -/
def execErrq (sa : Src) (s : State) : Out :=
  .next (policyGateBy (fun p => decide (polScope p ≤ 5)) 0 (fun s => (s.forLanes (errqLane s sa)).pushOff) s)

/-! ## System registers (20 R441, R442) -/

/-- MODE. -/
def State.modeWord (s : State) (l : Lane) : Nat :=
  let n (b : Bool) (v : Nat) : Nat := if b then v else 0
  let lane := refKind l.ref != RefKind.steward
  n l.pre.handler 1 + n (lane && s.isProtected l.ref) 2 + n (s.isRollback l.ref) 4 + n (refKind l.ref == .steward) 8
    + n (refKind l.ref == .ap) 16

/-- COREID of a core: die, core on the die, and number (01 R29). -/
def coreId (c : Nat) : Nat := c / 40 + c % 40 * 4 + c * 256

/-- SPADERR of a core (08 R179). -/
def Core.spadErr (c : Core) : Nat := c.ce * 65536 + c.rb * 256 + c.psn

/-- CHSTAT of a core (12 R268). -/
def Core.chStat (c : Core) : Nat := c.comp * 2 ^ 24 + c.hit * 65536 + c.stale * 256 + c.dense

/-- A register as SYSRD reads it. A steward has no core: what its core registers read is open.
DEDUCED, safe: notes/assumptions/69.md. -/
def State.readSys (s : State) (l : Lane) (i : Nat) : Dword × State :=
  let n (x : Nat) : Dword × State := (BitVec.ofNat 64 x, s)
  let c := s.coreOf l.ref
  let onCore (r : Dword × State) : Dword × State := if refKind l.ref = .steward then s.takeFree else r
  match i with
  | 0x00 => n l.pre.xcause.toNat
  | 0x01 => n l.pre.xinfo.toNat
  | 0x02 => (l.pre.xaddr, s)
  | 0x03 => (l.pre.xpc, s)
  | 0x04 => n (s.modeWord l)
  | 0x08 => n (s.ctxOf l.ref)
  | 0x09 => onCore (n (coreId c))
  | 0x0A => onCore (n s.cyc)
  | 0x10 => onCore (BitVec.ofNat 64 (s.core c).spadErr, s.modCore c fun x => { x with ce := 0, rb := 0, psn := 0 })
  | 0x11 => onCore (BitVec.ofNat 64 (s.core c).chStat, s.modCore c fun x => { x with comp := 0, hit := 0, stale := 0, dense := 0 })
  | 0x20 => (aget 0 s.hub.xvec (refSid l.ref), s)
  | _ => n (refSid l.ref)

/-- SYSRD in each lane; the primary of a pair reads for both.
DEDUCED, safe: notes/assumptions/69.md. -/
def execSysrd (imm : BitVec 15) (s : State) : Out :=
  let b := s
  .next (s.forLanes fun s l =>
    if b.shadowed l then s
    else
      let (v, s) := s.readSys l imm.toNat
      s.giveAll b l .none { v := v }).pushOff

/-- One lane of SYSWR: XPC in handler mode, or the XVEC of a steward. A poisoned value is dropped. -/
def syswrLane (sa : Src) (i : Nat) (s : State) (l : Lane) : State :=
  if i = 3 ∧ !l.pre.handler then s.excuse l (trap 0x10)
  else
    match readAll s l [sa] .none with
    | .error x => s.excuse l x
    | .ok vs =>
      let s := popSrcs s l [sa]
      if anyPsn vs then s
      else if i = 3 then s.modThread l.ref fun t => { t with xpc := argAt vs 0 }
      else s.modHub fun h => { h with xvec := aset h.xvec (refSid l.ref) (argAt vs 0 &&& ~~~(0xF : Dword)) }

/-- SYSWR. -/
def execSyswr (sa : Src) (imm : BitVec 15) (s : State) : Out := .next (s.forLanes (syswrLane sa imm.toNat))

/-! ## TLBINV (20 R443) -/

/-- Removes translations of a context from every TLB: those that cover an address, or all. -/
def State.dropTlb (s : State) (ctx : Nat) (va : Option Nat) : State :=
  { s with tlbs := amap s.tlbs fun _ es => es.filter fun e =>
      !(match va with
        | some a => e.covers ctx a
        | none => e.ctx == ctx) }

/-- What a TLBINV waits for once its chain has issued (20 R443): the accesses of the thread, the publication of its log, and the writes
of its context.
DEDUCED, safe: notes/assumptions/70.md. -/
def State.tlbinvWaits (s : State) (r : Nat) : Bool :=
  (s.reqs.any fun p => p.2.by r && p.2.kind != .prefetch) || (s.isRollback r && !(s.publishing (refTeam r)).isEmpty)
    || s.mem.writes.any fun p => p.2.kid == s.ctxOf r

/-- Steps 2 to 4 of a TLBINV. -/
def State.tlbDrop (s : State) (r : Nat) (va : Option Nat) : State :=
  (s.dropTlb (s.ctxOf r) va).chStale (s.ctxOf r) none fun _ => true

/-- One lane of TLBINV: a release of system scope, which waits for the thread's own accesses and the context's writes, in its place for
those of its own chain and for the log that it publishes.
DEDUCED, safe: notes/assumptions/70.md. -/
def tlbinvLane (sa : Src) (all : Bool) (s : State) (l : Lane) : State :=
  let u := refTeam l.ref
  match readAll s l [sa] .none with
  | .error x => s.excuse l x
  | .ok vs =>
    let c := s.ctxOf l.ref
    let waits := (s.reqs.any fun p => decide (p.1 < s.issue.first) && p.2.by l.ref && p.2.kind != .prefetch)
      || (s.mem.writes.any fun p => decide (p.1 < s.issue.first) && p.2.kid == c)
      || (refKind l.ref == .ap && (!s.apAllSettled u || (s.team u).speculative))
    if waits then s.excuse l .notReady
    else
      let va := if all || anyPsn vs then none else some ((argAt vs 0).toNat % 2 ^ 57)
      let s := popSrcs (s.escapeBy l.ref) l [sa]
      if s.tlbinvWaits l.ref then s.modThread l.ref fun t => { t with park := .tlbinv va } else s.tlbDrop l.ref va

/-- The threads in TLBINV whose accesses have been performed go on. -/
def State.tlbinvAll (s : State) : State :=
  s.threads.foldl (fun s p =>
    match p.2.park with
    | .tlbinv va => if s.tlbinvWaits p.1 then s else (s.modThread p.1 fun t => { t with park := .none }).tlbDrop p.1 va
    | _ => s) s

/-- TLBINV. -/
def execTlbinv (sa : Src) (imm : BitVec 15) (s : State) : Out := .next (s.forLanes (tlbinvLane sa (imm == 1)))

/-! ## TRAPRET, WEARRD, HALT -/

/-- One lane of TRAPRET (13 R275; 20 R444). -/
def trapretLane (skip : Bool) (s : State) (l : Lane) : State :=
  if refKind l.ref = .ap ∨ !l.pre.handler then s.excuse l (trap 0x10)
  else
    let pc := l.pre.xpc.setWidth 57
    if skip then
      match s.chainWords l.ref pc 3 with
      | (.error x, s) => s.excuse l x
      | (.ok ws, s) => s.setThread l.ref ((s.thread l.ref).leaveHandler (nextSlot ((ws.map (·.1)).getLastD pc)))
    else s.setThread l.ref ((s.thread l.ref).leaveHandler pc)

/-- TRAPRET. -/
def execTrapret (imm : BitVec 15) (s : State) : Out := .next (s.forLanes (trapretLane (imm == 1)))

/-- The clock cap of a core in tenths (01 R25). -/
def CoreRec.cap (r : CoreRec) : Nat :=
  match r.state with
  | .nominal => 10
  | .derated => if 150 ≤ r.life then 9 else if 100 ≤ r.life then 8 else 7
  | .drained => 6
  | .retired => 0

/-- The number of a core's state (01 R30). -/
def CoreState.code : CoreState → Nat
  | .nominal => 0
  | .derated => 1
  | .drained => 2
  | .retired => 3

/-- PWEAR_CORE of a core (01 R31). -/
def CoreRec.word (r : CoreRec) : Word := BitVec.ofNat 32 (r.cause * 65536 + r.cap * 4096 + r.state.code * 1024 + r.life)

/-- WEARRD (20 R445). -/
def execWearrd (imm : BitVec 15) (s : State) : Out :=
  .next (s.forLanes fun s l =>
    s.push l.ref { v := if imm = 0 then BitVec.ofNat 64 (s.ctx (s.ctxOf l.ref)).wear
                        else (s.coreRec (s.coreOf l.ref)).word.setWidth 64 }).pushOff

/-- HALT (20 R446). -/
def execHalt (s : State) : Out :=
  .next (s.forLanes fun s l =>
    if refKind l.ref = .steward then s.modThread l.ref fun t => { t with park := .halted } else s.excuse l (trap 0x10))

end Sys2Proof.Machine
end

