-- ==== Sys2Proof/Machine/Form.lean ====
section
/-!
DEFINITION. Machine/Form.lean: bundle formation in a lane array (06 R131, R132; 07 R144).
-/

namespace Sys2Proof.Machine

/-- A ready thread of a lane array, as formation sees it: its place, lane and slot, its launch, PC and wait count, and the threads
that are taken with it, its unit. -/
structure Cand where
  ref    : Nat
  lane   : Nat
  slot   : Nat
  launch : Nat
  pc     : BitVec 57
  wait   : Nat
  unit   : List Nat
  deriving DecidableEq, Repr

/-- A thread is ready at the start of the window. -/
def State.poolReady (s : State) (r : Nat) : Bool := s.issuable r && !(s.thread r).held

/-- The live threads of a group in the units that are ready and issue together: a converged group as one (07 R144), otherwise a
primary with its shadow in a protected launch (R143), and each thread by itself in any other. -/
def State.unitsOf (s : State) (u : Nat) (t : Team) (g : Nat) (x : Group) : List (List Nat) :=
  let live := s.liveRefs u g
  if x.conv then [live]
  else if (s.launch t.launch).protect then
    (live.filter fun r => refLane r % 2 = 0 ∨ !live.contains (partnerRef r)).map fun r => live.filter fun k => k = r ∨ k = partnerRef r
  else live.map fun r => [r]

/-- The ready threads of a group: those of a unit only when all of it is ready. -/
def State.groupPool (s : State) (u : Nat) (t : Team) (g : Nat) (x : Group) : List Cand :=
  ((s.unitsOf u t g x).filter fun rs => rs.all s.poolReady).flatMap fun rs => rs.map fun r =>
    { ref := r, lane := refLane r, slot := x.slot, launch := t.launch, pc := (s.thread r).pc, wait := (s.thread r).wait,
      unit := rs }

/-- The ready threads of a lane array. -/
def State.pool (s : State) (core la : Nat) : List Cand :=
  s.teams.flatMap fun p =>
    if p.2.core = core then
      (p.2.groups.zip (List.range 16)).flatMap fun q => if q.1.la = la then s.groupPool p.1 p.2 q.2 q.1 else []
    else []

/-- The thread to start a bundle with: the largest wait count, then the lowest lane, then the lowest slot. -/
def Cand.before (x y : Cand) : Bool :=
  decide (y.wait < x.wait) || (x.wait == y.wait && (decide (x.lane < y.lane) || (x.lane == y.lane && decide (x.slot < y.slot))))

/-- The first of threads in that order. -/
def firstCand : List Cand → Option Cand
  | [] => none
  | x :: xs =>
    match firstCand xs with
    | none => some x
    | some y => if y.before x then some y else some x

/-- Adds lanes to a bundle, from lane `31 − n` on: on each free lane the thread at the bundle's PC and launch with the largest wait
count, with its whole unit. -/
def fillBundle (t0 : Cand) (pool : List Cand) : Nat → List Nat → List Nat
  | 0, b => b
  | n + 1, b =>
    let lane := 31 - n
    let free (c : Cand) : Bool := c.unit.all fun r => !(b.any fun k => refLane k == refLane r)
    let cs := pool.filter fun c => c.lane = lane ∧ c.pc = t0.pc ∧ c.launch = t0.launch ∧ free c
    match firstCand cs with
    | some c => fillBundle t0 pool n (b ++ c.unit)
    | none => fillBundle t0 pool n b

/-- Places in increasing lane order. -/
def byLane (b : List Nat) : List Nat := (List.range 32).filterMap fun l => b.find? fun r => refLane r = l

/-- Up to `n` bundles from a pool; the last of four issues in cycle 3.
DEDUCED, safe: notes/assumptions/19.md. -/
def formBundles (pool : List Cand) : Nat → List Bundle
  | 0 => []
  | n + 1 =>
    match firstCand pool with
    | none => []
    | some t0 =>
      let b := fillBundle t0 pool 32 t0.unit
      { cycle := 3 - n, pc := t0.pc, refs := byLane b } :: formBundles (pool.filter fun c => !b.contains c.ref) n

/-- Enters a bundle among those formed, by the cycle of the window in which it issues.
DEDUCED, safe: notes/assumptions/19.md. -/
def insertBundle (b : Bundle) : List Bundle → List Bundle
  | [] => [b]
  | x :: xs => if b.cycle < x.cycle then b :: x :: xs else x :: insertBundle b xs

/-- BUNDLE_FORMATION: the lane array forms up to four bundles. -/
def execBundleFormation (s : State) : Out :=
  .next { s with bundles := (formBundles (s.pool s.ev.core s.ev.la) 4).foldl (fun l b => insertBundle b l) s.bundles }

end Sys2Proof.Machine
end

