-- ==== Sys2Proof/Machine/FaultQueue.lean ====
section
/-!
DEFINITION. Machine/FaultQueue.lean: the fault queue as the host reads it and answers it (08 R168, R169; 11 R235, R237, R244).
-/

namespace Sys2Proof.Machine

/-- The fault queue of a die. -/
def State.faultsOf (s : State) (d : Nat) : Faults := aget {} s.faults d

/-- PF_HI of a record. -/
def FaultRec.hi (x : FaultRec) (ovf : Bool) : Word :=
  BitVec.ofNat 32 (2 ^ 31 + (if ovf then 2 ^ 30 else 0) + x.kind * 2 ^ 27 + x.tlb * 2 ^ 25 + x.va / 2 ^ 32)

/-- PF_HI_READ: the oldest unread record is popped, and PF_VALO and PF_INFO are latched. -/
def execPfHiRead (s : State) : Out :=
  let d := s.ev.die
  let f := s.faultsOf d
  match f.recs.find? fun x => !x.read with
  | none =>
    .next ({ s with faults := aset s.faults d { f with ovf := false, valo := 0, info := 0 } }.readBack
      (if f.ovf then BitVec.ofNat 32 (2 ^ 30) else 0))
  | some x =>
    let recs := f.recs.map fun y => if y.id = x.id then { y with read := true } else y
    .next ({ s with faults := aset s.faults d { f with recs := recs, ovf := false, valo := BitVec.ofNat 32 x.va,
                                                       info := BitVec.ofNat 32 (x.ctx * 65536 + x.id) } }.readBack (x.hi f.ovf))

/-! ## Answers -/

/-- The record that holds an operation, with its core. -/
def Op.heldBy : Op → Option (Nat × Nat)
  | .tile o => o.fault.map fun i => (o.core, i)
  | .copy o => o.fault.map fun i => (o.core, i)
  | .coll o => o.fault.map fun i => (o.core, i)
  | _ => none

/-- An operation that no record holds any more. -/
def Op.release : Op → Op
  | .tile o => .tile { o with fault := none }
  | .copy o => .copy { o with fault := none }
  | .coll o => .coll { o with fault := none }
  | o => o

/-- An operation waits for a record of a die. -/
def Op.waitsOn (o : Op) (d id : Nat) : Bool :=
  match o.heldBy with
  | some (c, i) => dieOfCore c == d && i == id
  | none => false

/-- The threads that are parked on a record of a die. -/
def State.parkedOn (s : State) (d id : Nat) : List (Nat × Nat) :=
  s.threads.filterMap fun p => match p.2.park with
    | .fault e i va => if e = d ∧ i = id then some (p.1, va) else none
    | _ => none

/-- A thread whose walk is made again goes on at its chain, or comes back to where a tile instruction's fault found it (07 R146). -/
def Thread.comeBack (t : Thread) : Thread :=
  match t.back with
  | some (pc, p) => { t with pc := pc, park := p, back := none }
  | none => { t with park := .none }

/-- The walks that wait for a record are made again: threads go on at their chains, engines and dispatchers try again. -/
def State.walkAgain (s : State) (d id : Nat) : State :=
  let s := (s.parkedOn d id).foldl (fun s p => s.modThread p.1 Thread.comeBack) s
  { s with ops := amap s.ops fun _ o => if o.waitsOn d id then o.release else o,
           launches := amap s.launches fun _ l =>
             if l.die = d ∧ l.countFault = some id then { l with countFault := none } else l }

/-- The answer fail for an operation: a tile operation traps its threads, a copy or drain aborts its launch, and a collective goes on
without the page.
DEDUCED, unsafe: notes/assumptions/64.md. -/
def State.failOp (s : State) (x : FaultRec) (id : Nat) (o : Op) : State :=
  let info : Word := BitVec.ofNat 32 (x.kind + 8 * x.tlb)
  let stop (u : Nat) : State :=
    (s.dropOps u (· == o)).prepend [abortEvent (s.team u).launch 0x09 (BitVec.ofNat 32 (s.team u).tid)]
  match o with
  | .tile o =>
    if o.captured then stop o.team
    else
      let va := ((s.tileThreads o).findSome? fun r => match (s.thread r).park with
        | .fault _ i va => if o.fault = some i then some va else none
        | _ => none).getD x.va
      s.trapTile id o 0x09 info (ofVa (BitVec.ofNat 57 va))
  | .copy o => stop o.team
  | .coll o => s.setColl id { o with fault := none, gone := x.va / 4096 :: o.gone }
  | _ => s

/-- The answer fail: parked threads trap PAGE_FAULT, operations end, and a launch whose dispatcher waits aborts. -/
def State.failWalk (s : State) (d : Nat) (x : FaultRec) : State :=
  let s := (s.ops.filter fun p => p.2.waitsOn d x.id).foldl (fun s p => s.failOp x p.1 p.2) s
  let s := (s.parkedOn d x.id).foldl (fun s p =>
    let t := s.thread p.1
    s.takeTrap p.1 { t with park := .none, replay := false } t.pc 0x09 (BitVec.ofNat 32 (x.kind + 8 * x.tlb))
      (ofVa (BitVec.ofNat 57 p.2))) s
  (s.launches.filter fun p => p.2.die = d ∧ p.2.countFault = some x.id).foldl (fun s p =>
    s.prepend [abortEvent p.1 0x09 0xFFFFFFFF]) s

/-- PF_RESP: the record is answered and freed; a walk that waits for a free record is made again. -/
def State.answerFault (s : State) (d id : Nat) (fail : Bool) : State :=
  let f := s.faultsOf d
  let s := { s with faults := aset s.faults d { f with fail := fail, respid := BitVec.ofNat 8 id } }
  match f.recs.find? fun x => x.id == id with
  | none => s
  | some x =>
    let s := { s with faults := amod {} s.faults d fun f => { f with recs := f.recs.filter fun y => y.id != id } }
    (if fail then s.failWalk d x else s.walkAgain d id).walkAgain d 256

/-- PF_RESP_REPLAY. -/
def execPfRespReplay (s : State) : Out := .next (s.answerFault s.ev.die s.ev.id false)

/-- PF_RESP_FAIL. -/
def execPfRespFail (s : State) : Out := .next (s.answerFault s.ev.die s.ev.id true)

end Sys2Proof.Machine
end

