-- ==== Sys2Proof/Machine/Patina.lean ====
section
/-!
DEFINITION. Machine/Patina.lean: wear monitoring: samples, core states, wear charges, the lifetime record table and the host's wear
registers (01 R23 to R31).
-/

namespace Sys2Proof.Machine

/-! ## Samples (01 R23, R24) -/

/-- Relative increase of b over a in parts per million, as a register holds it.
DEDUCED, unsafe: notes/assumptions/76.md. -/
def ppm (a b : Nat) : Nat := min 0xFFFFFFFF ((b - a) * 1000000 / a)

/-- The largest of numbers. -/
def maxOf (xs : List Nat) : Nat := xs.foldl max 0

/-- BTI of a core from the counts of its eight oscillators: delay is inverse to the count. A stopped oscillator reads as the
largest drift.
DEDUCED, unsafe: notes/assumptions/76.md. -/
def btiOf (core : Nat) (counts : List Nat) : Nat :=
  maxOf ((List.range 8).map fun i =>
    if counts.getD i 0 = 0 then 0xFFFFFFFF else ppm (counts.getD i 0) (Config.oscRef core (Fin.ofNat 8 i)))

/-- EM of a core from the resistances of its four straps. -/
def emOf (core : Nat) (straps : List Nat) : Nat :=
  maxOf ((List.range 4).map fun i => ppm (Config.strapRef core (Fin.ofNat 4 i)) (straps.getD i 0))

/-- The remaining life that drifts show (01 R24). -/
def lifeOf (bti em : Nat) : Nat := 1000 - max (bti / 60) (em / 100)

/-- The state of a core by its life (01 R25), which moves forward only. -/
def CoreState.after (st : CoreState) (life : Nat) : CoreState :=
  let new : CoreState := if 200 ≤ life then .nominal else if 50 ≤ life then .derated else .drained
  if st.code < new.code then new else st

/-- Changes the state of a core: it is counted and the host is told (01 R26, R31; 04 R92). -/
def State.setCoreState (s : State) (c : Nat) (st : CoreState) (cause : Nat) : State :=
  let r := s.coreRec c
  if r.state = st then s
  else
    { s with wear := { s.wear with recs := aset s.wear.recs c { r with state := st, cause := cause },
                                   evt := satInc 0xFF s.wear.evt } }.postMbx 0x02 c (BitVec.ofNat 32 st.code)

/-! ## Wear charges (01 R27, R28) -/

/-- Adds the bits from n − 1 down to 0 to a root x of at most N / D. -/
def rootBits (num den : Nat) : Nat → Nat → Nat
  | 0, x => x
  | n + 1, x => rootBits num den n (if (x + 2 ^ n) ^ 10 * den ≤ num then x + 2 ^ n else x)

/-- The tenth root of a fraction, rounded down. -/
def tenthRoot (num den : Nat) : Nat := rootBits num den 80 0

/-- The part p / q of a sample's accrual in account units, rounded down: supply in mV, junction temperature in °C.
DEDUCED, unsafe: notes/assumptions/77.md. -/
def accrual (mv tj p q : Nat) : Nat :=
  tenthRoot ((2 ^ 63 * mv ^ 8 * p) ^ 10 * 2 ^ tj) ((750 ^ 8 * 10 ^ 12 * q) ^ 10 * 2 ^ 85)

/-- A 64-bit account after a charge whose rounding the spec leaves open (DESIGN CHOICE, safe: notes/assumptions/4.md).
DEDUCED, unsafe: notes/assumptions/77.md. -/
def State.charge (s : State) (old amount : Nat) : Nat × State :=
  let (d, s) := s.takeFree
  (min (2 ^ 64 - 1) (old + amount + d.toNat % 2), s)

/-- The contexts that issued on a core in the sample, with their bundles. -/
def Wear.issuers (x : Wear) (core : Nat) : List (Nat × Nat) :=
  (x.issued.filter fun p => p.1 / 256 = core).map fun p => (p.1 % 256, p.2)

/-- WEAR_ACCRUAL: a sample's accrual is divided among the contexts that issued on the core; that of idle cycles is charged to
none. -/
def State.chargeContexts (s : State) (core mv tj : Nat) : State :=
  let xs := s.wear.issuers core
  let total := (xs.map (·.2)).foldl (· + ·) 0
  let busy := min (2 ^ 31) (4 * (aget (0, 0) s.wear.busy core).2)
  let s := xs.foldl (fun s p =>
    let (v, s) := s.charge (s.ctx p.1).wear (accrual mv tj (busy * p.2) (2 ^ 31 * total))
    s.modCtx p.1 fun x => { x with wear := v }) s
  { s with wear := { s.wear with issued := afilter s.wear.issued fun k _ => k / 256 != core, busy := adel s.wear.busy core } }

/-- The record of a core after a sample, before its state is judged. -/
def State.sampleRecord (s : State) (core bti em mv tj : Nat) : State :=
  let r := s.coreRec core
  let (w, s) := s.charge r.wear (accrual mv tj 1 1)
  let r := { r with bti := bti, em := em, life := min r.life (lifeOf bti em), cycles := (r.cycles + 2 ^ 31) % 2 ^ 64, wear := w }
  { s with wear := { s.wear with recs := aset s.wear.recs core r } }

/-- No team is resident on a core.
DEDUCED, unsafe: notes/assumptions/78.md. -/
def State.coreEmpty (s : State) (core : Nat) : Bool := !(s.teams.any fun p => p.2.core == core)

/-- PATINA_SAMPLE: the monitors of a core are read: `words` holds the counts of the eight oscillators, the resistances of the four
straps, the supply in mV and the junction temperature in °C.
DEDUCED, unsafe: notes/assumptions/78.md. -/
def execPatinaSample (s : State) : Out :=
  let c := s.ev.core
  let ws := s.ev.words
  let mv := ws.getD 12 0
  let tj := ws.getD 13 0
  if (s.coreRec c).state = .retired then .next s
  else
    let old := (s.coreRec c).state
    let s := (s.chargeContexts c mv tj).sampleRecord c (btiOf c (ws.take 8)) (emOf c ((ws.drop 8).take 4)) mv tj
    let r := s.coreRec c
    .next (if old = .drained ∧ s.coreEmpty c then s.setCoreState c .retired 1 else s.setCoreState c (old.after r.life) r.cause)

/-! ## The lifetime record table (01 R29, R30) -/

/-- A record as bytes. -/
def CoreRec.bytes (r : CoreRec) (c : Nat) : List Byte :=
  natBytes 1 c ++ natBytes 1 r.state.code ++ natBytes 2 r.life ++ natBytes 4 r.bti ++ natBytes 4 r.em ++ natBytes 8 r.cycles
    ++ natBytes 8 r.wear ++ natBytes 1 r.cause ++ List.replicate 35 0

/-- The state that a number names. -/
def coreStateOf (n : Nat) : CoreState := if n = 0 then .nominal else if n = 1 then .derated else if n = 2 then .drained else .retired

/-- A record from its bytes. -/
def coreRecOf (bs : List Byte) : CoreRec :=
  { state := coreStateOf (leAt bs 1 1), life := leAt bs 2 2, bti := leAt bs 4 4, em := leAt bs 8 4, cycles := leAt bs 12 8,
    wear := leAt bs 20 8, cause := leAt bs 28 1 }

/-- Header and records of the table with a sequence number.
DEDUCED, unsafe: notes/assumptions/79.md. -/
def State.tableBody (s : State) (seq : Nat) : List Byte :=
  natBytes 4 0x5041544E ++ natBytes 4 1 ++ natBytes 8 seq ++ natBytes 4 160 ++ List.replicate 44 0
    ++ (List.range 160).flatMap fun c => (s.coreRec c).bytes c

/-- A body with the signature of the device identity key. -/
def signed (body : List Byte) : List Byte := body ++ (Config.deviceSign body).toList

/-- Writes the table: the sequence number rises, and the copies alternate. -/
def State.writeTable (s : State) : State :=
  let seq := (s.wear.seq + 1) % 2 ^ 64
  { s with wear := { s.wear with seq := seq, tables := aset s.wear.tables (seq % 2) (signed (s.tableBody seq)) } }

/-- LIFETIME_TABLE_WRITE. -/
def execLifetimeTableWrite (s : State) : Out := .next s.writeTable

/-- A stored copy whose signature over its first n bytes verifies. -/
def copyOk (n : Nat) (bs : List Byte) : Bool := Config.deviceVerify (bs.take n) (bs.drop n)

/-- The sequence number of a stored copy. -/
def copySeq (bs : List Byte) : Nat := leAt bs 8 8

/-- The newest valid copy of two, and whether a newer one was rejected. -/
def newestCopy (n : Nat) (m : AMap (List Byte)) : Option (List Byte × Bool) :=
  let cs := (m.map (·.2)).mergeSort fun a b => copySeq b ≤ copySeq a
  match cs with
  | [] => none
  | a :: r => if copyOk n a then some (a, false) else (r.find? (copyOk n)).map fun b => (b, true)

/-- The length of the table without its signature. -/
def tableLength : Nat := 64 + 64 * 160

/-- Loads the records of a table.
DEDUCED, unsafe: notes/assumptions/79.md. -/
def State.loadTable (s : State) (bs : List Byte) : State :=
  { s with wear := { s.wear with
      seq := copySeq bs
      recs := (List.range 160).foldl (fun m c => aset m c (coreRecOf ((bs.drop (64 + 64 * c)).take 64))) [] } }

/-- A core starts from a fresh sample (04 R100 step 9). -/
def freshRec (core : Nat) (ws : List Nat) (failed : Bool) : CoreRec :=
  let bti := btiOf core (ws.take 8)
  let em := emOf core ((ws.drop 8).take 4)
  { state := if failed then .retired else .nominal, life := lifeOf bti em, bti := bti, em := em, cause := if failed then 2 else 0 }

/-! ## Host wear registers (01 R31) -/

/-- Captures a core's record into the data registers; an index of 160 or more captures zeros. -/
def State.captureWear (s : State) (c : Nat) : State :=
  let r := s.coreRec c
  { s with wear := if c < 160 then { s.wear with core := r.word, bti := BitVec.ofNat 32 r.bti, em := BitVec.ofNat 32 r.em }
                   else { s.wear with core := 0, bti := 0, em := 0 } }

/-- IDX names a core, whose record is captured. -/
def State.selectWear (s : State) (c : Nat) : State :=
  let s := s.captureWear c
  { s with wear := { s.wear with idx := BitVec.ofNat 8 c } }

/-- PWEAR_IDX_WRITE. Until the start completes the data registers hold their reset values.
DEDUCED, unsafe: notes/assumptions/78.md. -/
def execPwearIdxWrite (s : State) : Out :=
  let c := s.ev.val.toNat % 256
  .next (if s.hub.step = 16 then s.selectWear c else { s with wear := { s.wear with idx := BitVec.ofNat 8 c } })

/-- PWEAR_EVT_READ. -/
def execPwearEvtRead (s : State) : Out :=
  let s := s.readBack (BitVec.ofNat 32 s.wear.evt)
  .next { s with wear := { s.wear with evt := 0 } }

end Sys2Proof.Machine
end

