-- ==== Sys2Proof/Machine/Boot.lean ====
section
/-!
DEFINITION. Machine/Boot.lean: firmware images and the measurement log (04 R98, R99), and the start record (R101, R102).
-/

namespace Sys2Proof.Machine

/-! ## The measurement log (04 R99) -/

/-- An entry of the log. -/
def logEntry (index comp inst slot result : Nat) (svn : Word) (digest : List Byte) : List Byte :=
  natBytes 4 index ++ natBytes 1 comp ++ natBytes 1 inst ++ natBytes 1 slot ++ natBytes 1 result ++ wordBytes svn
    ++ List.replicate 20 0 ++ digest

/-- MEASUREMENT_LOG_APPEND: an entry enters the log and LOGD is extended. The log holds 64 entries; a load that comes later leaves the
log and LOGD as they are.
DEDUCED, unsafe: notes/assumptions/80.md. -/
def State.logAppend (s : State) (comp inst slot result : Nat) (svn : Word) (digest : List Byte) : State :=
  if 64 ≤ s.hub.mlog.length then s
  else
    let e := logEntry s.hub.mlog.length comp inst slot result svn digest
    s.modHub fun h => { h with mlog := h.mlog ++ [e], logd := (Config.shake256 (h.logd ++ e)).toList }

/-! ## Loading an image (04 R98) -/

/-- The place of a slot of an image kind. -/
def imageKey (kind slot : Nat) : Nat := kind * 2 + slot

/-- The bytes in a slot. -/
def State.image (s : State) (kind slot : Nat) : List Byte := aget [] s.hub.images (imageKey kind slot)

/-- What the checks of an image give: 0 accepted, 1 signature failed, 2 SVN below the minimum. -/
def imageResult (img : List Byte) (min : Word) : Nat :=
  if !Config.firmwareVerify img then 1 else if Config.imageSvn img < min then 2 else 0

/-- One attempt to load an image from a slot. -/
def State.tryImage (s : State) (kind inst slot : Nat) : Bool × State :=
  let img := s.image kind slot
  let r := imageResult img (aget 0 s.hub.minSvn kind)
  (r == 0, s.logAppend kind inst slot r (Config.imageSvn img) (Config.shake256 (Config.imageBody img)).toList)

/-- A steward or the security controller leaves reset with code in its memory, and runs from its first packet.
DESIGN CHOICE, unsafe: notes/assumptions/16.md. -/
def State.bootCode (s : State) (sid : Nat) (code : List Byte) : State :=
  (s.modHub fun h =>
    { h with sram := aset h.sram sid (Memory.writeAll [] 0 (code.take 524288)), xvec := adel h.xvec sid }).setThread (stewRef sid) {}

/-- A steward leaves reset with an image.
DESIGN CHOICE, unsafe: notes/assumptions/16.md. -/
def State.bootSteward (s : State) (sid : Nat) (img : List Byte) : State := s.bootCode sid (Config.imageBody img)

/-- IMAGE_LOAD: an image is taken from the slot that last loaded, or else from the other. Kinds are those of COMP: 1 hub, 2 die,
3 Plinth.
DESIGN CHOICE, unsafe: notes/assumptions/16.md. -/
def State.loadImage (s : State) (kind inst sid : Nat) : Bool × State :=
  let a := aget 0 s.hub.lastSlot kind
  let ok (slot : Nat) (s : State) : State :=
    (s.modHub fun h => { h with lastSlot := aset h.lastSlot kind slot }).bootSteward sid (s.image kind slot)
  match s.tryImage kind inst a with
  | (true, s) => (true, ok a s)
  | (false, s) =>
    match s.tryImage kind inst (1 - a) with
    | (true, s) => (true, ok (1 - a) s)
    | (false, s) => (false, s)

/-- Loads the image of each of several instances; the answer names those that failed. -/
def State.loadImages (s : State) (kind : Nat) (sid : Nat → Nat) : List Nat → List Nat × State
  | [] => ([], s)
  | i :: is =>
    let (ok, s) := s.loadImage kind i (sid i)
    let (r, s) := s.loadImages kind sid is
    (if ok then r else i :: r, s)

/-! ## The start record (04 R101, R102) -/

/-- LEVEL of a part. -/
def levelAt (level part : Nat) : Nat := level / 4 ^ part % 4

/-- LEVEL with that of a part replaced. -/
def setLevel (level part n : Nat) : Nat := level - levelAt level part * 4 ^ part + n * 4 ^ part

/-- The next defined level of a step (04 R102). -/
def nextLevel (step level : Nat) : Nat :=
  if step = 2 ∨ step = 3 ∨ step = 4 ∨ step = 7 then 3
  else if step = 10 ∨ step = 14 then (if level = 0 then 1 else 3)
  else 0

/-- START_LEVEL_UPDATE: the levels for the next start. -/
def nextLevels (step : Nat) (e : StepRec) : Nat :=
  (setBits 32 e.fail.toNat).foldl (fun l p => setLevel l p (nextLevel step (levelAt e.level p))) e.level

/-- A step entry as bytes. -/
def stepBytes (step : Nat) (e : StepRec) : List Byte :=
  natBytes 1 step ++ natBytes 1 e.result ++ natBytes 1 (if e.result = 2 then satInc 0xFF e.streak else 0) ++ natBytes 1 0
    ++ wordBytes e.fail ++ natBytes 8 (nextLevels step e)

/-- Header and entries of the record of the start that ends. -/
def State.recordBody (s : State) : List Byte :=
  let h := s.hub
  natBytes 4 0x53545254 ++ natBytes 4 1 ++ natBytes 8 h.startSeq ++ natBytes 1 (if h.stopped = 0 ∧ !h.dead then 0 else 1)
    ++ natBytes 1 h.stopped ++ natBytes 1 (aget 0 h.lastSlot 1) ++ natBytes 1 h.cxlrate ++ List.replicate 44 0
    ++ (List.range 16).flatMap fun i => stepBytes (i + 1) (aget {} h.steps (i + 1))

/-- The length of a start record without its signature. -/
def recordLength : Nat := 64 + 16 * 16

/-- The newest valid start record. -/
def State.newestRecord (s : State) : Option (List Byte) := (newestCopy recordLength s.hub.records).map (·.1)

/-- An entry of a start record, as the next start takes it: nothing reached, with the levels recorded. -/
def entryOf (bs : List Byte) (step : Nat) : StepRec :=
  let e := (bs.drop (48 + 16 * step)).take 16
  { result := 3, streak := leAt e 2 1, fail := 0, level := leAt e 8 8 }

/-- The parts that a start record marks failed in a step. -/
def failedIn (bs : List Byte) (step : Nat) : Word := BitVec.ofNat 32 (leAt bs (48 + 16 * step + 4) 4)

/-- Levels after what CLRALT named (04 R102). -/
def clearLevels (cs : List (Nat × Word)) (step level : Nat) : Nat :=
  cs.foldl (fun l c => if c.1 = step then (setBits 32 c.2.toNat).foldl (fun l p => setLevel l p 0) l else l) level

/-- The step entries with which a start begins. -/
def State.firstEntries (s : State) : AMap StepRec :=
  (List.range 16).foldl (fun m i =>
    let e := match s.newestRecord with
      | some bs => entryOf bs (i + 1)
      | none => {}
    aset m (i + 1) { e with level := clearLevels s.hub.clralt (i + 1) e.level }) []

/-- The entry of a step in this start. -/
def State.stepRec (s : State) (step : Nat) : StepRec := aget {} s.hub.steps step

/-- The parts of a step that this start skips.
DEDUCED, unsafe: notes/assumptions/36.md.
DEDUCED, unsafe: notes/assumptions/82.md. -/
def State.leftOff (s : State) (step : Nat) : List Nat := (List.range 32).filter fun p => levelAt (s.stepRec step).level p = 3

/-- Notes that a step has completed: on its main path, on an alternate, or with failed parts. -/
def State.passed (s : State) (step : Nat) (alt : Bool) : State :=
  s.modHub fun h => { h with step := step, steps := amod {} h.steps step fun e =>
    { e with result := if e.fail ≠ 0 then 2 else if alt ∨ e.level ≠ 0 then 1 else 0 } }

/-- START_RECORD_SIGN: the record is signed and stored in the copy whose turn it is, READY is set unless the start has stopped, event 0x01 is posted, and core 0
is captured into the wear registers (01 R31). After an emergency every live context resumes from its Cast (05 R114). -/
def State.signRecord (s : State) : State :=
  let s := s.passed 16 false
  let ok := s.hub.stopped = 0 ∧ !s.hub.dead
  let s := s.modHub fun h =>
    { h with records := aset h.records h.nextCopy (signed s.recordBody), nextCopy := 1 - h.nextCopy, ready := ok, starting := false }
  let s := (s.postMbx 0x01 (if ok then 0 else 1) (BitVec.ofNat 32 s.hub.startSeq)).selectWear 0
  if ok ∧ s.power.resume then
    let cs := (s.ctxs.filter fun p => p.1 ≠ 0 ∧ p.2.state = .live).map (·.1)
    (s.modPower fun p => { p with resume := false }).prepend (cs.map fun c => event .ctxRestore { ctx := c, cause := 1 })
  else s

/-- A start that stops at a step still signs its record, with READY left at 0 (04 R100). -/
def State.stopStart (s : State) (step : Nat) : State := (s.modHub fun h => { h with stopped := step }).signRecord

/-! ## The begin of a start -/

/-- The fabric settings that SETFAB left for this start (04 R91). -/
def State.applyFabric (s : State) : State :=
  match s.hub.setfab with
  | none => s
  | some bs =>
    let x := leAt bs 0 2
    let routes := (List.range 1024).foldl (fun (m : AMap Route) i =>
      let b := leAt bs (2 + i) 1
      if b.testBit 5 then aset m i { valid := true, group := b % 32 }
      else if b % 32 ≠ 0 then aset m i { valid := false, group := b % 32 } else m) []
    { s with arm := { s.arm with topo := if x / 1024 % 4 = 3 then s.arm.topo else x / 1024 % 4, pkgid := x % 1024, routes := routes } }

/-- A start begins: what SETFAB and CLRALT left takes effect, its entries are those of the newest record, and context 0 draws a
fresh key (05 R104). -/
def State.beginStart (s : State) : State :=
  let es := s.firstEntries
  let off := s.hub.portsOff.filter fun p => !(s.hub.clralt.any fun c => c.1 = 14 ∧ c.2.getLsbD (p / 2))
  let s := s.applyFabric.modHub fun h =>
    { h with steps := es, clralt := [], setfab := none, portsOff := off, startSeq := (h.startSeq + 1) % 2 ^ 64, starting := true,
             ready := false, stopped := 0, step := 0 }
  let (k, s) := s.takeDraw
  s.modCtx 0 fun x => { x with state := .live, key := some k }

end Sys2Proof.Machine
end

