-- ==== Sys2Proof/Machine/Start.lean ====
section
/-!
DEFINITION. Machine/Start.lean: the start sequence after power-up, steps 9 to 16 (04 R100).
-/

namespace Sys2Proof.Machine

/-- LIFETIME_TABLE_LOAD: step 9. `words` of the event holds 12 monitor readings for each core, for a fresh sample when no copy of the
table verifies; the cores of a die that the newest start record marks failed at step 12 then start retired. With an older
copy the step has passed on its alternate; with fresh samples it has failed.
DESIGN CHOICE, unsafe: notes/assumptions/120.md. -/
def State.loadLifetime (s : State) : State :=
  match newestCopy tableLength s.wear.tables with
  | some (bs, older) => (s.loadTable bs).passed 9 older
  | none =>
    let bad : Word := match s.newestRecord with
      | some bs => failedIn bs 12
      | none => 0
    let recs := (List.range 160).foldl (fun m c =>
      aset m c (freshRec c ((s.ev.words.drop (12 * c)).take 12) (bad.getLsbD (c / 40)))) []
    ({ s with wear := { s.wear with recs := recs } }.stepFailed 9 0).passed 9 false

/-- The value of MTR_CTL that trains a stack at its level (03 R83). -/
def State.trainWord (s : State) (p : Nat) : Word := if levelAt (s.stepRec 10).level p = 0 then 0 else 0x20

/-- Step 10 begins: every live stack starts its first phase. -/
def State.beginTraining (s : State) : State :=
  (s.modHub fun h => { h with step := 10 }).prepend
    ((setBits 8 s.mem.live.toNat).map fun p => event .mtrCalibration { stack := p, val := s.trainWord p })

/-- No stack trains any more, and every live one has completed its last phase. -/
def State.trained (s : State) : Bool :=
  (setBits 8 s.mem.live.toNat).all fun p => !(s.mem.stack p).busy && (s.mem.stack p).lastph == 6

/-- Step 12: a core that fails its self-test is retired with CAUSE 2; a drained one, with CAUSE 1 (01 R26). -/
def State.selfTest (s : State) (failed : List Nat) : State :=
  (List.range 160).foldl (fun s c =>
    match (s.coreRec c).state with
    | .retired => s
    | .drained => s.setCoreState c .retired 1
    | _ => if failed.contains c then (s.setCoreState c .retired 2).stepFailed 12 (c / 40) else s) s

/-- A step without parts fails, and the start stops at it (04 R100). -/
def State.failStart (s : State) (step : Nat) : State := ((s.stepFailed step 0).passed step false).stopStart step

/-- Step 13: the tags of the L2s and the LLC, the word directory and the host-line filter are cleared. With the tags of the L2s goes what
the hub notes of their words of host memory. -/
def State.clearTags (s : State) : State :=
  (s.modMem fun m => { m with l2 := [], llc := [], dir := [] }).modHub fun h => { h with filter := [], hostdir := [] }

/-- Steps 15 and 16: the HDM decoder is committed with a size of 2^(36+k) bytes (04 R87), and CXL.mem, CXL.cache and the command
queues are enabled; or the start stops at step 15.
DESIGN CHOICE, safe: notes/assumptions/125.md. -/
def State.commit (s : State) (fails : Bool) : State :=
  if fails then s.failStart 15
  else ((s.modHub fun h => { h with hdm := true, hdmSize := 2 ^ (36 + s.mem.span) }).passed 15 false).signRecord

/-- The links that a route entry names (02 R45). An entry whose VALID a link that was left down has cleared still names it.
DEDUCED, safe: notes/assumptions/113.md. -/
def State.routedLinks (s : State) : List Nat :=
  ((s.arm.routes.filter fun p => p.2.names p.2.group && p.1 != s.arm.pkgid).map fun p => p.2.group).eraseDups

/-- Starts the training of a link at its level, or leaves it down. -/
def State.trainLink (s : State) (g : Nat) : State :=
  let l := levelAt (s.stepRec 14).level g
  if l = 3 ∨ (s.trainPorts g).isEmpty then s.clearRoutes g else s.startTraining g (if l = 0 then 3 else 2)

/-- Step 14 begins, only if the topology is not standalone. -/
def State.beginFabric (s : State) (fails : Bool) : State :=
  if s.arm.topo = 0 then s.commit fails
  else s.routedLinks.foldl (fun s g => s.trainLink g) (s.modHub fun h => { h with step := 14 })

/-- Steps 11 and on, after memory training: the stack map; without a live stack the start stops. -/
def State.afterTraining (s : State) : State :=
  let s := (s.passed 10 false).modMem MemSys.remap
  if s.mem.live = 0 then s.failStart 11 else (s.passed 11 false).modHub fun h => { h with step := 12 }

/-- START_STEP_COMPLETE: the step of the start that took time completes, and the steps up to the next such step run. `cause` 13 or 15
says that this step, which is among them, fails.
DESIGN CHOICE, safe: notes/assumptions/125.md. -/
def execStartStepComplete (s : State) : Out :=
  .next (if !s.hub.starting then s
    else match s.hub.step with
      | 9 => s.loadLifetime.beginTraining
      | 10 => if s.trained then s.afterTraining else s
      | 12 =>
        let s := (s.selfTest s.ev.words).passed 12 false
        if s.ev.cause = 13 then s.failStart 13 else (s.clearTags.passed 13 false).beginFabric (s.ev.cause == 15)
      | 14 => if s.arm.links.all fun p => p.2.step = 0 then (s.passed 14 false).commit (s.ev.cause == 15) else s
      | _ => s)

end Sys2Proof.Machine
end

