-- ==== Sys2Proof/Machine/Power.lean ====
section
/-!
DEFINITION. Machine/Power.lean: the power sequencer (01 R16 to R22), auxiliary power and the loss of power (04 R98; 05 R112).
-/

namespace Sys2Proof.Machine

/-! ## Fields of the sequencer's registers (01 R17) -/

/-- A register with a field replaced. -/
def putField (x : Word) (hi lo v : Nat) : Word :=
  BitVec.ofNat 32 (x.toNat - bitsOf x hi lo * 2 ^ lo + v % 2 ^ (hi + 1 - lo) * 2 ^ lo)

/-- PLN of a register. -/
def plnOf (x : Word) : Nat := bitsOf x 7 0

/-- DRAM of a register. -/
def dramOf (x : Word) : Nat := bitsOf x 15 8

/-- CORE of a register. -/
def coreRailOf (x : Word) : Nat := bitsOf x 19 16

/-- SER of a register. -/
def serOf (x : Word) : Nat := bitsOf x 23 20

/-- A mask of parts. -/
def partMask (ps : List Nat) : Nat := (maskOf ps).toNat

/-- A mask without parts. -/
def without (m : Nat) (ps : List Nat) : Nat := partMask ((setBits 32 m).filter fun p => !ps.contains p)

/-! ## Loss of what the dies hold -/

/-- What is gone when the rails of the dies and Plinths are off: threads, teams, launches, caches, queues and registers of dies and
Plinths. DRAM keeps its words; row indirection says where they stand. Contexts and the hub remain.
DEDUCED, unsafe: notes/assumptions/84.md. -/
def State.railsOff (s : State) : State :=
  { s with
    threads := afilter s.threads fun r _ => r == stewRef 0 || r == stewRef secSid
    teams := [], launches := [], scheds := [], cores := [], tlbs := [], faults := [], reqs := [], ops := [], bundles := []
    issue := {}
    mem := { s.mem with plinths := [], preds := [], rows := [], acts := [], swapq := [], patrol := [], skips := [], ckpt := [],
                        holds := [], parts := [], llc := [], dir := [], homeq := [], recalls := [], l2 := [], l1 := [],
                        kcache := [], klaunch := [], age := 0, vcs := [], writes := [], spad := [], tags := [] }
    arm := { s.arm with ports := [], links := [], waits := [], down := [] }
    hub := { s.hub with hdm := false, hdmSize := 0, ready := false, filter := [], snoops := [], hostdir := [], lines := [],
                        sram := afilter s.hub.sram fun k _ => k == 0 || k == secSid,
                        xvec := afilter s.hub.xvec fun k _ => k == 0 || k == secSid }
    wear := { s.wear with issued := [], busy := [] }
    ctxs := amap s.ctxs fun _ x => { x with build := none, built := none }
    power := { s.power with rail := 0, pgood := 0, rst := 0, plnReady := 0, dieReady := 0, refresh := true, hold := false } }

/-! ## Power-down (01 R21, R22) -/

/-- Every unit of pre-emption is to be saved (01 R21 step 2). -/
def State.saveAll (s : State) : State :=
  let us := s.units
  (us.foldl (fun s x => s.markSave x.1 x.2) s).prepend (us.map fun x => saveEvent x.1 x.2)

/-- The L2s and the LLC write every dirty word back (01 R21 step 3). -/
def State.flushAll (s : State) : State :=
  let s := (akeys s.mem.l2).foldl (fun s k => s.l2Evict (k / 2 ^ 46) (k % 2 ^ 46)) s
  (akeys s.mem.llc).foldl (fun s u => s.llcEvict u) s

/-- Step 6: the sequence ends. -/
def State.downEnds (s : State) : State :=
  s.modPower fun p =>
    let e := p.run == .emergency || p.pending
    { p with step := 6, cmd := 0, emerg := e, run := .none, pending := false, resume := e }

/-- A step of a power-down begins; steps 1, 5 and 6 do not wait. -/
def State.beginDown (s : State) (n : Nat) : State :=
  let s := s.modPower fun p => { p with step := BitVec.ofNat 5 n }
  match n with
  | 2 => s.saveAll
  | 3 => s
  | 4 => s.writeTable
  | _ => s.railsOff.downEnds

/-- A sequence starts: FAIL and FAILSTEP describe the last sequence.
DEDUCED, unsafe: notes/assumptions/81.md. -/
def Power.starts (p : Power) (run : PowerRun) : Power := { p with run := run, fail := false, failstep := 0, step := 1 }

/-- A start that is past power-up is stopped at its step.
DEDUCED, unsafe: notes/assumptions/83.md. -/
def State.cutStart (s : State) : State := if s.hub.starting then s.stopStart s.hub.step else s

/-- POWER_DOWN: a write of CMD = 0b10; ignored while a sequence runs. A start that is past power-up is stopped, the dispatchers stop
placing teams, and pre-emption begins.
DEDUCED, unsafe: notes/assumptions/83.md. -/
def execPowerDown (s : State) : Out :=
  if s.power.run ≠ .none then .next s
  else .next ((s.cutStart.modPower fun p => { p.starts .down with cmd := 2, hold := true }).beginDown 2)

/-- The step of a power-down that waits has come to its end. -/
def State.downDone (s : State) (n : Nat) : Bool :=
  match n with
  | 2 => s.teams.isEmpty
  | 3 => s.mem.writes.isEmpty
  | _ => true

/-- The step after one of a power-down: an emergency skips to step 4 (01 R18). -/
def State.downNext (s : State) (n : Nat) : Nat := if s.power.pending ∧ n < 4 then 4 else n + 1

/-- POWER_DOWN_STEP_DONE. -/
def execPowerDownStepDone (s : State) : Out :=
  let n := s.power.step.toNat
  if (s.power.run ≠ .down ∧ s.power.run ≠ .emergency) ∨ !s.downDone n then .next s
  else
    let s := if n = 3 then s.flushAll else s
    .next (s.beginDown (s.downNext n))

/-- An emergency power-down runs from step 4 (01 R22). -/
def State.beginEmergency (s : State) : State :=
  (s.modPower fun p => { p with run := .emergency, pending := false }).beginDown 4

/-- An emergency (01 R16, R18): it waits for the step boundary of a running sequence. A start that is past power-up is stopped at
its step.
DEDUCED, unsafe: notes/assumptions/83.md. -/
def State.emergency (s : State) : State :=
  match s.power.run with
  | .emergency => s
  | .none => (s.cutStart.modPower fun p => p.starts .emergency).beginEmergency
  | _ => s.modPower fun p => { p with pending := true }

/-- JUNCTION_OVERTEMP: a junction sensor reads `val` °C, 105 or more. -/
def execJunctionOvertemp (s : State) : Out :=
  let t := s.ev.val.toNat % 256
  if t < 105 then .next s
  else .next (s.modPower fun p => { p with tmax := BitVec.ofNat 8 (max p.tmax.toNat t) }).emergency

/-- FLOW_LOW_EXPIRY: the flow sensor has read `val` hundredths of L/min, less than 3.0, for 256 hub clocks. -/
def execFlowLowExpiry (s : State) : Out :=
  if 300 ≤ s.ev.val.toNat then .next s
  else .next (s.modPower fun p => { p with flow := s.ev.val.setWidth 16 }).emergency

/-! ## Power-up (01 R20) -/

/-- The sequence ends. -/
def State.upEnds (s : State) : State := s.modPower fun p => { p with cmd := 0, run := .none, pending := false }

/-- A step fails for parts (01 R20). -/
def State.upFails (s : State) (n : Nat) (ps : List Nat) : State :=
  ps.foldl (fun s p => s.stepFailed n p) (s.modPower fun p => { p with fail := true, failstep := BitVec.ofNat 8 n })

/-- Parts that failed are removed. -/
def State.removeParts (s : State) (n : Nat) (ps : List Nat) : State :=
  let r := s.power.rail
  if n = 7 then s.modPower fun p => { p with rail := putField r 23 20 (without (serOf r) ps) }
  else
    (s.modPower fun p =>
      { p with rail := putField (putField r 7 0 (without (plnOf r) ps)) 15 8 (without (dramOf r) ps),
               rst := putField p.rst 7 0 (without (plnOf p.rst) ps) }).modMem
      fun m => { m with live := BitVec.ofNat 8 (without m.live.toNat ps) }

/-- The power-up ends at a failed step, and with it the start. -/
def State.stopUp (s : State) (n : Nat) : State := (s.upEnds).stopStart n

/-- The stacks that a start leaves off: those whose level says so at step 2, 3, 4 or 10.
DEDUCED, unsafe: notes/assumptions/82.md. -/
def State.stacksOff (s : State) : List Nat := s.leftOff 2 ++ s.leftOff 3 ++ s.leftOff 4 ++ s.leftOff 10

/-- The register writes of a step of the power-up. The release of the Plinths and of the compute dies loads their images (04
R98). -/
def State.beginUp (s : State) (n : Nat) : State :=
  let s := (s.modPower fun p => { p with step := BitVec.ofNat 5 n }).modHub fun h => { h with step := n }
  let r := s.power.rail
  match n with
  | 2 =>
    let m := without 0xFF s.stacksOff
    (s.modPower fun p => { p with rail := putField r 7 0 m }).modMem fun x => { x with live := BitVec.ofNat 8 m }
  | 3 =>
    let s := (s.modPower fun p => { p with rst := putField p.rst 7 0 (plnOf r), plnReady := 0 }).modMem
      fun m => { m with plinths := afilter m.plinths fun k _ => !(plnOf r).testBit k }
    let (bad, s) := s.loadImages 3 (8 + ·) (setBits 8 (plnOf r))
    if bad.isEmpty then s else (s.upFails 3 bad).removeParts 3 bad
  | 4 => s.modPower fun p => { p with rail := putField r 15 8 (plnOf r), refresh := false }
  | 5 => s.modPower fun p => { p with rail := putField r 19 16 0xF }
  | 6 =>
    let s := { s.modPower fun p => { p with rst := putField p.rst 19 16 0xF, dieReady := 0 } with cyc := 0 }
    let (bad, s) := s.loadImages 2 (1 + ·) (List.range 4)
    if bad.isEmpty then s else (s.upFails 6 bad).stopUp 6
  | 7 => s.modPower fun p => { p with rail := putField r 23 20 (without 0xF (s.leftOff 7)) }
  | 8 =>
    ((s.modPower fun p => { p with rst := putField p.rst 23 20 (serOf r) }).upEnds.passed 8 false).modHub
      fun h => { h with step := 9 }
  | _ => s

/-- POWER_UP: a write of CMD = 0b01; ignored while a sequence runs, and without a hub image (04 R98).
DEDUCED, unsafe: notes/assumptions/86.md. -/
def execPowerUp (s : State) : Out :=
  if s.power.run ≠ .none ∨ s.hub.dead then .next s
  else .next ((s.beginStart.modPower fun p => { p.starts .up with cmd := 1 }).beginUp 1)

/-- What the step that runs waits for, as the hub reads it: PSEQ_COOL, PSEQ_PGOOD, or the ready statuses of stewards. -/
def State.report (s : State) (n : Nat) (v : Word) : State :=
  s.modPower fun p =>
    match n with
    | 1 => { p with tmax := BitVec.ofNat 8 (bitsOf v 31 24), flow := BitVec.ofNat 16 (bitsOf v 15 0) }
    | 3 => { p with plnReady := BitVec.ofNat 8 (bitsOf v 7 0) }
    | 6 => { p with dieReady := BitVec.ofNat 4 (bitsOf v 3 0) }
    | _ => { p with pgood := v &&& 0x00FFFFFF }

/-- The parts for which the step that runs still waits. -/
def State.lacking (s : State) (n : Nat) : List Nat :=
  let p := s.power
  let less (want have' : Nat) : List Nat := (setBits 8 want).filter fun i => !have'.testBit i
  match n with
  | 1 => if 400 ≤ p.flow.toNat ∧ p.tmax.toNat ≤ 60 then [] else [0]
  | 2 => less (plnOf p.rail) (plnOf p.pgood)
  | 3 => less (plnOf p.rst) p.plnReady.toNat
  | 4 => less (dramOf p.rail) (dramOf p.pgood)
  | 5 => less (coreRailOf p.rail) (coreRailOf p.pgood)
  | 6 => less (coreRailOf p.rst) p.dieReady.toNat
  | 7 => less (serOf p.rail) (serOf p.pgood)
  | _ => []

/-- The alternate that a step ran on (01 R20). -/
def State.upAlternate (s : State) (n : Nat) : Bool :=
  (n == 2 || n == 3 || n == 4) && !s.stacksOff.isEmpty || n == 7 && !(s.leftOff 7).isEmpty

/-- A step of the power-up has completed: an emergency that waits ends the start here; otherwise the next step begins.
DEDUCED, unsafe: notes/assumptions/83.md. -/
def State.upStepEnds (s : State) (n : Nat) : State :=
  let s := s.passed n (s.upAlternate n)
  if s.power.pending then (s.stopUp n).beginEmergency
  else s.beginUp (n + 1)

/-- POWER_UP_STEP_DONE: the hub reads `val` for the step that runs; when nothing is lacking, the step completes. -/
def execPowerUpStepDone (s : State) : Out :=
  let n := s.power.step.toNat
  if s.power.run ≠ .up then .next s
  else
    let s := s.report n s.ev.val
    .next (if (s.lacking n).isEmpty then s.upStepEnds n else s)

/-- POWER_UP_STEP_LIMIT: the step that runs reaches its limit with the reading `val`: the parts that are lacking have failed.
Steps 1, 5 and 6 stop the start. -/
def execPowerUpStepLimit (s : State) : Out :=
  let n := s.power.step.toNat
  if s.power.run ≠ .up then .next s
  else
    let s := s.report n s.ev.val
    let bad := s.lacking n
    .next (if bad.isEmpty then s.upStepEnds n
      else
        let s := s.upFails n bad
        if n = 1 ∨ n = 5 ∨ n = 6 then
          (if s.power.pending then (s.stopUp n).beginEmergency else s.stopUp n)
        else (s.removeParts n bad).upStepEnds n)

/-! ## Auxiliary power and its loss -/

/-- What the hub's non-volatile store and fuses keep (04 R98, R101; 01 R29).
DEDUCED, unsafe: notes/assumptions/84.md. -/
def Hub.kept (h : Hub) : Hub :=
  { images := h.images, lastSlot := h.lastSlot, minSvn := h.minSvn, records := h.records, startSeq := h.startSeq,
    nextCopy := h.nextCopy,
    clralt := h.clralt, setfab := h.setfab, portsOff := h.portsOff }

/-- A context as the hub's non-volatile store and its Cast keep it: a live context keeps its key, its table and its buffers. -/
def Ctx.kept (x : Ctx) : Ctx :=
  { state := .live, ptroot := x.ptroot, bufa := x.bufa, bufb := x.bufb, buflen := x.buflen, cur := x.cur, valid := x.valid,
    seq := x.seq, wear := x.wear, key := x.key, works := x.works, reps := x.reps }

/-- POWER_LOSS (05 R112): everything volatile is gone; the next start resumes the live contexts from their Casts. -/
def execPowerLoss (s : State) : Out :=
  let s := s.railsOff
  .next { s with
    threads := [], agenda := [], cyc := 0, hub := s.hub.kept, ctxregs := {}
    arm := {}, power := { resume := true, refresh := true }
    wear := { tables := s.wear.tables, seq := s.wear.seq }
    ctxs := amap (afilter s.ctxs fun c x => c == 0 || x.state == .live) fun _ x => x.kept }

/-- AUXILIARY_POWER_ON (04 R86, R97 to R99): the hub comes alive and the security controller runs its ROM, the measurement log starts
with the ROM's entry, the hub image is loaded, and the host link comes up at the rate that `val` names (0 64 GT/s, 1 32 GT/s). Without
a hub image the start stops before step 1: it is a start like any other, with its number and the levels of the record before it (R101,
R102).
DEDUCED, unsafe: notes/assumptions/86.md. -/
def execAuxiliaryPowerOn (s : State) : Out :=
  let v := s.ev.val
  let s := (s.modHub fun h => { h.kept with cxlrate := v.toNat % 2 }).bootCode secSid Config.romCode
  let s := s.logAppend 0 0 0 0 0 Config.romDigest.toList
  let (ok, s) := s.loadImage 1 0 0
  .next (if ok then s else (s.beginStart.modHub fun h => { h with dead := true }).stopStart 0)

end Sys2Proof.Machine
end

