-- ==== Sys2Proof/Machine/Hub.lean ====
section
/-!
DEFINITION. Machine/Hub.lean: host accesses to memory (04 R87 to R89; 05 R108), the mailbox (04 R90 to R92, R103; 05 R117) and the
command queues (04 R93 to R96).
-/

namespace Sys2Proof.Machine

/-! ## CXL.mem (04 R87, R88; 05 R108) -/

/-- The 16 words of a 64-byte line. -/
def lineWords (line : Nat) : List Nat := (List.range 16).map (line * 16 + ·)

/-- Whether an access of the host to a word has to wait: for a recall, for the copies of other packages, or with a write for the copy
of a page of a build (05 R111). The host's own line is no reason. -/
def State.hostHold (s : State) (kid w : Nat) (write : Bool) (e : Event) : Option State :=
  match s.waitAt w e with
  | some s => some s
  | none =>
    match s.remoteHolders w write none with
    | [] => if write then s.copyHold kid w e else none
    | ps => some (s.recallWait w ps e)

/-- The first word of several that has to wait. -/
def State.hostHolds (s : State) (kid : Nat) (write : Bool) (e : Event) (ws : List Nat) : Option State :=
  ws.findSome? fun w => s.hostHold kid w write e

/-- The host's context is live. -/
def State.hostLive (s : State) : Bool := (s.ctx s.ctxregs.hostkid).state == .live

/-- An access at or above the mapped range writes an error record (03 R53).
DEDUCED, unsafe: notes/assumptions/95.md. -/
def State.hostUnbacked (s : State) (line : Nat) : State :=
  if backed s.mem.span (line * 16) then s else s.errRecord s.ctxregs.hostkid 0 4 0xFFFFFFFF (BitVec.ofNat 64 (line * 64))

/-- The line that a full filter back-invalidates before it admits another: the least recently used (04 R88). -/
def Hub.filterVictim (h : Hub) (line : Nat) : Option Nat :=
  if ahas h.filter line ∨ h.filter.length < 2 ^ 20 then none
  else (h.filter.foldl (fun (b : Option (Nat × Nat)) p =>
    match b with
    | none => some p
    | some q => if p.2 < q.2 then some p else b) none).map (·.1)

/-- The host may cache a line from now on. -/
def State.admitLine (s : State) (line : Nat) : State :=
  s.tick.modHub fun h => { h with filter := aset h.filter line s.mem.age }

/-- Reads words for the host. -/
def State.hostWords (s : State) (kid : Nat) (accepted : Bool := false) : List Nat → List (Word × Bool) × State
  | [] => ([], s)
  | w :: ws =>
    let (d, psn, s) := (s.applyAll 4).plinthRead kid w accepted
    let (r, s) := s.hostWords kid accepted ws
    ((d, psn) :: r, s)

/-- The key id of a host access: the one under which it was accepted, when it has waited since (05 R108, R109). -/
def EvArgs.hostKid (e : EvArgs) (s : State) : Nat := if e.cause = 1 then e.kid else s.ctxregs.hostkid

/-- A host access whose home takes it in: the key id is live, or the access was accepted before its context began to be
destroyed (05 R109). -/
def EvArgs.hostLive (e : EvArgs) (s : State) : Bool := e.cause == 1 || s.hostLive

/-- The host access that is being executed, accepted and to be tried again. -/
def State.hostAgain (s : State) (op : Instr) : Event := { op := op, arg := { s.ev with kid := s.ev.hostKid s, cause := 1 } }

/-- What the host receives: a line that holds a poisoned word is poisoned as a whole. -/
def State.giveLine (s : State) (ws : List (Word × Bool)) : State :=
  s.modHub fun h => { h with line := wordsBytes (ws.map (·.1)), linePsn := ws.any (·.2) }

/-- HOST_MEM_READ of the line at byte `off`: sixteen word reads under CTX_HOSTKID.
DEDUCED, unsafe: notes/assumptions/90.md. -/
def execHostMemRead (s : State) : Out :=
  let line := s.ev.off / 64
  let e := s.hostAgain .hostMemRead
  .next (if !s.hub.hdm then s
    else if !s.ev.hostLive s then s.giveLine ((lineWords line).map fun _ => (0, true))
    else
      match s.hub.filterVictim line with
      | some v => s.snoopLine v e
      | none =>
        match s.hostHolds e.arg.kid false e (lineWords line) with
        | some s => s
        | none =>
          let (ws, s) := (s.hostUnbacked line).hostWords e.arg.kid true (lineWords line)
          (s.giveLine ws).admitLine line)

/-- Writes the words of a line for the host, stamped by the hub. -/
def State.hostWrites (s : State) (kid line : Nat) (bs : List Byte) (be : BitVec 64) (psn : Bool) : State :=
  (List.range 16).foldl (fun s i =>
    let w := line * 16 + i
    let d : Word := BitVec.ofNat 32 (leAt bs (4 * i) 4)
    if s.serves kid w then (s.copyFirst kid w).homeWriteBy 4 kid w d (BitVec.ofNat 4 (be.toNat / 2 ^ (4 * i))) psn true else s) s

/-- HOST_MEM_WRITE of the line at byte `off`: `bytes` under the byte enables `be`; `keep` is the poison of the transfer.
DEDUCED, unsafe: notes/assumptions/90.md. -/
def execHostMemWrite (s : State) : Out :=
  let line := s.ev.off / 64
  let e := s.hostAgain .hostMemWrite
  .next (if !s.hub.hdm ∨ !s.ev.hostLive s then s
    else
      match s.hostHolds e.arg.kid true e (lineWords line) with
      | some s => s
      | none => (s.hostUnbacked line).hostWrites e.arg.kid line s.ev.bytes s.ev.be s.ev.keep)

/-- Every die's copy of the words of a line of host memory is recalled (04 R89). -/
def State.recallLine (s : State) (line : Nat) : State :=
  (lineWords line).foldl (fun s w => (List.range 4).foldl (fun s d => s.hostRecall d w) s) s

/-- The hub gives a line of host memory up, with what it has of the line. -/
def State.yieldLine (s : State) (line : Nat) : State :=
  s.modHub fun h =>
    { h with hostdir := afilter h.hostdir fun w _ => w / 16 != line, lines := adel h.lines line,
             line := s.mem.hostmem.readAll (64 * line) 64, linePsn := (lineWords line).any fun w => ahas s.mem.hostbad w }

/-- The host changes a line of its memory. -/
def MemSys.hostLine (m : MemSys) (line : Nat) (bs : List Byte) : MemSys :=
  { m with hostmem := m.hostmem.writeAll (64 * line) (bs.take 64), hostbad := afilter m.hostbad fun w _ => w / 16 != line }

/-- HOST_SNOOP (04 R89) of the line of host memory at byte `off`: every die copy is recalled, and the hub responds with the line.
`bytes` is the line as the host then has it, when the host changes it.
DEDUCED, safe: notes/assumptions/107.md. -/
def execHostSnoop (s : State) : Out :=
  let line := s.ev.off / 64
  let s := (s.recallLine line).yieldLine line
  .next (if s.ev.bytes.isEmpty then s else s.modMem fun m => m.hostLine line s.ev.bytes)

/-- BIRSP: the reply for line `w` lets go on what waited for it. -/
def execBirsp (s : State) : Out :=
  let es := aget [] s.hub.snoops s.ev.w
  .next ((s.modHub fun h => { h with snoops := adel h.snoops s.ev.w }).prepend es)

/-! ## The mailbox (04 R90, R91) -/

/-- Input bytes of a command.
DEDUCED, unsafe: notes/assumptions/87.md. -/
def Hub.input (h : Hub) : List Byte := h.buf.readAll 0 (min h.len 4096)

/-- A command ends: its result, and its output in the payload buffer. -/
def State.mbxDone (s : State) (result : Nat) (out : List Byte) : State :=
  let s := s.modHub fun h =>
    { h with busy := false, result := BitVec.ofNat 8 result, outlen := min out.length 4096, buf := h.buf.writeAll 0 (out.take 4096) }
  if s.hub.irqen then s.interrupt 0 else s

/-- Runs a command that has been started: an input that is too short is a bad argument.
DEDUCED, unsafe: notes/assumptions/87.md. -/
def mailbox (needsReady : Bool) (len : Nat) (k : List Byte → State → State) (s : State) : Out :=
  let bs := s.hub.input
  .next (if !s.hub.busy then s
    else if needsReady && !s.hub.ready then s.mbxDone 3 []
    else if bs.length < len then s.mbxDone 2 []
    else k bs s)

/-- IDENT. -/
def execIdent (s : State) : Out := mailbox false 0 (fun _ s => s.mbxDone 0 (Config.identBytes.take Config.bufBytes)) s

/-- A stored start record with its signature (04 R101): the newest, or with `back` 1 the one before it; nothing when there is none. -/
def State.startRecord (s : State) (back : Nat) : List Byte := aget [] s.hub.records ((s.hub.nextCopy + 1 + back) % 2)

/-- The newest stored start record. -/
def State.currentRecord (s : State) : List Byte := s.startRecord 0

/-- The number of retired cores. -/
def State.retiredCores (s : State) : Nat := ((List.range 160).filter fun c => (s.coreRec c).state = .retired).length

/-- The report of ATTEST without its signature (04 R103). -/
def State.attestBody (s : State) (nonce : List Byte) : List Byte :=
  natBytes 4 0x41545354 ++ natBytes 4 1 ++ nonce ++ s.hub.logd ++ natBytes 8 s.hub.startSeq ++ natBytes 8 s.wear.seq
    ++ (Config.shake256 s.currentRecord).toList ++ [s.mem.live, BitVec.ofNat 8 s.retiredCores, 0, 0]

/-- ATTEST. -/
def execAttest (s : State) : Out := mailbox true 32 (fun bs s => s.mbxDone 0 (signed (s.attestBody (bs.take 32)))) s

/-- GETLOG: the measurement log from a byte offset. -/
def execGetlog (s : State) : Out :=
  mailbox false 4 (fun bs s =>
    let log := s.hub.mlog.flatten
    let o := leAt bs 0 4
    if log.length < o then s.mbxDone 2 [] else s.mbxDone 0 ((log.drop o).take 4096)) s

/-- GETREC: the current record or the one before it. -/
def execGetrec (s : State) : Out :=
  mailbox false 1 (fun bs s =>
    match leAt bs 0 1 with
    | 0 => s.mbxDone 0 s.currentRecord
    | 1 => s.mbxDone 0 (s.startRecord 1)
    | _ => s.mbxDone 2 []) s

/-- CLRALT: takes effect at the next start. -/
def execClralt (s : State) : Out :=
  mailbox false 5 (fun bs s =>
    let n := leAt bs 0 1
    if n = 0 ∨ 16 < n then s.mbxDone 2 []
    else (s.modHub fun h => { h with clralt := h.clralt ++ [(n, BitVec.ofNat 32 (leAt bs 1 4))] }).mbxDone 0 []) s

/-- SETFAB: takes effect at the next start. -/
def execSetfab (s : State) : Out :=
  mailbox false 1026 (fun bs s => (s.modHub fun h => { h with setfab := some (bs.take 1026) }).mbxDone 0 []) s

/-- An image number of the commands: that of COMP.
DEDUCED, unsafe: notes/assumptions/80.md. -/
def imageOk (k : Nat) : Bool := decide (1 ≤ k ∧ k ≤ 3)

/-- Bytes with others written over them from an offset. -/
def overwrite (old : List Byte) (o : Nat) (bs : List Byte) : List Byte :=
  (old ++ List.replicate (o - old.length) 0).take o ++ bs ++ old.drop (o + bs.length)

/-- FWWRITE: writes into the slot of the image that did not load last.
DEDUCED, unsafe: notes/assumptions/80.md. -/
def execFwwrite (s : State) : Out :=
  mailbox false 5 (fun bs s =>
    let k := leAt bs 0 1
    let o := leAt bs 1 4
    let d := bs.drop 5
    if !imageOk k ∨ 4080 < d.length ∨ 524288 < o + d.length then s.mbxDone 2 []
    else
      let slot := imageKey k (1 - aget 0 s.hub.lastSlot k)
      (s.modHub fun h => { h with images := amod [] h.images slot fun old => overwrite old o d }).mbxDone 0 []) s

/-- RAISESVN: never lowers. -/
def execRaisesvn (s : State) : Out :=
  mailbox true 5 (fun bs s =>
    let k := leAt bs 0 1
    let v : Word := BitVec.ofNat 32 (leAt bs 1 4)
    if !imageOk k ∨ v < aget 0 s.hub.minSvn k then s.mbxDone 2 []
    else (s.modHub fun h => { h with minSvn := aset h.minSvn k v }).mbxDone 0 []) s

/-- The state of a context as CTX_CTL shows it (05 R105). -/
def CtxState.code : CtxState → Nat
  | .free => 0
  | .live => 1
  | .destroying => 2
  | .restoring => 3

/-- The bytes of the list pages of the committed Cast of a context. -/
def State.castList (s : State) (c : Nat) : List Byte × State :=
  let w := (s.ctx c).buffer (s.ctx c).cur * 16384
  let (n, _, s) := s.plinthRead c (w + 2)
  let (ws, s) := s.hostWords c false ((List.range (min (listPages n.toNat) (s.ctx c).buflen * 16384)).map (w + ·))
  (wordsBytes (ws.map (·.1)), s)

/-- CTXREP (05 R117). -/
def execCtxrep (s : State) : Out :=
  mailbox true 33 (fun bs s =>
    let c := leAt bs 0 1
    let x := s.ctx c
    if c = 0 then s.mbxDone 2 []
    else
      let (dig, s) := if x.valid then
          let (l, s) := s.castList c
          ((Config.shake256 l).toList, s)
        else (List.replicate 64 0, s)
      s.mbxDone 0 (signed (natBytes 4 0x43585250 ++ natBytes 4 1 ++ (bs.drop 1).take 32 ++ natBytes 1 c
        ++ natBytes 1 x.state.code ++ [0, 0] ++ wordBytes x.castWord ++ List.replicate 8 0 ++ s.hub.logd ++ dig))) s

/-- MBX_EVT_HI_READ: the oldest event is popped and its argument latched. -/
def execMbxEvtHiRead (s : State) : Out :=
  let h := s.hub
  let o := if h.evovf then 2 ^ 30 else 0
  .next (match h.evq with
    | [] => (s.readBack (BitVec.ofNat 32 o)).modHub fun h => { h with evtlo := 0, evovf := false }
    | (code, src, arg) :: rest =>
      (s.readBack (BitVec.ofNat 32 (2 ^ 31 + o + code % 256 * 65536 + src % 65536))).modHub fun h =>
        { h with evq := rest, evtlo := arg, evovf := false })

/-! ## Command queues (04 R93 to R96) -/

/-- Changes a queue. -/
def State.modCq (s : State) (q : Nat) (f : CmdQueue → CmdQueue) : State :=
  s.modHub fun h => { h with cqs := amod {} h.cqs q f }

/-- A queue's turn is over: HEAD advances past an entry, and the queue's vector is raised (04 R86).
DESIGN CHOICE, safe: notes/assumptions/89.md. -/
def State.cqAdvance (s : State) (q : Nat) : State :=
  (s.modCq q fun c => { c with head := BitVec.ofNat 32 (c.next) }).interrupt (q + 1)

/-- An entry is rejected: BADENT is set, and the context, unless it is free, receives a record of KIND 6.
DEDUCED, unsafe: notes/assumptions/88.md. -/
def State.cqReject (s : State) (q : Nat) (c : CmdQueue) : State :=
  let s := (s.modCq q fun c => { c with badent := true }).cqAdvance q
  if (s.ctx c.ctx).state = .free then s else s.errRecord c.ctx 0 6 0xFFFFFFFF (BitVec.ofNat 64 c.entryAddr)

/-- What the hub makes of an entry (04 R94, R95). -/
inductive CqEntry where
  | bad | nop
  | submit (lrec : Dword)
  deriving DecidableEq, Repr

/-- The checks of an entry that is read as 16 words. -/
def cqEntry (ws : List (Word × Bool)) : CqEntry :=
  let bs := wordsBytes (ws.map (·.1))
  let lrec : Dword := BitVec.ofNat 64 (leAt bs 0 8)
  if ws.any (·.2) ∨ leAt bs 9 55 ≠ 0 ∨ 1 < leAt bs 8 1 then .bad
  else if leAt bs 8 1 = 0 then .nop
  else if !canonical lrec ∨ lrec.toNat % 256 ≠ 0 then .bad
  else .submit lrec

/-- How a read of a record for the host went. -/
inductive CqRead where
  | ok (rec' consts : List Word)
  | waits
  | bad
  deriving Repr

/-- Reads consecutive words in a context for the hub.
DESIGN CHOICE, safe: notes/assumptions/119.md. -/
def State.cqWords (s : State) (g : Site) (e : Event) (va n : Nat) : CqRead × State :=
  match s.engineLocs g false va n with
  | (.error (.held w, _), s) => (.waits, s.awaitWord w e)
  | (.error (.fault _, _), s) => (.bad, s)
  | (.ok ls, s) =>
    match s.engineHolds g false e ls with
    | some s => (.waits, s)
    | none =>
      let s := match ls.findIdx? fun x => x == Loc.none with
        | some i => s.errRecord g.ctx 0 4 0xFFFFFFFF (BitVec.ofNat 64 (va + 4 * i))
        | none => s
      let (ws, s) := s.engineReads g .normal 0 ls
      if ws.any (·.2) then (.bad, s) else (.ok (ws.map (·.1)) [], s)

/-- Reads a launch record and the constant block that its KCONST names; the block of a record whose KCONST is misaligned is not
read. -/
def State.cqRecord (s : State) (g : Site) (e : Event) (lrec : Dword) : CqRead × State :=
  match s.cqWords g e (lrec.toNat % 2 ^ 57) 64 with
  | (.ok ws _, s) =>
    let k := (launchRecOf ws).kconst
    if !aligned k 64 then (.ok ws [], s)
    else if !canonical k then (.bad, s)
    else
      match s.cqWords g e (k.toNat % 2 ^ 57) 64 with
      | (.ok ks _, s) => (.ok ws ks, s)
      | r => r
  | r => r

/-- A free entry that was granted to a host queue and not taken is granted again (06 R123). -/
def State.regrant (s : State) (die : Nat) : State := if s.ev.keep then s.grantEntry die else s

/-- A submission that has been read enters the store, or is rejected as malformed (06 R119). It takes a grant where a parked thread
waits too (R123). -/
def State.cqEnter (s : State) (q : Nat) (c : CmdQueue) (lrec : Dword) (ws ks : List Word) : State :=
  let l : Launch := { die := c.die, ctx := c.ctx, rc := launchRecOf ws, k := constsOf ks, entered := 0, addr := lrec }
  let s := s.cqAdvance q
  if s.launchBad ws then
    let (e, s) := s.reject l 0xFFFFFFFF
    (s.regrant c.die).prepend [e]
  else
    let (e, s) := s.enterStore l
    ((s.modSched c.die fun x => { x with lastHost := x.lastHost || !x.parked.isEmpty }).grantEntry c.die).prepend [e]

/-- The hub takes a queue's turn. A queue is skipped when it is not enabled, is empty, its context is being restored, or its store is
full; then `k` acts on the entry.
DEDUCED, unsafe: notes/assumptions/88.md. -/
def State.cqTurn (s : State) (q : Nat) (e : Event) (k : CmdQueue → CqEntry → State → State) : State :=
  let c := aget {} s.hub.cqs q
  if !s.hub.hdm ∨ !c.waiting then s.regrant c.die
  else
    let s := s.modHub fun h => { h with turn := (q + 1) % 16 }
    if (s.ctx c.ctx).state = .restoring ∨ 4096 ≤ s.storeUsed c.die then s.regrant c.die
    else if (s.ctx c.ctx).state ≠ .live then k c .bad s
    else
      let ws := (List.range 16).map (c.entryAddr / 4 + ·)
      match ws.findSome? fun w => s.readHold 4 w e with
      | some s => s
      | none =>
        let (xs, s) := s.hostWords c.ctx false ws
        k c (cqEntry xs) s

/-- CQ_NOP: a no-operation entry is passed over. -/
def execCqNop (s : State) : Out :=
  let q := s.ev.queue
  .next (s.cqTurn q (s.again .cqNop) fun c x s =>
    match x with
    | .nop => (s.cqAdvance q).regrant c.die
    | _ => s)

/-- Where the hub works for a queue: the engine TLB of the first core of the die whose store the queue feeds, and that die's L2.
DESIGN CHOICE, safe: notes/assumptions/119.md. -/
def CmdQueue.site (c : CmdQueue) : Site := { core := c.die * 40, tlb := 2, ctx := c.ctx, launch := 0, team := 0 }

/-- CQ_SUBMIT: the hub reads the next entry of a queue: a submission is read and entered, a bad entry rejected. With `keep` the queue
has been granted a free entry of its store (06 R123). -/
def execCqSubmit (s : State) : Out :=
  let q := s.ev.queue
  let e := s.again .cqSubmit
  .next (s.cqTurn q e fun c x s =>
    match x with
    | .bad => (s.cqReject q c).regrant c.die
    | .nop => s.prepend [event .cqNop { queue := q, keep := s.ev.keep }]
    | .submit lrec =>
      match s.cqRecord c.site e lrec with
      | (.waits, s) => s
      | (.bad, s) => (s.cqReject q c).regrant c.die
      | (.ok ws ks, s) => s.cqEnter q c lrec ws ks)

end Sys2Proof.Machine
end

