-- ==== Sys2Proof/Machine/Context.lean ====
section
/-!
DEFINITION. Machine/Context.lean: create, destroy and restore of contexts (05 R104 to R109, R114; 18 R374).
-/

namespace Sys2Proof.Machine

/-- An operation on a context ends with a result: OP of CTX_CTL reads 0 again if the registers name the context. -/
def State.opEnds (s : State) (c op result : Nat) : State :=
  let s := s.modCtx c fun x => { x with result := result }
  if s.ctxregs.idx = c ∧ s.ctxregs.op = op then { s with ctxregs := { s.ctxregs with op := 0 } } else s

/-! ## Create (05 R106; 18 R374) -/

/-- Two ranges of a number of 2 MiB units meet. -/
def unitsMeet (a b n m : Nat) : Bool := decide (a < b + m) && decide (b < a + n)

/-- The virtual ranges of two entries overlap. -/
def Replica.overlaps (x y : Replica) : Bool := unitsMeet x.va.toNat y.va.toNat x.len y.len

/-- Two of an entry's own replicas overlap, or one lies beyond the stack map. -/
def Replica.illPlaced (x : Replica) (span : Nat) : Bool :=
  (List.range 4).any fun i =>
    decide (2 ^ (15 + span) < aget 0 x.pa i + x.len)
      || (List.range i).any fun j => unitsMeet (aget 0 x.pa i) (aget 0 x.pa j) x.len x.len

/-- The replica entries of a context after the checks of create: an entry that fails one is unused.
DEDUCED, unsafe: notes/assumptions/91.md. -/
def checkReplicas (span : Nat) (m : AMap Replica) : AMap Replica :=
  amap m fun i x =>
    let bad := x.illPlaced span || m.any fun p => p.1 != i && p.2.len != 0 && x.overlaps p.2
    if x.len = 0 ∨ bad then { x with len := 0, used := false } else { x with used := true }

/-- CTX_CREATE.
DEDUCED, unsafe: notes/assumptions/91.md. -/
def execCtxCreate (s : State) : Out :=
  let c := s.ev.ctx
  .next (if c = 0 then s.opEnds c 1 3
    else if (s.ctx c).state ≠ .free then s.opEnds c 1 2
    else
      let (k, s) := s.takeDraw
      (s.modCtx c fun x =>
        { x with state := .live, key := some k, wear := 0, valid := false, seq := 0, build := none, built := none, failed := false,
                 works := [], errs := [], errDropped := false, reps := checkReplicas s.mem.span x.reps }).opEnds c 1 0)

/-! ## Dropping what is cached under a key id (05 R109, R114) -/

/-- The words of an L2 unit leave it without write-back: its die is no holder of them any more. -/
def State.l2Forget (s : State) (k : Nat) (x : CUnit) : State :=
  let die := k / 2 ^ 46
  let s := x.words.foldl (fun s p =>
    let w := k % 2 ^ 46 * 64 + p.1
    (s.watchWrite die w).modDir w fun e => { e with sh := setBit e.sh die false, m := e.m && !e.sh.getLsbD die }) s
  s.modMem fun m => { m with l2 := adel m.l2 k }

/-- Every word tagged with a key id leaves the L1s and L2s without write-back. -/
def State.dropUpper (s : State) (kid : Nat) : State :=
  let s := (s.mem.l2.filter fun p => p.2.kid = kid).foldl (fun s p => s.l2Forget p.1 p.2) s
  s.modMem fun m => { m with l1 := afilter m.l1 fun _ x => x.kid != kid }

/-- A dirty word of the LLC is dropped by a destroy: the poison code is written to DRAM, which is a write of the Plinth (09 R185). -/
def State.poisonDropped (s : State) (kid w : Nat) : State :=
  (s.writeStored kid w 0 true).stampAll { comp := 5, core := none, kid := kid, w := w, data := 0, mask := 15, psn := true }

/-- Every LLC word tagged with a key id is dropped; with `poison`, the poison code is written to DRAM for each dirty one. -/
def State.dropLlc (s : State) (kid : Nat) (poison : Bool) : State :=
  let us := s.mem.llc.filter fun p => p.2.kid = kid
  let s := s.modMem fun m => { m with llc := afilter m.llc fun _ x => x.kid != kid }
  if poison then
    us.foldl (fun s p => p.2.words.foldl (fun s q =>
      if q.2.st = .modified then s.poisonDropped kid (p.1 * 64 + q.1) else s) s) s
  else s

/-- Operations of a context that are under way are forgotten. -/
def State.dropContextOps (s : State) (c : Nat) : State :=
  { s with ops := afilter s.ops fun _ o => match o with
      | .plc o => o.kid != c
      | .coll o => o.kid != c
      | _ => true }

/-- Translations and Chisel entries of a context go, as by TLBINV with IMM15 1.
DESIGN CHOICE, safe: notes/assumptions/122.md. -/
def State.dropTranslations (s : State) (c : Nat) : State := (s.dropTlb c none).chStale c none fun _ => true

/-! ## Destroy (05 R109) -/

/-- A waiting event is a request under a key id: its own, or for a request of another package that of a word it names. -/
def State.underKey (s : State) (c : Nat) (e : Event) : Bool :=
  e.arg.kid == c || e.arg.msg.named.any fun p => s.mem.tagOf p.2 == some c

/-- Requests under a key id that homes have accepted and not completed (05 R109): held back for a recall or a snoop, or writes not yet
applied everywhere. -/
def State.accepted (s : State) (c : Nat) : Bool :=
  (s.mem.homeq.any fun p => p.2.any (s.underKey c)) || (s.hub.snoops.any fun p => p.2.any (s.underKey c)) || !s.writesApplied c

/-- The context has work, which refuses a destroy. -/
def State.hasWork (s : State) (c : Nat) : Bool :=
  (s.teams.any fun p => p.2.ctx == c) || (s.launches.any fun p => p.2.ctx == c)
    || (s.hub.cqs.any fun p => p.2.en && p.2.ctx == c) || (s.ctx c).build.isSome

/-- Steps 3 to 6.
DEDUCED, unsafe: notes/assumptions/92.md. -/
def State.finishDestroy (s : State) (c : Nat) : State :=
  let s := (((s.dropContextOps c).dropUpper c).dropTranslations c).dropLlc c true
  (s.modCtx c fun x =>
    { x with state := .free, key := none, valid := false, seq := 0, wear := 0, build := none, built := none, failed := false,
             works := [], errs := [], errDropped := false }).opEnds c 2 0

/-- CTX_DESTROY: step 1 refuses new requests; when the accepted ones are complete (step 2), the context is destroyed.
DEDUCED, unsafe: notes/assumptions/92.md. -/
def execCtxDestroy (s : State) : Out :=
  let c := s.ev.ctx
  .next (if c = 0 then s.opEnds c 2 3
    else
      match (s.ctx c).state with
      | .free => s.opEnds c 2 2
      | .destroying => if s.accepted c then s else s.finishDestroy c
      | _ =>
        if s.hasWork c then s.opEnds c 2 1
        else
          let s := s.modCtx c fun x => { x with state := .destroying }
          if s.accepted c then s else s.finishDestroy c)

/-! ## Restore (05 R114, R115) -/

/-- Step 1: teams are removed without saving and launches discarded; writes that have not reached a die are dropped with them, as is a
Cast that is built or being built.
DESIGN CHOICE, unsafe: notes/assumptions/129.md. -/
def State.removeWork (s : State) (c : Nat) : State :=
  let s := (akeys (s.teams.filter fun p => p.2.ctx = c)).foldl (fun s u => s.removeTeam u) s
  let s := (s.dropContextOps c).modMem fun m => { m with writes := afilter m.writes fun _ x => !(x.kid == c && x.stamp.isNone) }
  let dies := (s.launches.filter fun p => p.2.ctx = c ∧ p.2.status.map (·.1) ≠ some 3).map fun p => p.2.die
  let s := { s with launches := afilter s.launches fun _ l => l.ctx != c }
  dies.foldl (fun s d => s.grantEntry d) (s.modCtx c fun x => { x with state := .restoring, build := none, built := none })

/-- A restore ends: its result, and event 0x05. -/
def State.restoreEnds (s : State) (c result : Nat) : State := (s.opEnds c 3 result).postMbx 0x05 c (BitVec.ofNat 32 result)

/-- A list entry of a Cast: its virtual page. -/
def State.castEntry (s : State) (c w j : Nat) : Nat × Bool × State :=
  let (a, p, s) := s.plinthRead c (w + 4 + 2 * j)
  let (b, q, s) := s.plinthRead c (w + 5 + 2 * j)
  (a.toNat + b.toNat * 2 ^ 32, p || q, s)

/-- The virtual pages of a Cast, in order; none when a list word is poisoned. -/
def State.castEntries (s : State) (c w : Nat) : List Nat → Option (List Nat) × State
  | [] => (some [], s)
  | j :: js =>
    match s.castEntry c w j with
    | (_, true, s) => (none, s)
    | (v, false, s) =>
      let (r, s) := s.castEntries c w js
      (r.map (v % 2 ^ 41 :: ·), s)

/-- The list of a buffer, when its magic and SEQ match and no word of it is poisoned.
DEDUCED, unsafe: notes/assumptions/31.md. -/
def State.readCast (s : State) (c : Nat) : Option (List Nat) × State :=
  let x := s.ctx c
  let w := x.buffer x.cur * 16384
  let (ws, s) := s.hostWords c false [w, w + 1, w + 2, w + 3]
  let at' (i : Nat) : Nat := (ws.getD i (0, true)).1.toNat
  if ws.any (·.2) ∨ at' 0 ≠ 0x43415354 ∨ at' 1 ≠ x.seq.toNat then (none, s)
  else s.castEntries c w (List.range (min (at' 2) x.buflen))

/-- Writes one copy to a physical page. -/
def State.restorePage (s : State) (c src dst : Nat) : State :=
  (List.range 16384).foldl (fun s i =>
    let (d, psn, s) := s.plinthRead c (src * 16384 + i)
    s.plinthWrite c (dst * 16384 + i) d psn) s

/-- The physical pages of a virtual page as it is mapped now: every replica of it (18 R375). -/
def State.homesOf (s : State) (c : Nat) (map : List (Nat × Nat)) (v : Nat) : List Nat :=
  match map.find? fun p => p.1 = v with
  | none => []
  | some p => ((List.range 4).map fun d => s.replicated c d (v * 65536) (p.2 * 65536) / 65536).eraseDups

/-- The header and the list of a Cast wait at their homes (03 R82). -/
def State.listHold (s : State) (c : Nat) (e : Event) : Option State :=
  let x := s.ctx c
  let w := x.buffer x.cur * 16384
  match s.spanHold w 4 false e with
  | some s => some s
  | none => s.spanHold (w + 4) (2 * min (s.plinthRead c (w + 2)).1.toNat x.buflen) false e

/-- Step 3: each copy is written to the pages of its virtual page, when no word that is read or written is held back by its home (03 R82);
the flag says whether that is so. -/
def State.restorePages (s : State) (c : Nat) (vs : List Nat) (e : Event) : Bool × State :=
  let x := s.ctx c
  let first := x.buffer x.cur + listPages vs.length
  match s.castPages c 5 (x.ptroot * 65536) 0 with
  | (.error w, s) => (false, (s.readHold 5 w e).getD s)
  | (.ok map, s) =>
    let moves := (vs.zip (List.range vs.length)).flatMap fun p => (s.homesOf c map p.1).map fun dst => (first + p.2, dst)
    match moves.findSome? fun m => s.pageHold m.1 m.2 e with
    | some s => (false, s)
    | none => (true, moves.foldl (fun s m => s.restorePage c m.1 m.2) s)

/-- Step 4: the launches that the Cast recorded re-enter their stores.
DESIGN CHOICE, unsafe: notes/assumptions/50.md. -/
def State.relaunch (s : State) (c : Nat) : State :=
  let x := s.ctx c
  let s := (aget [] x.works (if x.cur then 1 else 0)).foldl (fun s l =>
    let (_, s) := s.enterStore { l with reserving := false, passed := 0, countFault := none }
    s) s
  s.modCtx c fun x => { x with state := .live }

/-- Steps 3 and 4 of a restore, which wait for words that their homes hold back: the event then comes again. What such a word was recalled
from is of no account, since it is read or written only when it has come home. -/
def State.restoreOn (s : State) (c : Nat) : State :=
  let e := event .ctxRestore { ctx := c, keep := true }
  let s := { s with ev := { s.ev with lost := [] } }
  match s.listHold c e with
  | some s => s
  | none =>
    match s.readCast c with
    | (none, s) => s.restoreEnds c 5
    | (some vs, s) =>
      match s.restorePages c vs e with
      | (false, s) => s
      | (true, s) => (s.relaunch c).restoreEnds c 0

/-- CTX_RESTORE: by the host (OP 3), with `cause` 1 by the package itself, or with `keep` one that has waited. A restore that fails
leaves the context restoring. The context's translations go with its cached words.
DESIGN CHOICE, safe: notes/assumptions/122.md. -/
def execCtxRestore (s : State) : Out :=
  let c := s.ev.ctx
  .next (if s.ev.keep then (if (s.ctx c).state = .restoring then s.restoreOn c else s)
    else if c = 0 then (if s.ev.cause = 0 then s.opEnds c 3 3 else s)
    else if (s.ctx c).state ≠ .live then (if s.ev.cause = 0 then s.opEnds c 3 2 else s)
    else
      let s := s.removeWork c
      if !(s.ctx c).valid then s.restoreEnds c 4
      else ((((s.dropUpper c).dropTranslations c).dropLlc c false)).restoreOn c)

end Sys2Proof.Machine
end

