-- ==== Sys2Proof/Machine/Integer.lean ====
section
/-!
DEFINITION. Machine/Integer.lean: integer instructions with registers (16 R338 to R341) and with an immediate (R342).
-/

namespace Sys2Proof.Machine

/-! ## Results (16 R339) -/

/-- a × b, bits 127:64 of the signed product. -/
def mulHighSigned (a b : Dword) : Dword := BitVec.ofInt 64 (a.toInt * b.toInt / 2 ^ 64)

/-- a × b, bits 127:64 of the unsigned product. -/
def mulHighUnsigned (a b : Dword) : Dword := BitVec.ofNat 64 (a.toNat * b.toNat / 2 ^ 64)

/-- The signed quotient, rounded toward zero, with the limits of 16 R340. -/
def divSigned (a b : Dword) : Dword := if b = 0 then -1 else BitVec.ofInt 64 (a.toInt.tdiv b.toInt)

/-- The unsigned quotient (16 R340). -/
def divUnsigned (a b : Dword) : Dword := if b = 0 then -1 else BitVec.ofNat 64 (a.toNat / b.toNat)

/-- The signed remainder (16 R340). -/
def remSigned (a b : Dword) : Dword := if b = 0 then a else BitVec.ofInt 64 (a.toInt.tmod b.toInt)

/-- The unsigned remainder (16 R340). -/
def remUnsigned (a b : Dword) : Dword := if b = 0 then a else BitVec.ofNat 64 (a.toNat % b.toNat)

/-- A shift left by s of 0 to 63. -/
def shiftLeft (a : Dword) (s : Nat) : Dword := a <<< s

/-- A shift right that fills with zeros. -/
def shiftRight (a : Dword) (s : Nat) : Dword := a >>> s

/-- A shift right that fills with a[63]. -/
def shiftArith (a : Dword) (s : Nat) : Dword := a.sshiftRight s

/-- A rotation left. -/
def rotateLeft (a : Dword) (s : Nat) : Dword := if s = 0 then a else (a <<< s) ||| (a >>> (64 - s))

/-- The shift amount b[5:0]. -/
def shiftAmount (b : Dword) : Nat := b.toNat % 64

/-- Leading zero bits; 64 for zero. -/
def leadingZeros (a : Dword) : Nat := if a = 0 then 64 else 63 - log2 a.toNat

/-- Trailing zero bits; 64 for zero. -/
def trailingZeros (a : Dword) : Nat := (lowestSet 64 0 a.toNat).getD 64

/-- Bit i moved to bit 63 - i. -/
def bitReverse (a : Dword) : Dword :=
  BitVec.ofNat 64 ((List.range 64).foldl (fun x i => x * 2 + (if a.toNat.testBit i then 1 else 0)) 0)

/-- The position of a field (16 R341). -/
def fieldPos (b : Dword) : Nat := b.toNat % 64

/-- The width of a field (16 R341). -/
def fieldWidth (b : Dword) : Nat := min (bitsOf b 14 8) (64 - fieldPos b)

/-- The field mask (16 R341). -/
def fieldMask (b : Dword) : Dword := BitVec.ofNat 64 ((2 ^ fieldWidth b - 1) * 2 ^ fieldPos b)

/-- BFX.w64. -/
def extractUnsigned (a b : Dword) : Dword := (a &&& fieldMask b) >>> fieldPos b

/-- BFX.i64. -/
def extractSigned (a b : Dword) : Dword := if fieldWidth b = 0 then 0 else sext (fieldWidth b) (extractUnsigned a b)

/-- BFI. -/
def insertField (a b c : Dword) : Dword := (c &&& ~~~(fieldMask b)) ||| ((a <<< fieldPos b) &&& fieldMask b)

/-- The destination register as a source (16 R338). -/
def regSrc : DReg → Src
  | .n i => .n i
  | .e i => .e i

/-! ## Major 0x03 -/

/-- IADD. -/
def execIadd (sa sb : Src) (d : Dst) (s : State) : Out := .next (binOp sa sb d (· + ·) s)

/-- ISUB. -/
def execIsub (sa sb : Src) (d : Dst) (s : State) : Out := .next (binOp sa sb d (· - ·) s)

/-- IMUL. -/
def execImul (sa sb : Src) (d : Dst) (s : State) : Out := .next (binOp sa sb d (· * ·) s)

/-- IMULH.i64. -/
def execImulhI64 (sa sb : Src) (d : Dst) (s : State) : Out := .next (binOp sa sb d mulHighSigned s)

/-- IMULH.w64. -/
def execImulhW64 (sa sb : Src) (d : Dst) (s : State) : Out := .next (binOp sa sb d mulHighUnsigned s)

/-- IMAD: the third operand is the destination as it stood before the chain. -/
def execImad (sa sb : Src) (d : DReg) (s : State) : Out :=
  .next (triOp sa sb (regSrc d) (.reg d) (fun a b c => a * b + c) s)

/-- IDIV.i64 (16 R340). -/
def execIdivI64 (sa sb : Src) (d : Dst) (s : State) : Out := .next (binOp sa sb d divSigned s)

/-- IDIV.w64 (16 R340). -/
def execIdivW64 (sa sb : Src) (d : Dst) (s : State) : Out := .next (binOp sa sb d divUnsigned s)

/-- IREM.i64 (16 R340). -/
def execIremI64 (sa sb : Src) (d : Dst) (s : State) : Out := .next (binOp sa sb d remSigned s)

/-- IREM.w64 (16 R340). -/
def execIremW64 (sa sb : Src) (d : Dst) (s : State) : Out := .next (binOp sa sb d remUnsigned s)

/-- IMIN.i64. -/
def execIminI64 (sa sb : Src) (d : Dst) (s : State) : Out := .next (binOp sa sb d (fun a b => if a.sle b then a else b) s)

/-- IMIN.w64. -/
def execIminW64 (sa sb : Src) (d : Dst) (s : State) : Out := .next (binOp sa sb d (fun a b => if a ≤ b then a else b) s)

/-- IMAX.i64. -/
def execImaxI64 (sa sb : Src) (d : Dst) (s : State) : Out := .next (binOp sa sb d (fun a b => if a.sle b then b else a) s)

/-- IMAX.w64. -/
def execImaxW64 (sa sb : Src) (d : Dst) (s : State) : Out := .next (binOp sa sb d (fun a b => if a ≤ b then b else a) s)

/-- IABS: the absolute value of -2^63 is -2^63. -/
def execIabs (sa : Src) (d : Dst) (s : State) : Out := .next (unOp sa d (fun a => if a.msb then -a else a) s)

/-- ILOG.and. -/
def execIlogAnd (sa sb : Src) (d : Dst) (s : State) : Out := .next (binOp sa sb d (· &&& ·) s)

/-- ILOG.or. -/
def execIlogOr (sa sb : Src) (d : Dst) (s : State) : Out := .next (binOp sa sb d (· ||| ·) s)

/-- ILOG.xor. -/
def execIlogXor (sa sb : Src) (d : Dst) (s : State) : Out := .next (binOp sa sb d (· ^^^ ·) s)

/-- ILOG.andn. -/
def execIlogAndn (sa sb : Src) (d : Dst) (s : State) : Out := .next (binOp sa sb d (fun a b => a &&& ~~~b) s)

/-- ISHF.shl. -/
def execIshfShl (sa sb : Src) (d : Dst) (s : State) : Out := .next (binOp sa sb d (fun a b => shiftLeft a (shiftAmount b)) s)

/-- ISHF.shr. -/
def execIshfShr (sa sb : Src) (d : Dst) (s : State) : Out := .next (binOp sa sb d (fun a b => shiftRight a (shiftAmount b)) s)

/-- ISHF.sar. -/
def execIshfSar (sa sb : Src) (d : Dst) (s : State) : Out := .next (binOp sa sb d (fun a b => shiftArith a (shiftAmount b)) s)

/-- ISHF.rol. -/
def execIshfRol (sa sb : Src) (d : Dst) (s : State) : Out := .next (binOp sa sb d (fun a b => rotateLeft a (shiftAmount b)) s)

/-- LEA. -/
def execLea (sa sb : Src) (d : Dst) (s : State) : Out := .next (binOp sa sb d (fun a b => a + 4 * b) s)

/-- IBIT.popc. -/
def execIbitPopc (sa : Src) (d : Dst) (s : State) : Out :=
  .next (unOp sa d (fun a => BitVec.ofNat 64 (popCount 64 a.toNat)) s)

/-- IBIT.clz. -/
def execIbitClz (sa : Src) (d : Dst) (s : State) : Out := .next (unOp sa d (fun a => BitVec.ofNat 64 (leadingZeros a)) s)

/-- IBIT.ctz. -/
def execIbitCtz (sa : Src) (d : Dst) (s : State) : Out := .next (unOp sa d (fun a => BitVec.ofNat 64 (trailingZeros a)) s)

/-- IBIT.brev. -/
def execIbitBrev (sa : Src) (d : Dst) (s : State) : Out := .next (unOp sa d bitReverse s)

/-- BFX.i64 (16 R341). -/
def execBfxI64 (sa sb : Src) (d : Dst) (s : State) : Out := .next (binOp sa sb d extractSigned s)

/-- BFX.w64 (16 R341). -/
def execBfxW64 (sa sb : Src) (d : Dst) (s : State) : Out := .next (binOp sa sb d extractUnsigned s)

/-- BFI (16 R341). -/
def execBfi (sa sb : Src) (d : DReg) (s : State) : Out := .next (triOp sa sb (regSrc d) (.reg d) insertField s)

/-! ## Major 0x04 -/

/-- IADDI. -/
def execIaddi (sa : Src) (imm : BitVec 8) (d : Dst) (s : State) : Out := .next (unOp sa d (· + imm.signExtend 64) s)

/-- ILOGI.and. -/
def execIlogiAnd (sa : Src) (imm : BitVec 8) (d : Dst) (s : State) : Out := .next (unOp sa d (· &&& imm.setWidth 64) s)

/-- ILOGI.or. -/
def execIlogiOr (sa : Src) (imm : BitVec 8) (d : Dst) (s : State) : Out := .next (unOp sa d (· ||| imm.setWidth 64) s)

/-- ILOGI.xor. -/
def execIlogiXor (sa : Src) (imm : BitVec 8) (d : Dst) (s : State) : Out := .next (unOp sa d (· ^^^ imm.setWidth 64) s)

/-- ILOGI.andn. -/
def execIlogiAndn (sa : Src) (imm : BitVec 8) (d : Dst) (s : State) : Out :=
  .next (unOp sa d (fun a => a &&& ~~~(imm.setWidth 64)) s)

/-- ISHFI.shl. -/
def execIshfiShl (sa : Src) (imm : BitVec 6) (d : Dst) (s : State) : Out := .next (unOp sa d (shiftLeft · imm.toNat) s)

/-- ISHFI.shr. -/
def execIshfiShr (sa : Src) (imm : BitVec 6) (d : Dst) (s : State) : Out := .next (unOp sa d (shiftRight · imm.toNat) s)

/-- ISHFI.sar. -/
def execIshfiSar (sa : Src) (imm : BitVec 6) (d : Dst) (s : State) : Out := .next (unOp sa d (shiftArith · imm.toNat) s)

/-- ISHFI.rol. -/
def execIshfiRol (sa : Src) (imm : BitVec 6) (d : Dst) (s : State) : Out := .next (unOp sa d (rotateLeft · imm.toNat) s)

/-- The extension that a type code names (16 R342; 14 R299): 0 to 2 sign extend 8, 16, 32 bits, 4 to 6 zero extend. -/
def extendBy (code : Nat) (a : Dword) : Dword :=
  if code < 4 then sext (8 * 2 ^ code) a else zext (8 * 2 ^ (code - 4)) a

/-- IEXT. -/
def execIext (sa : Src) (imm : BitVec 8) (d : Dst) (s : State) : Out := .next (unOp sa d (extendBy imm.toNat) s)

end Sys2Proof.Machine
end

