-- ==== Sys2Proof/Machine/Pred.lean ====
section
/-!
DEFINITION. Machine/Pred.lean: integer compares, predicate logic, VOTE and PMOV (16 R343 to R345; 07 R156).
-/

namespace Sys2Proof.Machine

/-- One lane of a compare: p(PD) := condition and p(PS), poisoned by what it read (16 R343). -/
def compareLane (sa sb : Src) (ps pd : Fin 8) (f : Dword → Dword → Bool) (s : State) (l : Lane) : State :=
  match readAll s l [sa, sb] .none with
  | .error x => s.excuse l x
  | .ok vs =>
    (popSrcs s l [sa, sb]).modThread l.ref fun t =>
      t.setPred pd (f (argAt vs 0) (argAt vs 1) && l.pre.pred ps) (anyPsn vs || l.pre.predPsn ps)

/-- A compare in every active lane. -/
def compareOp (sa sb : Src) (ps pd : Fin 8) (f : Dword → Dword → Bool) (s : State) : State :=
  s.forLanes (compareLane sa sb ps pd f)

/-- ICMP.eq. -/
def execIcmpEq (sa sb : Src) (ps pd : Fin 8) (s : State) : Out := .next (compareOp sa sb ps pd (fun a b => a == b) s)

/-- ICMP.ne. -/
def execIcmpNe (sa sb : Src) (ps pd : Fin 8) (s : State) : Out := .next (compareOp sa sb ps pd (fun a b => a != b) s)

/-- ICMP.lt.i64. -/
def execIcmpLtI64 (sa sb : Src) (ps pd : Fin 8) (s : State) : Out := .next (compareOp sa sb ps pd (fun a b => a.slt b) s)

/-- ICMP.le.i64. -/
def execIcmpLeI64 (sa sb : Src) (ps pd : Fin 8) (s : State) : Out := .next (compareOp sa sb ps pd (fun a b => a.sle b) s)

/-- ICMP.lt.w64. -/
def execIcmpLtW64 (sa sb : Src) (ps pd : Fin 8) (s : State) : Out := .next (compareOp sa sb ps pd (fun a b => a.ult b) s)

/-- ICMP.le.w64. -/
def execIcmpLeW64 (sa sb : Src) (ps pd : Fin 8) (s : State) : Out := .next (compareOp sa sb ps pd (fun a b => a.ule b) s)

/-- Predicate logic in every active lane (16 R343). -/
def predLogic (pa ps pd : Fin 8) (f : Bool → Bool → Bool) (s : State) : State :=
  s.forLanes fun s l => s.modThread l.ref fun t =>
    t.setPred pd (f (l.pre.pred pa) (l.pre.pred ps)) (l.pre.predPsn pa || l.pre.predPsn ps)

/-- PLOG.and. -/
def execPlogAnd (pa ps pd : Fin 8) (s : State) : Out := .next (predLogic pa ps pd (· && ·) s)

/-- PLOG.or. -/
def execPlogOr (pa ps pd : Fin 8) (s : State) : Out := .next (predLogic pa ps pd (· || ·) s)

/-- PLOG.xor. -/
def execPlogXor (pa ps pd : Fin 8) (s : State) : Out := .next (predLogic pa ps pd (· != ·) s)

/-- PLOG.andn. -/
def execPlogAndn (pa ps pd : Fin 8) (s : State) : Out := .next (predLogic pa ps pd (fun a b => a && !b) s)

/-! ## VOTE (16 R344) -/

/-- A lane of a vote: the lane, its value, and the poison of what it read. -/
structure Ballot where
  lane : Lane
  val  : Dword
  psn  : Bool
  deriving DecidableEq, Repr

/-- Reads the source of a vote in the active lanes; a lane that cannot be read leaves the bundle. -/
def readVotes (sa : Src) (ps : Fin 8) : List Lane → State → List Ballot × State
  | [], s => ([], s)
  | l :: ls, s =>
    match readAll s l [sa] .none with
    | .error x => readVotes sa ps ls (s.excuse l x)
    | .ok vs =>
      let (bs, s) := readVotes sa ps ls (popSrcs s l [sa])
      ({ lane := l, val := argAt vs 0, psn := anyPsn vs || l.pre.predPsn ps } :: bs, s)

/-- The ballots of the group of a lane. -/
def groupBallots (bs : List Ballot) (r : Nat) : List Ballot := bs.filter fun b => b.lane.ref / 128 = r / 128

/-- The voters of a group. -/
def votersOf (bs : List Ballot) (ps : Fin 8) (r : Nat) : List Ballot := (groupBallots bs r).filter fun b => b.lane.pre.pred ps

/-- The mask of a ballot: bit l for each voting lane l whose value is not zero. -/
def ballotMask (s : State) (bs : List Ballot) (ps : Fin 8) (r : Nat) : Dword :=
  ((votersOf bs ps r).filter fun b => b.val ≠ 0).foldl (fun m b => setBit m (s.visLane b.lane.ref) true) 0

/-- A vote of the groups of the bundle. -/
def voteOp (sa : Src) (ps : Fin 8) (give : State → List Ballot → Ballot → Bool → State) (s : State) : State :=
  let (bs, s) := readVotes sa ps s.issue.act s
  bs.foldl (fun s b => give s bs b ((groupBallots bs b.lane.ref).any (·.psn))) s

/-- VOTE.any. -/
def execVoteAny (sa : Src) (ps pd : Fin 8) (s : State) : Out :=
  .next (voteOp sa ps (fun s bs b bad => s.modThread b.lane.ref fun t =>
    t.setPred pd ((votersOf bs ps b.lane.ref).any fun x => x.val ≠ 0) bad) s)

/-- VOTE.all. -/
def execVoteAll (sa : Src) (ps pd : Fin 8) (s : State) : Out :=
  .next (voteOp sa ps (fun s bs b bad => s.modThread b.lane.ref fun t =>
    t.setPred pd ((votersOf bs ps b.lane.ref).all fun x => x.val ≠ 0) bad) s)

/-- VOTE.ballot. -/
def execVoteBallot (sa : Src) (ps : Fin 8) (s : State) : Out :=
  .next (voteOp sa ps (fun s bs b bad => s.push b.lane.ref { v := ballotMask s bs ps b.lane.ref, psn := bad }) s).pushOff

/-! ## PMOV (16 R345) -/

/-- The value that PMOV.pr pushes: p7 to p0 in bits 7:0, with bit 0 one, and their poison bits in bits 15:8. -/
def Thread.predWord (t : Thread) : Dword :=
  BitVec.ofNat 64 ((t.p ||| 1).toNat + 256 * (t.pp &&& 0xFE).toNat)

/-- PMOV.pr. -/
def execPmovPr (s : State) : Out := .next (s.forLanes fun s l => s.push l.ref { v := l.pre.predWord }).pushOff

/-- One lane of PMOV.rp. -/
def pmovLane (sa : Src) (ps pd : Fin 8) (s : State) (l : Lane) : State :=
  match readAll s l [sa] .none with
  | .error x => s.excuse l x
  | .ok vs =>
    let v := argAt vs 0
    (popSrcs s l [sa]).modThread l.ref fun t =>
      t.setPred pd (v.getLsbD 0 && l.pre.pred ps) (anyPsn vs || v.getLsbD 8 || l.pre.predPsn ps)

/-- PMOV.rp. -/
def execPmovRp (sa : Src) (ps pd : Fin 8) (s : State) : Out := .next (s.forLanes (pmovLane sa ps pd))

end Sys2Proof.Machine
end

