-- ==== Sys2Proof/Machine/Quad.lean ====
section
/-!
DEFINITION. Machine/Quad.lean: quad and crossbar instructions (17 R366 to R370; 07 R148, R149).
-/

namespace Sys2Proof.Machine

/-! ## Operations (15 R317) -/

/-- The operations of QRED, GRED and GSCAN. -/
inductive RedOp where
  | addI64 | addF32 | minI64 | maxI64 | minF32 | maxF32 | and | or
  deriving DecidableEq, Repr

/-- A value under way in a reduction: its bits, its poison, and the flags of the steps that made it. -/
structure Part where
  v   : Dword
  psn : Bool := false
  fl  : FpFlags := {}
  deriving DecidableEq, Repr

/-- An f32 operation on register values, rounded and flushed by a thread's FPCTL. -/
def redFloat (t : Thread) (op : Mode → Num → Num → Num × FpFlags) (a b : Dword) : Dword × FpFlags :=
  let (v, g) := fp2 fmt32 Thread.mode op t [{ v := a }, { v := b }]
  (BitVec.ofNat 64 v, g)

/-- An operation on two register values. -/
def RedOp.apply (op : RedOp) (t : Thread) (a b : Dword) : Dword × FpFlags :=
  match op with
  | .addI64 => (a + b, {})
  | .addF32 => redFloat t Num.add a b
  | .minI64 => (if a.sle b then a else b, {})
  | .maxI64 => (if a.sle b then b else a, {})
  | .minF32 => redFloat t (noMode Num.min) a b
  | .maxF32 => redFloat t (noMode Num.max) a b
  | .and => (a &&& b, {})
  | .or => (a ||| b, {})

/-- The identity of an operation (17 R370). -/
def RedOp.unit : RedOp → Dword
  | .addI64 => 0
  | .addF32 => 0x80000000
  | .minI64 => 0x7FFFFFFFFFFFFFFF
  | .maxI64 => 0x8000000000000000
  | .minF32 => 0x7F800000
  | .maxF32 => 0xFF800000
  | .and => 0xFFFFFFFFFFFFFFFF
  | .or => 0

/-- The operand of an operation in a register value: bits 31:0 for f32 (17 R346).
DEDUCED, unsafe: notes/assumptions/24.md. -/
def RedOp.operand (op : RedOp) (x : Dword) : Dword :=
  match op with
  | .addF32 | .minF32 | .maxF32 => zext 32 x
  | _ => x

/-- Two parts combined. -/
def RedOp.join (op : RedOp) (t : Thread) (a b : Part) : Part :=
  let (v, g) := op.apply t a.v b.v
  { v := v, psn := a.psn || b.psn, fl := (a.fl.join b.fl).join g }

/-! ## Quads -/

/-- The place of member j of a lane's visible quad (17 R366): the primary sees primaries, the shadow shadows. -/
def State.quadRef (s : State) (r j : Nat) : Nat :=
  let l := refLane r
  let p := if s.isProtected r then 2 * (l / 8 * 4 + j) + l % 2 else l / 4 * 4 + j
  r - 4 * l + 4 * p

/-- A helper or guard-false lane's value (07 R149; 17 R366): its registers as they stand before the instruction, 0 for a feed
queue; a free value for an extended register that its thread does not hold; none while the value is not
produced.
DESIGN CHOICE, safe: notes/assumptions/4.md. -/
def State.helperRead (s b : State) (r : Nat) (t : Thread) (sa : Src) : Option Val × State :=
  match sa with
  | .dq _ => (some {}, s)
  | sa =>
    match readSrc b { ref := r, pre := t } sa with
    | .ok v => (some v, s)
    | .bad .notReady => (none, s)
    | .bad _ =>
      let (v, s) := s.takeFree
      (some { v := v }, s)

/-- The value of a member of a quad, as the bundle `b` stood before the instruction. -/
def State.memberRead (s b : State) (r : Nat) (sa : Src) : Option Val × State :=
  match b.issue.act.find? fun l => l.ref = r with
  | some l =>
    match readSrc b l sa with
    | .ok v => (some v, s)
    | .bad _ => s.helperRead b r l.pre sa
  | none =>
    match b.issue.off.find? fun l => l.ref = r with
    | some l => s.helperRead b r l.pre sa
    | none => s.helperRead b r (b.thread r) sa

/-- The values of a quad, none while one of them is not produced. -/
def State.quadRead (s b : State) (r : Nat) (sa : Src) : List Nat → Option (List Val) × State
  | [] => (some [], s)
  | j :: js =>
    match s.memberRead b (b.quadRef r j) sa with
    | (none, s) => (none, s)
    | (some v, s) =>
      match s.quadRead b r sa js with
      | (none, s) => (none, s)
      | (some vs, s) => (some (v :: vs), s)

/-- One lane of a quad instruction: `f` makes the result from the quad's values, the lane's index in the quad and its own SB. -/
def quadLane (b : State) (sa : Src) (sb : Option Src) (d : Dst) (f : Lane → List Val → Nat → Val → Part) (s : State)
    (l : Lane) : State :=
  match readAll b l (sa :: sb.toList) d with
  | .error x => s.excuse l x
  | .ok own =>
    match s.quadRead b l.ref sa (List.range 4) with
    | (none, s) => s.excuse l .notReady
    | (some vs, s) =>
      let p := f l vs (b.visLane l.ref % 4) (own.getD 1 {})
      ((popSrcs s l (sa :: sb.toList)).produce l.ref d { v := p.v, psn := p.psn }).raise l.ref p.fl

/-- A quad instruction in every active lane. Only active lanes push (17 R366, R367): a lane whose guard is false pushes nothing.
DEDUCED, unsafe: notes/assumptions/121.md. -/
def quadOp (sa : Src) (sb : Option Src) (d : Dst) (f : State → Lane → List Val → Nat → Val → Part) (s : State) : State :=
  s.forLanes (quadLane s sa sb d (f s))

/-- A member's value as a part. -/
def partOf (vs : List Val) (j : Nat) : Part := { v := (vs.getD j {}).v, psn := (vs.getD j {}).psn }

/-- QSWP.k (17 R367). -/
def quadSwap (k : Nat) (sa : Src) (d : Dst) (s : State) : State :=
  quadOp sa none d (fun _ _ vs j _ => partOf vs (j ^^^ k)) s

/-- QSWP.1. -/
def execQswp1 (sa : Src) (d : Dst) (s : State) : Out := .next (quadSwap 1 sa d s)

/-- QSWP.2. -/
def execQswp2 (sa : Src) (d : Dst) (s : State) : Out := .next (quadSwap 2 sa d s)

/-- QSWP.3. -/
def execQswp3 (sa : Src) (d : Dst) (s : State) : Out := .next (quadSwap 3 sa d s)

/-- QBC (17 R367): poisoned also by the lane's SB. -/
def execQbc (sa sb : Src) (d : Dst) (s : State) : Out :=
  .next (quadOp sa (some sb) d (fun _ _ vs _ b =>
    let p := partOf vs (b.v.toNat % 4)
    { p with psn := p.psn || b.psn }) s)

/-- The lane whose FPCTL a quad reduction uses: the lowest active lane of the quad (17 R367). -/
def State.quadLead (s : State) (l : Lane) : Thread :=
  match s.issue.act.find? fun k => (List.range 4).any fun j => s.quadRef l.ref j = k.ref with
  | some k => k.pre
  | none => l.pre

/-- QRED (17 R367): Op(Op(s0, s1), Op(s2, s3)). -/
def quadReduce (op : RedOp) (sa : Src) (d : Dst) (s : State) : State :=
  quadOp sa none d (fun b l vs _ _ =>
    let t := b.quadLead l
    op.join t (op.join t (partOf vs 0) (partOf vs 1)) (op.join t (partOf vs 2) (partOf vs 3))) s

/-- QRED, addI64. -/
def execQredAddI64 (sa : Src) (d : Dst) (s : State) : Out := .next (quadReduce .addI64 sa d s)

/-- QRED, addF32. -/
def execQredAddF32 (sa : Src) (d : Dst) (s : State) : Out := .next (quadReduce .addF32 sa d s)

/-- QRED, minI64. -/
def execQredMinI64 (sa : Src) (d : Dst) (s : State) : Out := .next (quadReduce .minI64 sa d s)

/-- QRED, maxI64. -/
def execQredMaxI64 (sa : Src) (d : Dst) (s : State) : Out := .next (quadReduce .maxI64 sa d s)

/-- QRED, minF32. -/
def execQredMinF32 (sa : Src) (d : Dst) (s : State) : Out := .next (quadReduce .minF32 sa d s)

/-- QRED, maxF32. -/
def execQredMaxF32 (sa : Src) (d : Dst) (s : State) : Out := .next (quadReduce .maxF32 sa d s)

/-- QRED, and. -/
def execQredAnd (sa : Src) (d : Dst) (s : State) : Out := .next (quadReduce .and sa d s)

/-- QRED, or. -/
def execQredOr (sa : Src) (d : Dst) (s : State) : Out := .next (quadReduce .or sa d s)

/-! ## Crossbar (17 R368 to R370) -/

/-- The number of visible lanes of a group. -/
def State.laneCount (s : State) (r : Nat) : Nat := if s.isProtected r then 16 else 32

/-- The place of visible lane v of a lane's group, on the lane's side of its pair. -/
def State.visRef (s : State) (r v : Nat) : Nat :=
  let l := refLane r
  r - 4 * l + 4 * (if s.isProtected r then 2 * v + l % 2 else v)

/-- What a contributing lane holds; none when the lane does not contribute. -/
def State.contribution (b : State) (sa : Src) (r : Nat) : Option Val :=
  match b.issue.act.find? fun l => l.ref = r with
  | some l =>
    match readSrc b l sa with
    | .ok v => some v
    | .bad _ => none
  | none => none

/-- One lane of a crossbar instruction. -/
def crossLane (b : State) (sa : Src) (sb : Option Src) (d : Dst) (f : Lane → Val → Val → Part) (s : State) (l : Lane) : State :=
  match readAll b l (sa :: sb.toList) d with
  | .error x => s.excuse l x
  | .ok own =>
    let p := f l (own.getD 0 {}) (own.getD 1 {})
    ((popSrcs s l (sa :: sb.toList)).produce l.ref d { v := p.v, psn := p.psn }).raise l.ref p.fl

/-- A crossbar instruction: group-collective (07 R148). -/
def crossOp (sa : Src) (sb : Option Src) (d : Dst) (f : State → Lane → Val → Val → Part) (s : State) : State :=
  collectiveGate (fun s => (s.forLanes (crossLane s sa sb d (f s))).pushOff) s

/-- SHFL (17 R369): `src` gives the source lane, if it is in range. -/
def shuffle (src : Nat → Nat → Nat → Option Nat) (sa sb : Src) (d : Dst) (s : State) : State :=
  crossOp sa (some sb) d (fun b l a x =>
    let n := b.laneCount l.ref
    let v := match src n (b.visLane l.ref) (x.v.toNat % n) with
      | some k => (b.contribution sa (b.visRef l.ref k)).getD a
      | none => a
    { v := v.v, psn := v.psn || x.psn }) s

/-- SHFL.idx. -/
def execShflIdx (sa sb : Src) (d : Dst) (s : State) : Out := .next (shuffle (fun _ _ x => some x) sa sb d s)

/-- SHFL.up. -/
def execShflUp (sa sb : Src) (d : Dst) (s : State) : Out :=
  .next (shuffle (fun _ l x => if x ≤ l then some (l - x) else none) sa sb d s)

/-- SHFL.dn. -/
def execShflDn (sa sb : Src) (d : Dst) (s : State) : Out :=
  .next (shuffle (fun n l x => if l + x < n then some (l + x) else none) sa sb d s)

/-- SHFL.xor. -/
def execShflXor (sa sb : Src) (d : Dst) (s : State) : Out := .next (shuffle (fun _ l x => some (l ^^^ x)) sa sb d s)

/-- The thread whose FPCTL a float form uses: the lowest live thread of the group (17 R368). -/
def State.groupLead (b : State) (l : Lane) : Thread :=
  match (b.liveRefs (refTeam l.ref) (refGrp l.ref)).head? with
  | some r =>
    match b.issue.lanes.find? fun k => k.ref = r with
    | some k => k.pre
    | none => b.thread r
  | none => l.pre

/-- The parts that the visible lanes of a lane's group start with (17 R370). -/
def State.parts (b : State) (op : RedOp) (sa : Src) (r : Nat) : List Part :=
  (List.range (b.laneCount r)).map fun v =>
    match b.contribution sa (b.visRef r v) with
    | some x => { v := op.operand x.v, psn := x.psn }
    | none => { v := op.unit }

/-- The distances of the levels, for 32 or 16 lanes. -/
def levels (n : Nat) : List Nat := if n = 32 then [1, 2, 4, 8, 16] else [1, 2, 4, 8]

/-- One level of a reduction: all lanes at once. -/
def redLevel (op : RedOp) (t : Thread) (ps : List Part) (d : Nat) : List Part :=
  (List.range ps.length).map fun l =>
    op.join t (ps.getD (min l (l ^^^ d)) { v := op.unit }) (ps.getD (max l (l ^^^ d)) { v := op.unit })

/-- One level of a scan: all lanes at once.
DEDUCED, unsafe: notes/assumptions/24.md. -/
def scanLevel (op : RedOp) (t : Thread) (ps : List Part) (d : Nat) : List Part :=
  (List.range ps.length).map fun l =>
    if d ≤ l then op.join t (ps.getD (l - d) { v := op.unit }) (ps.getD l { v := op.unit }) else ps.getD l { v := op.unit }

/-- GRED (17 R370). -/
def groupReduce (op : RedOp) (sa : Src) (d : Dst) (s : State) : State :=
  crossOp sa none d (fun b l _ _ =>
    let t := b.groupLead l
    ((levels (b.laneCount l.ref)).foldl (redLevel op t) (b.parts op sa l.ref)).getD 0 { v := op.unit }) s

/-- GSCAN (17 R370). -/
def groupScan (op : RedOp) (sa : Src) (d : Dst) (s : State) : State :=
  crossOp sa none d (fun b l _ _ =>
    let t := b.groupLead l
    ((levels (b.laneCount l.ref)).foldl (scanLevel op t) (b.parts op sa l.ref)).getD (b.visLane l.ref) { v := op.unit }) s

/-- GRED, addI64. -/
def execGredAddI64 (sa : Src) (d : Dst) (s : State) : Out := .next (groupReduce .addI64 sa d s)

/-- GRED, addF32. -/
def execGredAddF32 (sa : Src) (d : Dst) (s : State) : Out := .next (groupReduce .addF32 sa d s)

/-- GRED, minI64. -/
def execGredMinI64 (sa : Src) (d : Dst) (s : State) : Out := .next (groupReduce .minI64 sa d s)

/-- GRED, maxI64. -/
def execGredMaxI64 (sa : Src) (d : Dst) (s : State) : Out := .next (groupReduce .maxI64 sa d s)

/-- GRED, minF32. -/
def execGredMinF32 (sa : Src) (d : Dst) (s : State) : Out := .next (groupReduce .minF32 sa d s)

/-- GRED, maxF32. -/
def execGredMaxF32 (sa : Src) (d : Dst) (s : State) : Out := .next (groupReduce .maxF32 sa d s)

/-- GRED, and. -/
def execGredAnd (sa : Src) (d : Dst) (s : State) : Out := .next (groupReduce .and sa d s)

/-- GRED, or. -/
def execGredOr (sa : Src) (d : Dst) (s : State) : Out := .next (groupReduce .or sa d s)

/-- GSCAN, addI64. -/
def execGscanAddI64 (sa : Src) (d : Dst) (s : State) : Out := .next (groupScan .addI64 sa d s)

/-- GSCAN, addF32. -/
def execGscanAddF32 (sa : Src) (d : Dst) (s : State) : Out := .next (groupScan .addF32 sa d s)

/-- GSCAN, maxI64. -/
def execGscanMaxI64 (sa : Src) (d : Dst) (s : State) : Out := .next (groupScan .maxI64 sa d s)

/-- GSCAN, maxF32. -/
def execGscanMaxF32 (sa : Src) (d : Dst) (s : State) : Out := .next (groupScan .maxF32 sa d s)

end Sys2Proof.Machine
end

