-- ==== Sys2Proof/Machine/RegRead.lean ====
section
/-!
DEFINITION. Machine/RegRead.lean: what a read of a register by the host or a steward returns (01 R14). A register whose read has a row
of its own in the opcode table has its event follow; of the others, SCHED_PRE alone is cleared by a read.
-/

namespace Sys2Proof.Machine

/-- A word from its fields: value and lowest bit. -/
def fieldsWord (fs : List (Nat × Nat)) : Word := BitVec.ofNat 32 (fs.foldl (fun n p => n + p.1 * 2 ^ p.2) 0)

/-- A field of one bit. -/
def bitField (b : Bool) (lo : Nat) : Nat × Nat := (if b then 1 else 0, lo)

/-- MBX_STAT (04 R90). -/
def Hub.mbxStat (h : Hub) : Word :=
  fieldsWord [(h.outlen, 16), (h.result.toNat, 8), bitField h.ready 2, bitField (!h.evq.isEmpty) 1, bitField h.busy 0]

/-- A word of the payload buffer: zero while a command runs (04 R90). -/
def Hub.bufWord (h : Hub) (o : Nat) : Word := if h.busy then 0 else BitVec.ofNat 32 (leNat (h.buf.readAll (o / 4 * 4) 4))

/-- Mailbox registers and the payload buffer (04 R90); MBX_EVT_HI is popped by an event. -/
def Hub.readMbx (h : Hub) (o : Nat) : Word :=
  if 0x1000 ≤ o then h.bufWord (o - 0x1000)
  else
    match o with
    | 0x00 => fieldsWord [(h.len, 16), (h.opc.toNat, 0)]
    | 0x04 => h.mbxStat
    | 0x08 => fieldsWord [bitField h.irqen 1, bitField h.busy 0]
    | 0x10 => h.evtlo
    | _ => 0

/-- Registers of a command queue (04 R93). -/
def CmdQueue.read (c : CmdQueue) (o : Nat) : Word :=
  match o with
  | 0x00 => BitVec.ofNat 32 c.base
  | 0x04 => BitVec.ofNat 32 (c.base / 2 ^ 32)
  | 0x08 => fieldsWord [(c.ctx, 16), (c.logsize, 12), (c.die, 1), bitField c.en 0]
  | 0x0C => c.tail
  | 0x10 => c.head
  | 0x14 => fieldsWord [bitField c.badent 0]
  | _ => 0

/-- Registers of the power sequencer and of wear (01 R17, R31). -/
def State.readPower (s : State) (o : Nat) : Word :=
  let p := s.power
  match o with
  | 0x00 => p.cmd.setWidth 32
  | 0x04 => fieldsWord [bitField p.emerg 17, bitField p.fail 16, (p.failstep.toNat, 8), bitField (p.run != .none) 5, (p.step.toNat, 0)]
  | 0x08 => p.rail
  | 0x0C => p.pgood
  | 0x10 => p.rst
  | 0x14 => fieldsWord [(p.tmax.toNat, 24), (p.flow.toNat, 0)]
  | 0x100 => s.wear.idx.setWidth 32
  | 0x104 => s.wear.core
  | 0x108 => s.wear.bti
  | 0x10C => s.wear.em
  | _ => 0

/-- ALNK_CTL and ALNK_STAT of a port (02 R41). -/
def Port.read (x : Port) (o : Nat) : Word :=
  match o with
  | 0x00 => fieldsWord [(x.tmode, 3), (x.rate, 1), bitField x.en 0]
  | 0x04 => fieldsWord [bitField x.lock 2, bitField x.eqdone 1, bitField x.sig 0]
  | _ => 0

/-- AGRP_CTL, AGRP_STAT and AGRP_CRED of a link (02 R42). -/
def Link.read (x : Link) (o : Nat) : Word :=
  match o with
  | 0x0 => fieldsWord [bitField x.want 0]
  | 0x4 => fieldsWord [bitField x.proterr 14, bitField x.peerv 13, (x.peerpkg, 3), bitField x.peerdn 2, bitField x.half 1, bitField x.up 0]
  | 0xC => fieldsWord [(min x.cctl 255, 16), (min x.crep 255, 8), (min x.creq 255, 0)]
  | _ => 0

/-- Registers of the package (02 R43). -/
def Arm.read (a : Arm) (o : Nat) : Word :=
  match o with
  | 0x1000 => fieldsWord [(a.topo, 10), (a.pkgid, 0)]
  | 0x1004 => BitVec.ofNat 32 a.rtidx
  | 0x1008 =>
    let r : Route := aget {} a.routes a.rtidx
    fieldsWord [bitField r.valid 5, (r.group, 0)]
  | _ => 0

/-- PMAP_CFG and PMAP_SMAP (03 R53). -/
def MemSys.readMap (m : MemSys) (o : Nat) : Word :=
  match o with
  | 0x0 => fieldsWord [(m.span, 8), (m.live.toNat, 0)]
  | 0x4 => m.smap
  | _ => 0

/-- A replica register of an entry (18 R374). -/
def Replica.read (x : Replica) (o : Nat) : Word :=
  if o = 0x44 then x.va
  else if o = 0x48 then BitVec.ofNat 32 x.len
  else if o < 0x5C then BitVec.ofNat 32 (aget 0 x.pa ((o - 0x4C) / 4))
  else aget 0 x.peer ((o - 0x5C) / 4)

/-- Registers of contexts (05 R105; 18 R374). -/
def State.readCtx (s : State) (o : Nat) : Word :=
  let r := s.ctxregs
  let x := s.ctx r.idx
  match o with
  | 0x00 => BitVec.ofNat 32 r.idx
  | 0x04 => fieldsWord [(x.result, 8), (x.state.code, 6), (r.op, 0)]
  | 0x08 => BitVec.ofNat 32 x.ptroot
  | 0x0C => BitVec.ofNat 32 x.bufa
  | 0x10 => BitVec.ofNat 32 x.bufb
  | 0x14 => BitVec.ofNat 32 x.buflen
  | 0x18 => x.castWord
  | 0x1C => BitVec.ofNat 32 r.hostkid
  | 0x40 => BitVec.ofNat 32 r.repidx
  | _ => if 0x44 ≤ o ∧ o < 0x68 then (aget {} x.reps r.repidx : Replica).read o else 0

/-- The threads that are parked in LAUNCHW on a die. -/
def Sched.threads (x : Sched) : Nat := (x.parked.flatMap fun p => p.refs).length

/-- Registers of a die's scheduler (06 R139). -/
def State.readSched (s : State) (d o : Nat) : Word :=
  let x := s.sched d
  match o with
  | 0x00 => fieldsWord [bitField x.preen 8, (x.resv, 0)]
  | 0x04 => BitVec.ofNat 32 (s.storeUsed d)
  | 0x08 => BitVec.ofNat 32 (min 0xFFFF x.threads)
  | 0x0C => BitVec.ofNat 32 x.pre
  | _ => 0

/-- Registers of a die's fault queue (08 R169); PF_HI is popped by an event. -/
def State.readFault (s : State) (d o : Nat) : Word :=
  let f := s.faultsOf d
  match o with
  | 0x04 => f.valo
  | 0x08 => f.info
  | 0x0C => fieldsWord [bitField f.fail 16, (f.respid.toNat, 0)]
  | _ => 0

/-- Registers of a stack (03 R85); PLN_ERR and PLN_FQ_HI are read by events. -/
def Stack.read (k : Stack) (o : Nat) : Word :=
  match o with
  | 0x00 => fieldsWord [bitField k.tset 5, (k.phase, 0)]
  | 0x04 => fieldsWord [bitField k.busy 7, bitField k.fail 6, (k.lastph, 3)]
  | 0x08 => k.failch
  | 0x10 => fieldsWord [(k.idle, 24), (k.swapth, 0)]
  | 0x20 => fieldsWord [bitField k.en 31, (k.interval, 0)]
  | 0x24 => k.passes
  | 0x38 => k.fqlo
  | _ => 0

/-- What a register reads as; an offset that no register map names reads as zero.
DEDUCED, safe: notes/assumptions/94.md. -/
def State.registerWord (s : State) (o : Nat) : Word :=
  if 0x10000 ≤ o ∧ o < 0x12000 then s.hub.readMbx (o - 0x10000)
  else if 0x12000 ≤ o ∧ o < 0x12200 then (aget {} s.hub.cqs ((o - 0x12000) / 0x20) : CmdQueue).read (o % 0x20)
  else if 0x20000 ≤ o ∧ o < 0x20200 then s.readPower (o - 0x20000)
  else if 0x30000 ≤ o ∧ o < 0x30800 then (s.port ((o - 0x30000) / 0x20)).read (o % 0x20)
  else if 0x30800 ≤ o ∧ o < 0x30A00 then (s.link ((o - 0x30800) / 0x10)).read (o % 0x10)
  else if 0x30A00 ≤ o ∧ o < 0x31010 then s.arm.read (o - 0x30000)
  else if 0x40000 ≤ o ∧ o < 0x40008 then s.mem.readMap (o - 0x40000)
  else if 0x50000 ≤ o ∧ o < 0x50068 then s.readCtx (o - 0x50000)
  else if 0x60000 ≤ o ∧ o < 0x60100 then s.readSched ((o - 0x60000) / 0x40) (o % 0x40)
  else if 0x70000 ≤ o ∧ o < 0x70080 then s.readFault ((o - 0x70000) / 0x20) (o % 0x20)
  else if 0x100000 ≤ o ∧ o < 0x180000 then (s.mem.stack ((o - 0x100000) / 0x10000)).read (o % 0x10000)
  else 0

/-- The event of a register whose read has a row of its own in the opcode table. -/
def readEvent (o : Nat) : Option Event :=
  if o = 0x1000C then some (event .mbxEvtHiRead)
  else if o = 0x20110 then some (event .pwearEvtRead)
  else if 0x30000 ≤ o ∧ o < 0x30800 ∧ o % 0x20 = 8 then some (event .alnkErrRead { port := (o - 0x30000) / 0x20 })
  else if 0x30800 ≤ o ∧ o < 0x30A00 ∧ o % 0x10 = 8 then some (event .agrpRetryRead { link := (o - 0x30800) / 0x10 })
  else if 0x70000 ≤ o ∧ o < 0x70080 ∧ o % 0x20 = 0 then some (event .pfHiRead { die := (o - 0x70000) / 0x20 })
  else if 0x100000 ≤ o ∧ o < 0x180000 ∧ o % 0x10000 = 0x30 then some (event .plnErrRead { stack := (o - 0x100000) / 0x10000 })
  else if 0x100000 ≤ o ∧ o < 0x180000 ∧ o % 0x10000 = 0x3C then some (event .plnFqHiRead { stack := (o - 0x100000) / 0x10000 })
  else none

/-- What a read of a register clears, but for those with an event of their own: the count of SCHED_PRE (06 R139). -/
def State.clearRead (s : State) (o : Nat) : State :=
  if 0x60000 ≤ o ∧ o < 0x60100 ∧ o % 0x40 = 0x0C then s.modSched ((o - 0x60000) / 0x40) fun x => { x with pre := 0 } else s

/-- A read of a register at an offset of the register space. -/
def State.readRegister (s : State) (o : Nat) : State :=
  match readEvent o with
  | some e => s.prepend [e]
  | none => (s.readBack (s.registerWord o)).clearRead o

end Sys2Proof.Machine
end

