-- ==== Sys2Proof/Machine/Registers.lean ====
section
/-!
DEFINITION. Machine/Registers.lean: writes of registers by the host or a steward (01 R14). A register whose write has a row of its own
in the opcode table has its event follow.
-/

namespace Sys2Proof.Machine

/-- The mailbox command of an OPC (04 R91; 05 R117). -/
def mbxInstr (opc : Nat) : Option Instr :=
  match opc with
  | 1 => some .ident
  | 2 => some .attest
  | 3 => some .getlog
  | 4 => some .getrec
  | 5 => some .clralt
  | 6 => some .setfab
  | 7 => some .fwwrite
  | 8 => some .raisesvn
  | 9 => some .ctxrep
  | _ => none

/-- GO (04 R90): ignored while a command runs; an unknown command ends at once. -/
def State.mbxGo (s : State) : State :=
  if s.hub.busy then s
  else
    let s := s.modHub fun h => { h with busy := true }
    match mbxInstr s.hub.opc.toNat with
    | some i => s.prepend [event i]
    | none => s.mbxDone 1 []

/-- Mailbox registers and the payload buffer (04 R90). -/
def State.writeMbx (s : State) (o : Nat) (v : Word) : State :=
  if 0x1000 ≤ o then
    (if s.hub.busy then s
     else s.modHub fun h => { h with buf := h.buf.writeAll ((o - 0x1000) / 4 * 4) (wordBytes v) })
  else
    match o with
    | 0x00 => s.modHub fun h => { h with len := bitsOf v 31 16, opc := BitVec.ofNat 8 (bitsOf v 7 0) }
    | 0x08 =>
      let s := s.modHub fun h => { h with irqen := v.getLsbD 1 }
      if v.getLsbD 0 then s.mbxGo else s
    | _ => s

/-- CQ_CFG (04 R93): only EN can change while EN is 1. -/
def CmdQueue.config (c : CmdQueue) (v : Word) : CmdQueue :=
  if c.en then { c with en := v.getLsbD 0 }
  else { c with ctx := bitsOf v 23 16, logsize := bitsOf v 15 12, die := bitsOf v 2 1, en := v.getLsbD 0 }

/-- Registers of a command queue (04 R93). -/
def State.writeCq (s : State) (q o : Nat) (v : Word) : State :=
  s.modCq q fun c =>
    match o with
    | 0x00 => if c.en then c else { c with base := c.base / 2 ^ 32 * 2 ^ 32 + v.toNat / 64 * 64 }
    | 0x04 => if c.en then c else { c with base := c.base % 2 ^ 32 + bitsOf v 6 0 * 2 ^ 32 }
    | 0x08 => c.config v
    | 0x0C => { c with tail := v }
    | 0x14 => if v.getLsbD 0 then { c with badent := false } else c
    | _ => c

/-- Registers of the power sequencer and of wear (01 R17, R31).
DEDUCED, unsafe: notes/assumptions/81.md. -/
def State.writePower (s : State) (o : Nat) (v : Word) : State :=
  match o with
  | 0x00 =>
    let n := bitsOf v 1 0
    if n = 1 then s.prepend [event .powerUp] else if n = 2 then s.prepend [event .powerDown] else s
  | 0x04 => s.modPower fun p => { p with emerg := p.emerg && !v.getLsbD 17, fail := p.fail && !v.getLsbD 16 }
  | 0x08 => s.modPower fun p => { p with rail := v &&& 0x00FFFFFF }
  | 0x10 => s.modPower fun p => { p with rst := v &&& 0x00FF00FF }
  | 0x100 => s.prepend [event .pwearIdxWrite { val := v }]
  | _ => s

/-- Registers of a link (02 R42). -/
def State.writeGroup (s : State) (g o : Nat) (v : Word) : State :=
  match o with
  | 0x0 => s.prepend [event (if v.getLsbD 0 then .linkUp else .linkDown) { link := g }]
  | 0x4 => s.modLink g fun l => { l with proterr := l.proterr && !v.getLsbD 14, peerdn := l.peerdn && !v.getLsbD 2 }
  | 0x8 => s.modLink g fun l => { l with limit := bitsOf v 19 16 }
  | _ => s

/-- Registers of the package (02 R43). -/
def State.writeArm (s : State) (o : Nat) (v : Word) : State :=
  let a := s.arm
  match o with
  | 0x1000 =>
    if a.links.any fun p => p.2.up then s
    else
      let s := { s with arm := { a with topo := if bitsOf v 11 10 = 3 then a.topo else bitsOf v 11 10, pkgid := bitsOf v 9 0 } }
      (akeys a.links).foldl (fun s g => s.comeUp g) s
  | 0x1004 => { s with arm := { a with rtidx := bitsOf v 9 0 } }
  | 0x1008 =>
    let r : Route := { valid := v.getLsbD 5, group := bitsOf v 4 0 }
    { s with arm := { a with routes := if r = {} then adel a.routes a.rtidx else aset a.routes a.rtidx r } }
  | _ => s

/-- Registers of the Armature (02 R41 to R43). -/
def State.writeFabric (s : State) (o : Nat) (v : Word) : State :=
  if o < 0x800 then (if o % 0x20 = 0 then s.portControl (o / 0x20) v else s)
  else if o < 0xA00 then s.writeGroup ((o - 0x800) / 0x10) (o % 0x10) v
  else s.writeArm o v

/-- CTX_CTL (05 R105): ignored while an operation runs. -/
def State.writeCtxCtl (s : State) (v : Word) : State :=
  let n := bitsOf v 2 0
  let c := s.ctxregs.idx
  if s.ctxregs.op ≠ 0 then s
  else
    match (match n with
      | 1 => some Instr.ctxCreate
      | 2 => some .ctxDestroy
      | 3 => some .ctxRestore
      | _ => none) with
    | some i => { s with ctxregs := { s.ctxregs with op := n } }.prepend [event i { ctx := c }]
    | none => s

/-- A replica register of the selected entry (18 R374). -/
def Replica.write (x : Replica) (o : Nat) (v : Word) : Replica :=
  if o = 0x44 then { x with va := v }
  else if o = 0x48 then { x with len := bitsOf v 15 0 }
  else if o < 0x5C then { x with pa := aset x.pa ((o - 0x4C) / 4) (bitsOf v 17 0) }
  else { x with peer := aset x.peer ((o - 0x5C) / 4) (v &&& 0x8FFFFFFF) }

/-- The registers of a context that take effect only while it is free (05 R105; 18 R374). -/
def Ctx.write (x : Ctx) (repidx o : Nat) (v : Word) : Ctx :=
  match o with
  | 0x08 => { x with ptroot := bitsOf v 22 0 }
  | 0x0C => { x with bufa := bitsOf v 22 0 }
  | 0x10 => { x with bufb := bitsOf v 22 0 }
  | 0x14 => { x with buflen := bitsOf v 15 0 }
  | _ => if 0x44 ≤ o ∧ o < 0x68 then { x with reps := amod {} x.reps repidx fun r => r.write o v } else x

/-- Registers of contexts (05 R105; 18 R374). -/
def State.writeCtx (s : State) (o : Nat) (v : Word) : State :=
  let r := s.ctxregs
  match o with
  | 0x00 => if r.op ≠ 0 then s else { s with ctxregs := { r with idx := bitsOf v 7 0 } }
  | 0x04 => s.writeCtxCtl v
  | 0x1C => if bitsOf v 7 0 = 0 then s else { s with ctxregs := { r with hostkid := bitsOf v 7 0 } }
  | 0x40 => { s with ctxregs := { r with repidx := bitsOf v 2 0 } }
  | _ => if (s.ctx r.idx).state = .free then s.modCtx r.idx fun x => x.write r.repidx o v else s

/-- SCHED_CFG of a die (06 R139). -/
def State.writeSched (s : State) (d o : Nat) (v : Word) : State :=
  if o = 0 then s.modSched d fun x => { x with preen := v.getLsbD 8, resv := bitsOf v 4 0 } else s

/-- PF_RESP of a die (08 R169). -/
def State.writeFault (s : State) (d o : Nat) (v : Word) : State :=
  if o = 0x0C then
    s.prepend [event (if v.getLsbD 16 then .pfRespFail else .pfRespReplay) { die := d, id := bitsOf v 7 0 }]
  else s

/-- Registers of a stack (03 R85). -/
def State.writeStack (s : State) (p o : Nat) (v : Word) : State :=
  let set (f : Stack → Stack) : State := s.modMem fun m => m.modStack p f
  match o with
  | 0x00 =>
    match phaseInstr (bitsOf v 2 0) with
    | some i => s.prepend [event i { stack := p, val := v }]
    | none => set fun k => { k with tset := v.getLsbD 5, phase := if bitsOf v 2 0 = 7 then k.phase else 0 }
  | 0x04 => set fun k => { k with fail := k.fail && !v.getLsbD 6 }
  | 0x10 => set fun k => { k with idle := bitsOf v 31 24, swapth := bitsOf v 15 0 }
  | 0x20 => set fun k => { k with en := v.getLsbD 31, interval := bitsOf v 15 0 }
  | _ => s

/-- A write of a register at an offset of the register space. An offset that no register map names is ignored.
DEDUCED, safe: notes/assumptions/94.md. -/
def State.writeRegister (s : State) (o : Nat) (v : Word) : State :=
  if 0x10000 ≤ o ∧ o < 0x12000 then s.writeMbx (o - 0x10000) v
  else if 0x12000 ≤ o ∧ o < 0x12200 then s.writeCq ((o - 0x12000) / 0x20) (o % 0x20) v
  else if 0x20000 ≤ o ∧ o < 0x20200 then s.writePower (o - 0x20000) v
  else if 0x30000 ≤ o ∧ o < 0x31010 then s.writeFabric (o - 0x30000) v
  else if 0x50000 ≤ o ∧ o < 0x50068 then s.writeCtx (o - 0x50000) v
  else if 0x60000 ≤ o ∧ o < 0x60100 then s.writeSched ((o - 0x60000) / 0x40) (o % 0x40) v
  else if 0x70000 ≤ o ∧ o < 0x70080 then s.writeFault ((o - 0x70000) / 0x20) (o % 0x20) v
  else if 0x100000 ≤ o ∧ o < 0x180000 then s.writeStack ((o - 0x100000) / 0x10000) (o % 0x10000) v
  else s

/-- REGISTER_WRITE of `val` at offset `off`. With `keep` the access is a read of the register (01 R14), which has no row of its own
where the table does not name the register.
DEDUCED, safe: notes/assumptions/94.md. -/
def execRegisterWrite (s : State) : Out :=
  .next (if s.ev.keep then s.readRegister s.ev.off else s.writeRegister s.ev.off s.ev.val)

end Sys2Proof.Machine
end

