-- ==== Sys2Proof/Machine/Dispatch.lean ====
section
/-!
DEFINITION. Machine/Dispatch.lean: one arm for each operation of spec/opcode_table.json.
-/

namespace Sys2Proof.Machine

def exec (i : Instr) (s : State) : Host.Outcome State Fault Refusal :=
      match i with
      | .bra slot off => Sys2Proof.Machine.execBra slot off s
      | .brp p neg slot off => Sys2Proof.Machine.execBrp p neg slot off s
      | .call slot off => Sys2Proof.Machine.execCall slot off s
      | .brx sa => Sys2Proof.Machine.execBrx sa s
      | .callx sa => Sys2Proof.Machine.execCallx sa s
      | .ret sa => Sys2Proof.Machine.execRet sa s
      | .join => Sys2Proof.Machine.execJoin s
      | .conv => Sys2Proof.Machine.execConv s
      | .yield => Sys2Proof.Machine.execYield s
      | .exit => Sys2Proof.Machine.execExit s
      | .trapi imm => Sys2Proof.Machine.execTrapi imm s
      | .nop => Sys2Proof.Machine.execNop s
      | .movi imm d => Sys2Proof.Machine.execMovi imm d s
      | .movh1 imm d => Sys2Proof.Machine.execMovh1 imm d s
      | .movh2 imm d => Sys2Proof.Machine.execMovh2 imm d s
      | .movh3 imm d => Sys2Proof.Machine.execMovh3 imm d s
      | .put sa d => Sys2Proof.Machine.execPut sa d s
      | .sel sa sb p d => Sys2Proof.Machine.execSel sa sb p d s
      | .xacq k => Sys2Proof.Machine.execXacq k s
      | .xrel k => Sys2Proof.Machine.execXrel k s
      | .iadd sa sb d => Sys2Proof.Machine.execIadd sa sb d s
      | .isub sa sb d => Sys2Proof.Machine.execIsub sa sb d s
      | .imul sa sb d => Sys2Proof.Machine.execImul sa sb d s
      | .imulhI64 sa sb d => Sys2Proof.Machine.execImulhI64 sa sb d s
      | .imulhW64 sa sb d => Sys2Proof.Machine.execImulhW64 sa sb d s
      | .imad sa sb d => Sys2Proof.Machine.execImad sa sb d s
      | .idivI64 sa sb d => Sys2Proof.Machine.execIdivI64 sa sb d s
      | .idivW64 sa sb d => Sys2Proof.Machine.execIdivW64 sa sb d s
      | .iremI64 sa sb d => Sys2Proof.Machine.execIremI64 sa sb d s
      | .iremW64 sa sb d => Sys2Proof.Machine.execIremW64 sa sb d s
      | .iminI64 sa sb d => Sys2Proof.Machine.execIminI64 sa sb d s
      | .iminW64 sa sb d => Sys2Proof.Machine.execIminW64 sa sb d s
      | .imaxI64 sa sb d => Sys2Proof.Machine.execImaxI64 sa sb d s
      | .imaxW64 sa sb d => Sys2Proof.Machine.execImaxW64 sa sb d s
      | .iabs sa d => Sys2Proof.Machine.execIabs sa d s
      | .ilogAnd sa sb d => Sys2Proof.Machine.execIlogAnd sa sb d s
      | .ilogOr sa sb d => Sys2Proof.Machine.execIlogOr sa sb d s
      | .ilogXor sa sb d => Sys2Proof.Machine.execIlogXor sa sb d s
      | .ilogAndn sa sb d => Sys2Proof.Machine.execIlogAndn sa sb d s
      | .ishfShl sa sb d => Sys2Proof.Machine.execIshfShl sa sb d s
      | .ishfShr sa sb d => Sys2Proof.Machine.execIshfShr sa sb d s
      | .ishfSar sa sb d => Sys2Proof.Machine.execIshfSar sa sb d s
      | .ishfRol sa sb d => Sys2Proof.Machine.execIshfRol sa sb d s
      | .lea sa sb d => Sys2Proof.Machine.execLea sa sb d s
      | .ibitPopc sa d => Sys2Proof.Machine.execIbitPopc sa d s
      | .ibitClz sa d => Sys2Proof.Machine.execIbitClz sa d s
      | .ibitCtz sa d => Sys2Proof.Machine.execIbitCtz sa d s
      | .ibitBrev sa d => Sys2Proof.Machine.execIbitBrev sa d s
      | .bfxI64 sa sb d => Sys2Proof.Machine.execBfxI64 sa sb d s
      | .bfxW64 sa sb d => Sys2Proof.Machine.execBfxW64 sa sb d s
      | .bfi sa sb d => Sys2Proof.Machine.execBfi sa sb d s
      | .iaddi sa imm d => Sys2Proof.Machine.execIaddi sa imm d s
      | .ilogiAnd sa imm d => Sys2Proof.Machine.execIlogiAnd sa imm d s
      | .ilogiOr sa imm d => Sys2Proof.Machine.execIlogiOr sa imm d s
      | .ilogiXor sa imm d => Sys2Proof.Machine.execIlogiXor sa imm d s
      | .ilogiAndn sa imm d => Sys2Proof.Machine.execIlogiAndn sa imm d s
      | .ishfiShl sa imm d => Sys2Proof.Machine.execIshfiShl sa imm d s
      | .ishfiShr sa imm d => Sys2Proof.Machine.execIshfiShr sa imm d s
      | .ishfiSar sa imm d => Sys2Proof.Machine.execIshfiSar sa imm d s
      | .ishfiRol sa imm d => Sys2Proof.Machine.execIshfiRol sa imm d s
      | .iext sa imm d => Sys2Proof.Machine.execIext sa imm d s
      | .icmpEq sa sb ps pd => Sys2Proof.Machine.execIcmpEq sa sb ps pd s
      | .icmpNe sa sb ps pd => Sys2Proof.Machine.execIcmpNe sa sb ps pd s
      | .icmpLtI64 sa sb ps pd => Sys2Proof.Machine.execIcmpLtI64 sa sb ps pd s
      | .icmpLeI64 sa sb ps pd => Sys2Proof.Machine.execIcmpLeI64 sa sb ps pd s
      | .icmpLtW64 sa sb ps pd => Sys2Proof.Machine.execIcmpLtW64 sa sb ps pd s
      | .icmpLeW64 sa sb ps pd => Sys2Proof.Machine.execIcmpLeW64 sa sb ps pd s
      | .fcmpEqF32 sa sb ps pd => Sys2Proof.Machine.execFcmpEqF32 sa sb ps pd s
      | .fcmpNeF32 sa sb ps pd => Sys2Proof.Machine.execFcmpNeF32 sa sb ps pd s
      | .fcmpLtF32 sa sb ps pd => Sys2Proof.Machine.execFcmpLtF32 sa sb ps pd s
      | .fcmpLeF32 sa sb ps pd => Sys2Proof.Machine.execFcmpLeF32 sa sb ps pd s
      | .fcmpUnF32 sa sb ps pd => Sys2Proof.Machine.execFcmpUnF32 sa sb ps pd s
      | .fcmpEqF64 sa sb ps pd => Sys2Proof.Machine.execFcmpEqF64 sa sb ps pd s
      | .fcmpNeF64 sa sb ps pd => Sys2Proof.Machine.execFcmpNeF64 sa sb ps pd s
      | .fcmpLtF64 sa sb ps pd => Sys2Proof.Machine.execFcmpLtF64 sa sb ps pd s
      | .fcmpLeF64 sa sb ps pd => Sys2Proof.Machine.execFcmpLeF64 sa sb ps pd s
      | .fcmpUnF64 sa sb ps pd => Sys2Proof.Machine.execFcmpUnF64 sa sb ps pd s
      | .plogAnd pa ps pd => Sys2Proof.Machine.execPlogAnd pa ps pd s
      | .plogOr pa ps pd => Sys2Proof.Machine.execPlogOr pa ps pd s
      | .plogXor pa ps pd => Sys2Proof.Machine.execPlogXor pa ps pd s
      | .plogAndn pa ps pd => Sys2Proof.Machine.execPlogAndn pa ps pd s
      | .voteAny sa ps pd => Sys2Proof.Machine.execVoteAny sa ps pd s
      | .voteAll sa ps pd => Sys2Proof.Machine.execVoteAll sa ps pd s
      | .voteBallot sa ps => Sys2Proof.Machine.execVoteBallot sa ps s
      | .pmovRp sa ps pd => Sys2Proof.Machine.execPmovRp sa ps pd s
      | .pmovPr => Sys2Proof.Machine.execPmovPr s
      | .fadd sa sb rm d => Sys2Proof.Machine.execFadd sa sb rm d s
      | .fsub sa sb rm d => Sys2Proof.Machine.execFsub sa sb rm d s
      | .fmul sa sb rm d => Sys2Proof.Machine.execFmul sa sb rm d s
      | .fmin sa sb d => Sys2Proof.Machine.execFmin sa sb d s
      | .fmax sa sb d => Sys2Proof.Machine.execFmax sa sb d s
      | .fsgnCp sa sb d => Sys2Proof.Machine.execFsgnCp sa sb d s
      | .fsgnCpn sa sb d => Sys2Proof.Machine.execFsgnCpn sa sb d s
      | .fsgnX sa sb d => Sys2Proof.Machine.execFsgnX sa sb d s
      | .frnd sa rm d => Sys2Proof.Machine.execFrnd sa rm d s
      | .hadd2F16 sa sb rm d => Sys2Proof.Machine.execHadd2F16 sa sb rm d s
      | .hadd2Bf16 sa sb rm d => Sys2Proof.Machine.execHadd2Bf16 sa sb rm d s
      | .hmul2F16 sa sb rm d => Sys2Proof.Machine.execHmul2F16 sa sb rm d s
      | .hmul2Bf16 sa sb rm d => Sys2Proof.Machine.execHmul2Bf16 sa sb rm d s
      | .fpctl sa d => Sys2Proof.Machine.execFpctl sa d s
      | .ffma sa sb sc rm d => Sys2Proof.Machine.execFfma sa sb sc rm d s
      | .hfma2F16 sa sb sc rm d => Sys2Proof.Machine.execHfma2F16 sa sb sc rm d s
      | .hfma2Bf16 sa sb sc rm d => Sys2Proof.Machine.execHfma2Bf16 sa sb sc rm d s
      | .dfma sa sb sc rm d => Sys2Proof.Machine.execDfma sa sb sc rm d s
      | .dadd sa sb rm d => Sys2Proof.Machine.execDadd sa sb rm d s
      | .dmul sa sb rm d => Sys2Proof.Machine.execDmul sa sb rm d s
      | .frcp sa rm d => Sys2Proof.Machine.execFrcp sa rm d s
      | .frsq sa rm d => Sys2Proof.Machine.execFrsq sa rm d s
      | .fsqrt sa rm d => Sys2Proof.Machine.execFsqrt sa rm d s
      | .fex2 sa rm d => Sys2Proof.Machine.execFex2 sa rm d s
      | .flg2 sa rm d => Sys2Proof.Machine.execFlg2 sa rm d s
      | .fsin sa rm d => Sys2Proof.Machine.execFsin sa rm d s
      | .fcos sa rm d => Sys2Proof.Machine.execFcos sa rm d s
      | .ftanh sa rm d => Sys2Proof.Machine.execFtanh sa rm d s
      | .cvt dty sty sa rm d => Sys2Proof.Machine.execCvt dty sty sa rm d s
      | .qpack ty sa rm d => Sys2Proof.Machine.execQpack ty sa rm d s
      | .qunpk ty sa rm d => Sys2Proof.Machine.execQunpk ty sa rm d s
      | .amax ty sa d => Sys2Proof.Machine.execAmax ty sa d s
      | .dot4 ty sa rm d => Sys2Proof.Machine.execDot4 ty sa rm d s
      | .dot4Sc ty sa rm d => Sys2Proof.Machine.execDot4Sc ty sa rm d s
      | .fmtw fr sa => Sys2Proof.Machine.execFmtw fr sa s
      | .fmtr fr d => Sys2Proof.Machine.execFmtr fr d s
      | .seed sa => Sys2Proof.Machine.execSeed sa s
      | .qswp1 sa d => Sys2Proof.Machine.execQswp1 sa d s
      | .qswp2 sa d => Sys2Proof.Machine.execQswp2 sa d s
      | .qswp3 sa d => Sys2Proof.Machine.execQswp3 sa d s
      | .qbc sa sb d => Sys2Proof.Machine.execQbc sa sb d s
      | .qredAddI64 sa d => Sys2Proof.Machine.execQredAddI64 sa d s
      | .qredAddF32 sa d => Sys2Proof.Machine.execQredAddF32 sa d s
      | .qredMinI64 sa d => Sys2Proof.Machine.execQredMinI64 sa d s
      | .qredMaxI64 sa d => Sys2Proof.Machine.execQredMaxI64 sa d s
      | .qredMinF32 sa d => Sys2Proof.Machine.execQredMinF32 sa d s
      | .qredMaxF32 sa d => Sys2Proof.Machine.execQredMaxF32 sa d s
      | .qredAnd sa d => Sys2Proof.Machine.execQredAnd sa d s
      | .qredOr sa d => Sys2Proof.Machine.execQredOr sa d s
      | .shflIdx sa sb d => Sys2Proof.Machine.execShflIdx sa sb d s
      | .shflUp sa sb d => Sys2Proof.Machine.execShflUp sa sb d s
      | .shflDn sa sb d => Sys2Proof.Machine.execShflDn sa sb d s
      | .shflXor sa sb d => Sys2Proof.Machine.execShflXor sa sb d s
      | .gredAddI64 sa d => Sys2Proof.Machine.execGredAddI64 sa d s
      | .gredAddF32 sa d => Sys2Proof.Machine.execGredAddF32 sa d s
      | .gredMinI64 sa d => Sys2Proof.Machine.execGredMinI64 sa d s
      | .gredMaxI64 sa d => Sys2Proof.Machine.execGredMaxI64 sa d s
      | .gredMinF32 sa d => Sys2Proof.Machine.execGredMinF32 sa d s
      | .gredMaxF32 sa d => Sys2Proof.Machine.execGredMaxF32 sa d s
      | .gredAnd sa d => Sys2Proof.Machine.execGredAnd sa d s
      | .gredOr sa d => Sys2Proof.Machine.execGredOr sa d s
      | .gscanAddI64 sa d => Sys2Proof.Machine.execGscanAddI64 sa d s
      | .gscanAddF32 sa d => Sys2Proof.Machine.execGscanAddF32 sa d s
      | .gscanMaxI64 sa d => Sys2Proof.Machine.execGscanMaxI64 sa d s
      | .gscanMaxF32 sa d => Sys2Proof.Machine.execGscanMaxF32 sa d s
      | .ldI8 m fs sa off d => Sys2Proof.Machine.execLdI8 m fs sa off d s
      | .ldI16 m fs sa off d => Sys2Proof.Machine.execLdI16 m fs sa off d s
      | .ldI32 m fs sa off d => Sys2Proof.Machine.execLdI32 m fs sa off d s
      | .ldW8 m fs sa off d => Sys2Proof.Machine.execLdW8 m fs sa off d s
      | .ldW16 m fs sa off d => Sys2Proof.Machine.execLdW16 m fs sa off d s
      | .ldW32 m fs sa off d => Sys2Proof.Machine.execLdW32 m fs sa off d s
      | .ldB64 m fs sa off d => Sys2Proof.Machine.execLdB64 m fs sa off d s
      | .pref m fs sa off => Sys2Proof.Machine.execPref m fs sa off s
      | .stB8 m fs sa sb off => Sys2Proof.Machine.execStB8 m fs sa sb off s
      | .stB16 m fs sa sb off => Sys2Proof.Machine.execStB16 m fs sa sb off s
      | .stB32 m fs sa sb off => Sys2Proof.Machine.execStB32 m fs sa sb off s
      | .stB64 m fs sa sb off => Sys2Proof.Machine.execStB64 m fs sa sb off s
      | .stB128 m fs sa sb off => Sys2Proof.Machine.execStB128 m fs sa sb off s
      | .atomAdd m fs sa sb => Sys2Proof.Machine.execAtomAdd m fs sa sb s
      | .atomAnd m fs sa sb => Sys2Proof.Machine.execAtomAnd m fs sa sb s
      | .atomOr m fs sa sb => Sys2Proof.Machine.execAtomOr m fs sa sb s
      | .atomXor m fs sa sb => Sys2Proof.Machine.execAtomXor m fs sa sb s
      | .atomMinI32 m fs sa sb => Sys2Proof.Machine.execAtomMinI32 m fs sa sb s
      | .atomMaxI32 m fs sa sb => Sys2Proof.Machine.execAtomMaxI32 m fs sa sb s
      | .atomMinW32 m fs sa sb => Sys2Proof.Machine.execAtomMinW32 m fs sa sb s
      | .atomMaxW32 m fs sa sb => Sys2Proof.Machine.execAtomMaxW32 m fs sa sb s
      | .atomMinF32 m fs sa sb => Sys2Proof.Machine.execAtomMinF32 m fs sa sb s
      | .atomMaxF32 m fs sa sb => Sys2Proof.Machine.execAtomMaxF32 m fs sa sb s
      | .atomAddF32 m fs sa sb => Sys2Proof.Machine.execAtomAddF32 m fs sa sb s
      | .atomExch m fs sa sb => Sys2Proof.Machine.execAtomExch m fs sa sb s
      | .cas m fs sa sb qc => Sys2Proof.Machine.execCas m fs sa sb qc s
      | .redAdd m fs sa sb => Sys2Proof.Machine.execRedAdd m fs sa sb s
      | .redAnd m fs sa sb => Sys2Proof.Machine.execRedAnd m fs sa sb s
      | .redOr m fs sa sb => Sys2Proof.Machine.execRedOr m fs sa sb s
      | .redXor m fs sa sb => Sys2Proof.Machine.execRedXor m fs sa sb s
      | .redMinI32 m fs sa sb => Sys2Proof.Machine.execRedMinI32 m fs sa sb s
      | .redMaxI32 m fs sa sb => Sys2Proof.Machine.execRedMaxI32 m fs sa sb s
      | .redMinW32 m fs sa sb => Sys2Proof.Machine.execRedMinW32 m fs sa sb s
      | .redMaxW32 m fs sa sb => Sys2Proof.Machine.execRedMaxW32 m fs sa sb s
      | .redMinF32 m fs sa sb => Sys2Proof.Machine.execRedMinF32 m fs sa sb s
      | .redMaxF32 m fs sa sb => Sys2Proof.Machine.execRedMaxF32 m fs sa sb s
      | .redAddF32 m fs sa sb => Sys2Proof.Machine.execRedAddF32 m fs sa sb s
      | .wld m fs sa => Sys2Proof.Machine.execWld m fs sa s
      | .wlds m fs sa sb => Sys2Proof.Machine.execWlds m fs sa sb s
      | .wst m fs sa sb => Sys2Proof.Machine.execWst m fs sa sb s
      | .watom m fs sa sb aop => Sys2Proof.Machine.execWatom m fs sa sb aop s
      | .fence m fs => Sys2Proof.Machine.execFence m fs s
      | .mpol m fs sa => Sys2Proof.Machine.execMpol m fs sa s
      | .cctl m fs sa sb => Sys2Proof.Machine.execCctl m fs sa sb s
      | .mcst m fs sa sb => Sys2Proof.Machine.execMcst m fs sa sb s
      | .pchk m fs sa => Sys2Proof.Machine.execPchk m fs sa s
      | .binit b sa => Sys2Proof.Machine.execBinit b sa s
      | .barv b => Sys2Proof.Machine.execBarv b s
      | .barw b => Sys2Proof.Machine.execBarw b s
      | .bdrop b => Sys2Proof.Machine.execBdrop b s
      | .bwait b sa => Sys2Proof.Machine.execBwait b sa s
      | .btest b sa => Sys2Proof.Machine.execBtest b sa s
      | .bphase b => Sys2Proof.Machine.execBphase b s
      | .cbar => Sys2Proof.Machine.execCbar s
      | .gbar => Sys2Proof.Machine.execGbar s
      | .cpld h bar ben fs m sa => Sys2Proof.Machine.execCpld h bar ben fs m sa s
      | .cpst h bar ben fs m sa => Sys2Proof.Machine.execCpst h bar ben fs m sa s
      | .cpfill bar ben fs m sa => Sys2Proof.Machine.execCpfill bar ben fs m sa s
      | .tmma z fs acc hs cl => Sys2Proof.Machine.execTmma z fs acc hs cl s
      | .tmmaSc z fs acc hs cl imm => Sys2Proof.Machine.execTmmaSc z fs acc hs cl imm s
      | .tmms z fs acc hs cl nsel => Sys2Proof.Machine.execTmms z fs acc hs cl nsel s
      | .tzero z fs acc => Sys2Proof.Machine.execTzero z fs acc s
      | .tlda z fs acc hs => Sys2Proof.Machine.execTlda z fs acc hs s
      | .tdrain z fs acc hs cl => Sys2Proof.Machine.execTdrain z fs acc hs cl s
      | .tshape z fs => Sys2Proof.Machine.execTshape z fs s
      | .zset za fs sa => Sys2Proof.Machine.execZset za fs sa s
      | .zlog k za zb op fs => Sys2Proof.Machine.execZlog k za zb op fs s
      | .ztst za fs => Sys2Proof.Machine.execZtst za fs s
      | .hld k fs sa => Sys2Proof.Machine.execHld k fs sa s
      | .hset k za fs sa => Sys2Proof.Machine.execHset k za fs sa s
      | .hrd k za fs => Sys2Proof.Machine.execHrd k za fs s
      | .apgo fs sa sb => Sys2Proof.Machine.execApgo fs sa sb s
      | .gath dq m fs sa sb sz md => Sys2Proof.Machine.execGath dq m fs sa sb sz md s
      | .scat dq m fs sa sb md => Sys2Proof.Machine.execScat dq m fs sa sb md s
      | .dqsend dq fs sa sb => Sys2Proof.Machine.execDqsend dq fs sa sb s
      | .dqcnt dq fs => Sys2Proof.Machine.execDqcnt dq fs s
      | .gvalid dq fs => Sys2Proof.Machine.execGvalid dq fs s
      | .apwait fs => Sys2Proof.Machine.execApwait fs s
      | .chrun z fs acc hs cl => Sys2Proof.Machine.execChrun z fs acc hs cl s
      | .chpre fs hs cl => Sys2Proof.Machine.execChpre fs hs cl s
      | .chinv fs hs imm => Sys2Proof.Machine.execChinv fs hs imm s
      | .chrd fs hs cl => Sys2Proof.Machine.execChrd fs hs cl s
      | .coll m fs sa => Sys2Proof.Machine.execColl m fs sa s
      | .collst m fs sa => Sys2Proof.Machine.execCollst m fs sa s
      | .plc m fs sa => Sys2Proof.Machine.execPlc m fs sa s
      | .plfence fs => Sys2Proof.Machine.execPlfence fs s
      | .launch sa => Sys2Proof.Machine.execLaunch sa s
      | .launchw sa => Sys2Proof.Machine.execLaunchw sa s
      | .lstat sa imm => Sys2Proof.Machine.execLstat sa imm s
      | .castb => Sys2Proof.Machine.execCastb s
      | .castc => Sys2Proof.Machine.execCastc s
      | .castq => Sys2Proof.Machine.execCastq s
      | .errq sa => Sys2Proof.Machine.execErrq sa s
      | .sysrd imm => Sys2Proof.Machine.execSysrd imm s
      | .syswr sa imm => Sys2Proof.Machine.execSyswr sa imm s
      | .tlbinv sa imm => Sys2Proof.Machine.execTlbinv sa imm s
      | .trapret imm => Sys2Proof.Machine.execTrapret imm s
      | .wearrd imm => Sys2Proof.Machine.execWearrd imm s
      | .halt => Sys2Proof.Machine.execHalt s
      | .registerWrite => Sys2Proof.Machine.execRegisterWrite s
      | .powerUp => Sys2Proof.Machine.execPowerUp s
      | .powerDown => Sys2Proof.Machine.execPowerDown s
      | .powerUpStepDone => Sys2Proof.Machine.execPowerUpStepDone s
      | .powerUpStepLimit => Sys2Proof.Machine.execPowerUpStepLimit s
      | .powerDownStepDone => Sys2Proof.Machine.execPowerDownStepDone s
      | .junctionOvertemp => Sys2Proof.Machine.execJunctionOvertemp s
      | .flowLowExpiry => Sys2Proof.Machine.execFlowLowExpiry s
      | .startStepComplete => Sys2Proof.Machine.execStartStepComplete s
      | .patinaSample => Sys2Proof.Machine.execPatinaSample s
      | .lifetimeTableWrite => Sys2Proof.Machine.execLifetimeTableWrite s
      | .pwearIdxWrite => Sys2Proof.Machine.execPwearIdxWrite s
      | .pwearEvtRead => Sys2Proof.Machine.execPwearEvtRead s
      | .flitReceive => Sys2Proof.Machine.execFlitReceive s
      | .portLockLoss => Sys2Proof.Machine.execPortLockLoss s
      | .rdw => Sys2Proof.Machine.execRdw s
      | .rdo => Sys2Proof.Machine.execRdo s
      | .wrw => Sys2Proof.Machine.execWrw s
      | .atw => Sys2Proof.Machine.execAtw s
      | .evw => Sys2Proof.Machine.execEvw s
      | .invMsg => Sys2Proof.Machine.execInvMsg s
      | .mcw => Sys2Proof.Machine.execMcw s
      | .dataMsg => Sys2Proof.Machine.execDataMsg s
      | .doneMsg => Sys2Proof.Machine.execDoneMsg s
      | .invack => Sys2Proof.Machine.execInvack s
      | .wbk => Sys2Proof.Machine.execWbk s
      | .peerdn => Sys2Proof.Machine.execPeerdn s
      | .armIdent => Sys2Proof.Machine.execArmIdent s
      | .linkUp => Sys2Proof.Machine.execLinkUp s
      | .linkDown => Sys2Proof.Machine.execLinkDown s
      | .linkTrainStepDone => Sys2Proof.Machine.execLinkTrainStepDone s
      | .linkTrainStepLimit => Sys2Proof.Machine.execLinkTrainStepLimit s
      | .alnkErrRead => Sys2Proof.Machine.execAlnkErrRead s
      | .agrpRetryRead => Sys2Proof.Machine.execAgrpRetryRead s
      | .memoryPart => Sys2Proof.Machine.execMemoryPart s
      | .burstCycleIssue => Sys2Proof.Machine.execBurstCycleIssue s
      | .rowIdleClose => Sys2Proof.Machine.execRowIdleClose s
      | .refresh => Sys2Proof.Machine.execRefresh s
      | .refreshWindow => Sys2Proof.Machine.execRefreshWindow s
      | .rowSwap => Sys2Proof.Machine.execRowSwap s
      | .patrolBurst => Sys2Proof.Machine.execPatrolBurst s
      | .scrubWriteback => Sys2Proof.Machine.execScrubWriteback s
      | .homeReadShared => Sys2Proof.Machine.execHomeReadShared s
      | .homeReadForModification => Sys2Proof.Machine.execHomeReadForModification s
      | .homeWrite => Sys2Proof.Machine.execHomeWrite s
      | .homeAtomic => Sys2Proof.Machine.execHomeAtomic s
      | .homeWriteBack => Sys2Proof.Machine.execHomeWriteBack s
      | .l2Invalidation => Sys2Proof.Machine.execL2Invalidation s
      | .performAtDie => Sys2Proof.Machine.execPerformAtDie s
      | .writeApply => Sys2Proof.Machine.execWriteApply s
      | .mtrCalibration => Sys2Proof.Machine.execMtrCalibration s
      | .mtrCaTraining => Sys2Proof.Machine.execMtrCaTraining s
      | .mtrReadDeskew => Sys2Proof.Machine.execMtrReadDeskew s
      | .mtrWriteDeskew => Sys2Proof.Machine.execMtrWriteDeskew s
      | .mtrPatternTest => Sys2Proof.Machine.execMtrPatternTest s
      | .mtrInitialise => Sys2Proof.Machine.execMtrInitialise s
      | .mtrPhaseEnd => Sys2Proof.Machine.execMtrPhaseEnd s
      | .mtrPhaseLimit => Sys2Proof.Machine.execMtrPhaseLimit s
      | .plnErrRead => Sys2Proof.Machine.execPlnErrRead s
      | .plnFqHiRead => Sys2Proof.Machine.execPlnFqHiRead s
      | .hostMemRead => Sys2Proof.Machine.execHostMemRead s
      | .hostMemWrite => Sys2Proof.Machine.execHostMemWrite s
      | .hostSnoop => Sys2Proof.Machine.execHostSnoop s
      | .birsp => Sys2Proof.Machine.execBirsp s
      | .ident => Sys2Proof.Machine.execIdent s
      | .attest => Sys2Proof.Machine.execAttest s
      | .getlog => Sys2Proof.Machine.execGetlog s
      | .getrec => Sys2Proof.Machine.execGetrec s
      | .clralt => Sys2Proof.Machine.execClralt s
      | .setfab => Sys2Proof.Machine.execSetfab s
      | .fwwrite => Sys2Proof.Machine.execFwwrite s
      | .raisesvn => Sys2Proof.Machine.execRaisesvn s
      | .ctxrep => Sys2Proof.Machine.execCtxrep s
      | .mbxEvtHiRead => Sys2Proof.Machine.execMbxEvtHiRead s
      | .cqSubmit => Sys2Proof.Machine.execCqSubmit s
      | .cqNop => Sys2Proof.Machine.execCqNop s
      | .ctxCreate => Sys2Proof.Machine.execCtxCreate s
      | .ctxDestroy => Sys2Proof.Machine.execCtxDestroy s
      | .ctxRestore => Sys2Proof.Machine.execCtxRestore s
      | .castPoint => Sys2Proof.Machine.execCastPoint s
      | .castPageCopy => Sys2Proof.Machine.execCastPageCopy s
      | .dependencePoll => Sys2Proof.Machine.execDependencePoll s
      | .placementDecision => Sys2Proof.Machine.execPlacementDecision s
      | .reserving => Sys2Proof.Machine.execReserving s
      | .preemptSave => Sys2Proof.Machine.execPreemptSave s
      | .bundleFormation => Sys2Proof.Machine.execBundleFormation s
      | .launchEnd => Sys2Proof.Machine.execLaunchEnd s
      | .teamEnd => Sys2Proof.Machine.execTeamEnd s
      | .memoryReply => Sys2Proof.Machine.execMemoryReply s
      | .pfHiRead => Sys2Proof.Machine.execPfHiRead s
      | .pfRespReplay => Sys2Proof.Machine.execPfRespReplay s
      | .pfRespFail => Sys2Proof.Machine.execPfRespFail s
      | .launchAbort => Sys2Proof.Machine.execLaunchAbort s
      | .rollback => Sys2Proof.Machine.execRollback s
      | .copyComplete => Sys2Proof.Machine.execCopyComplete s
      | .tileSlabComplete => Sys2Proof.Machine.execTileSlabComplete s
      | .drainCaptureEnd => Sys2Proof.Machine.execDrainCaptureEnd s
      | .drainComplete => Sys2Proof.Machine.execDrainComplete s
      | .chiselCompileEnd => Sys2Proof.Machine.execChiselCompileEnd s
      | .gatherComplete => Sys2Proof.Machine.execGatherComplete s
      | .apBranchResolve => Sys2Proof.Machine.execApBranchResolve s
      | .plinthWordApply => Sys2Proof.Machine.execPlinthWordApply s
      | .collectiveMatch => Sys2Proof.Machine.execCollectiveMatch s
      | .collectiveComplete => Sys2Proof.Machine.execCollectiveComplete s
      | .auxiliaryPowerOn => Sys2Proof.Machine.execAuxiliaryPowerOn s
      | .powerLoss => Sys2Proof.Machine.execPowerLoss s

end Sys2Proof.Machine
end

