-- ==== Sys2Proof/Machine/Window.lean ====
section
/-!
DEFINITION. Machine/Window.lean: what the passing of a four-cycle window brings about when nothing else is to be done: wait counts
and readiness (06 R131), bundle formation in every lane array that holds threads (R132), the clocked decisions of the dispatchers
(R121, R127), the service of the command queues (04 R94), the scalar programs (12 R246; 14 R301), and the next event of whatever
is under way.
-/

namespace Sys2Proof.Machine

/-- The lane arrays that hold threads: core and lane array. -/
def State.laneArrays (s : State) : List (Nat × Nat) :=
  ((List.range 640).filter fun a => s.teams.any fun p => p.2.core = a / 4 ∧ p.2.groups.any fun g => g.la = a % 4).map
    fun a => (a / 4, a % 4)

/-- The scalar programs that run: access-processor contexts and stewards. -/
def State.scalars (s : State) : List Nat :=
  (s.threads.filter fun p =>
    match refKind p.1 with
    | .lane => false
    | .ap => (s.team (refTeam p.1)).ap.running && !p.2.skip
    | .steward => p.2.park = .none && !p.2.skip).map (·.1)

/-- A scalar program that yielded holds issue for one window (16 R330). -/
def clearYield (r : Nat) (t : Thread) : Thread := if refKind r = .lane then t else { t with skip := false }

/-- The wait counts after four cycles (06 R131): a live thread's count grows to at most 2^16 − 1; of a thread that issued in the
window, by the cycles since.
DESIGN CHOICE, unsafe: notes/assumptions/2.md. -/
def Thread.waited (t : Thread) : Thread :=
  if t.exited then t else { t with wait := min 0xFFFF (t.wait + (4 - t.late)), late := 0 }

/-! ## Readiness (06 R131) -/

/-- The threads of a team that are ready or not together (07 R143, R144). -/
def State.readyUnits (s : State) (u : Nat) (t : Team) : List (List Nat) :=
  (t.groups.zip (List.range 16)).flatMap fun p => s.unitsOf u t p.2 p.1

/-- Marks the threads of a unit: not ready for one that yielded in the window before (16 R330), is stopped, or waits. -/
def State.markUnit (s0 : State) (ex : Instr → State → Out) (s : State) (refs : List Nat) : State :=
  if !(refs.all s0.issuable) ∨ (refs.any fun r => (s0.thread r).skip) then
    refs.foldl (fun s r => s.modThread r fun t => { t with held := true, skip := false }) s
  else
    let (ok, es) := s0.probe ex refs
    (refs.foldl (fun s r => s.modThread r fun t => { t with held := !ok }) s).append es

/-- Marks every thread as ready or not at the start of the window. -/
def State.markReady (s : State) (ex : Instr → State → Out) : State :=
  (s.teams.flatMap fun p => s.readyUnits p.1 p.2).foldl (fun x refs => s.markUnit ex x refs) s

/-! ## The events of a window -/

/-- The sample of a core at a cycle, with what its sensors read then (01 R23). -/
def sampleEvent (cyc core : Nat) : Event :=
  event .patinaSample { core := core, words := (List.range 14).map fun i => Config.sensor cyc core i }

/-- The clock of a core runs: its rail is on and its reset released (01 R20), and it is not retired (R25). -/
def State.coreRuns (s : State) (c : Nat) : Bool :=
  s.power.rail.getLsbD (16 + dieOfCore c) && s.power.rst.getLsbD (16 + dieOfCore c) && (s.coreRec c).state != .retired

/-- The clocked events of a window that begins at a cycle. -/
def State.clocked (s : State) : List Event :=
  ((List.range 4).filter fun d => s.cyc % 2 ^ 16 = 0 && s.launches.any fun p => p.2.die = d).map
      (fun d => event .dependencePoll { die := d })
    ++ ((List.range 4).filter fun d => s.cyc % 64 = 0 && s.launches.any fun p => p.2.die = d).map
      (fun d => event .placementDecision { die := d })
    ++ (if s.cyc % 2 ^ 31 = 0 then ((List.range 160).filter s.coreRuns).map fun c => sampleEvent s.cyc c else [])

/-- The queue that the hub serves next (04 R94, R95): the enabled queues take turns. A queue is skipped for its full store before its
context is looked at.
DEDUCED, unsafe: notes/assumptions/88.md. -/
def State.nextQueue (s : State) : Option Nat :=
  ((List.range 16).map fun i => (s.hub.turn + i) % 16).find? fun q =>
    let c := aget {} s.hub.cqs q
    s.hub.hdm && c.waiting && (s.ctx c.ctx).state != .restoring && decide (s.storeUsed c.die < 4096)

/-- The event that carries a tile operation on: a drain that has captured writes, a CHRUN that has its program runs (12 R265). -/
def TileOp.event (o : TileOp) (id : Nat) : Event :=
  Machine.event (if o.captured then .drainComplete else if o.slab = 0 ∧ o.prog.isNone then o.kind.first else .tileSlabComplete)
    { id := id }

/-- The event that carries an operation on. -/
def opEvent (id : Nat) : Op → Event
  | .tile o => o.event id
  | .copy _ => event .copyComplete { id := id }
  | .plc _ => event .plinthWordApply { id := id }
  | .coll o => event (if o.matched then .collectiveComplete else .collectiveMatch) { id := id }
  | .gather _ => event .gatherComplete { id := id }

/-- An operation that no outstanding fault record holds. -/
def Op.free : Op → Bool
  | .tile o => o.fault.isNone
  | .copy o => o.fault.isNone
  | .coll o => o.fault.isNone
  | _ => true

/-- The events of operations under way. -/
def State.opEvents (s : State) : List Event := (s.ops.filter fun p => p.2.free).map fun p => opEvent p.1 p.2

/-- What a team waits to do: to be saved, rolled back or removed, or to end.
DEDUCED, safe: notes/assumptions/101.md. -/
def teamEvent (u : Nat) (t : Team) : Event :=
  match t.halt with
  | some .save => saveEvent t.launch t.coh
  | some (.roll c h _) => rollbackEvent u c h
  | some .abort => event .launchAbort { id := t.launch }
  | none => teamEndEvent u

/-- The events of teams and launches.
DEDUCED, safe: notes/assumptions/101.md. -/
def State.workEvents (s : State) : List Event :=
  s.teams.map (fun p => teamEvent p.1 p.2) ++ s.launches.map fun p => event .launchEnd { id := p.1 }

/-- The branches of access-processor programs that resolve: those that were unresolved in the window before. -/
def State.branchEvents (s : State) : List Event :=
  s.teams.flatMap fun p => (p.2.ap.branches.filter fun b => b.seen).map fun _ => event .apBranchResolve { id := p.1 }

/-- The events of Casts that are being built. -/
def State.castEvents (s : State) : List Event :=
  s.ctxs.flatMap fun p => match p.2.build with
    | some b => [event (if b.point then .castPageCopy else .castPoint) { ctx := p.1 }]
    | none => []

/-- The events by which a power-down and a start go on (01 R21; 04 R100), a context operation that waits
(05 R109), and row swaps that are queued (03 R71, R72). -/
def State.packageEvents (s : State) : List Event :=
  (if s.power.run = .down ∨ s.power.run = .emergency then [event .powerDownStepDone] else [])
    ++ (if s.hub.starting ∧ (s.hub.step = 10 ∨ s.hub.step = 14) then [event .startStepComplete] else [])
    ++ ((s.ctxs.filter fun p => p.2.state == .destroying).map fun p => event .ctxDestroy { ctx := p.1 })
    ++ (akeys s.mem.swapq).map fun c => event .rowSwap { ch := c }

/-- The full phases and the barriers of teams that wait only for accesses to be performed (09 R189, R196; 19 R393, R399), and the
rendezvous that wait for earlier instructions to be checked (07 R146), are judged again, as are the threads in EXIT and TLBINV. -/
def State.judgeWaits (s : State) : State :=
  s.teams.foldl (fun s p =>
    let s := ((s.settlePhase p.1).arriveOwed p.1).passBars p.1
    (List.range p.2.groups.length).foldl (fun s g => s.rendezvous p.1 g) s) s.leaveAll.tlbinvAll

/-- A word of a chain is a wait of a lane that the completed phase of b0 ends (25 R453): a BWAIT, or a BTEST that passes. -/
def ChainWord.waitsB0 (w : ChainWord) (s : State) (l : Lane) : Bool :=
  l.pre.pred w.guard && !l.pre.predPsn w.guard && (match w.instr with
    | .bwait b _ => b.val == 0
    | .btest b sa => b.val == 0 && (match readPhase 0 sa s l with
      | .ok vs => (s.barOf l 0).phase.getLsbD 0 != (argAt vs 0).getLsbD 0
      | .error _ => false)
    | _ => false)

/-- The chain at which a bundle's lanes stand waits for the completed phase of b0. -/
def State.atWait (s : State) (b : Bundle) : Bool :=
  match s.lanesOf b with
  | [] => false
  | l :: ls =>
    match s.fetchChain l.ref b.pc with
    | (.error _, _) => false
    | (.ok c, s) =>
      match checkChain .lane (s.allotOf (l :: ls)) c with
      | .error _ => false
      | .ok ws => (l :: ls).any fun k => ws.any fun w => w.waitsB0 s k

/-- The threads of a unit that wait in a BWAIT or BTEST for the completed phase of b0 pass it, if their chain completes in all of them
and does nothing beyond registers.
DEDUCED, unsafe: notes/assumptions/52.md. -/
def State.passUnit (s : State) (ex : Instr → State → Out) (u : Nat) (refs : List Nat) : State :=
  let s0 := s.modTeam u fun t => { t with shadow := false }
  let b : Bundle := { cycle := 0, pc := (s.thread (refs.headD 0)).pc, refs := refs }
  if !(refs.all s0.issuable) || !s0.atWait b then s
  else
    match tryBundle ex b s0 with
    | (.next t, lanes, false) =>
      if t.issue.left.isEmpty && t.issue.out.isEmpty && t.nextId == s.nextId && t.agenda == s.agenda && (t.team u).log.isEmpty then
        (t.finish lanes).modTeam u fun t => { t with shadow := true }
      else s
    | _ => s

/-- The waits in BWAIT and BTEST that the completed phase of b0 of a team ends. -/
def State.passWaits (s : State) (ex : Instr → State → Out) (u : Nat) : State :=
  (s.readyUnits u (s.team u)).foldl (fun s refs => s.passUnit ex u refs) s

/-- Takes the shadows that are due in teams that have drained (13 R280; 25 R453); the copies that came meanwhile then arrive.
DEDUCED, unsafe: notes/assumptions/52.md. -/
def State.takeShadows (s : State) (ex : Instr → State → Out) : State :=
  s.teams.foldl (fun s p =>
    if p.2.shadow ∧ p.2.halt != some Halt.abort ∧ s.drained p.1 then
      let s := (s.passWaits ex p.1).takeShadow p.1
      if ahas s.teams p.1 then s.arriveLate p.1 else s
    else s) s

/-- The passing of a window.
DESIGN CHOICE, unsafe: notes/assumptions/2.md. -/
def State.window (ex : Instr → State → Out) (s : State) : State :=
  let s := { s with cyc := s.cyc + 4, threads := amap s.threads fun _ t => t.waited }
  let s := (s.judgeWaits.takeShadows ex).markReady ex
  let es := s.laneArrays.map (fun p => event .bundleFormation { core := p.1, la := p.2 })
    ++ s.clocked ++ s.branchEvents ++ s.opEvents ++ s.workEvents ++ s.castEvents ++ s.packageEvents
    ++ (match s.nextQueue with
        | some q => [event .cqSubmit { queue := q }]
        | none => [])
  { s with agenda := s.agenda ++ es, threads := amap s.threads clearYield,
           bundles := s.scalars.map fun r => { cycle := 0, pc := (s.thread r).pc, refs := [r] },
           teams := amap s.teams fun _ t => { t with ap := { t.ap with branches := t.ap.branches.map fun b => { b with seen := true } } } }

end Sys2Proof.Machine
end

