-- ==== Sys2Proof/Machine/Place.lean ====
section
/-!
DEFINITION. Machine/Place.lean: a machine that is about to run one given instruction: one thread of one placed team, or the
access-processor program of that team, with the instruction in slot 1 of its packet. It stands for a load of a program from
outside, by the host (DESIGN CHOICE, unsafe: notes/assumptions/7.md).
-/

namespace Sys2Proof.Machine

/-- The physical word address at which the packet stands. -/
def placeW : Nat := 16384

/-- The virtual address of the packet. -/
def placeVa : Nat := 65536

/-- The header of the packet: a clause start with no flags and no waits (14 R285). -/
def placeHeader : Word := 0x4003FC00

/-- A cached instruction word. -/
def placeWord (w : Nat) (d : Word) : CWord := { d := d, c := encodeCheck (sigOf w) d }

/-- The team that runs it: one group on lane array 0 of core 0.
DESIGN CHOICE, unsafe: notes/assumptions/7.md. -/
def placeTeam (ap : Bool) : Team :=
  { launch := 1, ctx := 1, core := 0, tid := 0, coh := 0, ix := 0, slot := 0, nbars := 16, accs := 32,
    groups := [{ la := 0, slot := 0, conv := true }],
    ap := { running := ap } }

/-- The translation of the packet's page. -/
def placeTlb : TlbEntry := { ctx := 1, va := placeVa, size := 65536, pa := 4 * placeW, w := true, x := true, host := false, use := 0 }

/-- The 64 KiB page of the page-table root. -/
def placeRoot : Nat := 2

/-- The unit of the first entries of the table at level n. -/
def tableUnit (n : Nat) : Nat := placeRoot * 256 + 16 * (4 - n)

/-- A unit of page-table words that holds the given entries from its first on. -/
def tableWords (n : Nat) (es : List Nat) : CUnit :=
  let ws : List Word := es.flatMap fun e => [BitVec.ofNat 32 e, BitVec.ofNat 32 (e / 2 ^ 32)]
  { kid := 1, words := (ws.zip (List.range ws.length)).map fun p => (p.2, placeWord (tableUnit n * 64 + p.2) p.1) }

/-- The tables of the context (08 R162), which map the packet's page in its 16 entries and nothing else, as the die's L2 holds
them. -/
def placeTables : List (Nat × CUnit) :=
  ([4, 3, 2, 1].map fun n => (l2Key 0 (tableUnit n), tableWords n [tableUnit (n - 1) * 256 + 1]))
    ++ [(l2Key 0 (tableUnit 0), tableWords 0 (List.replicate 16 0 ++ List.replicate 16 (4 * placeW + 0x2F)))]

/-- An instruction that only an access-processor program executes (14 R301; 20 R416). -/
def scalarOnly : Instr → Bool
  | .gath .. => true
  | .scat .. => true
  | .dqsend .. => true
  | _ => false

/-- A machine whose next step runs the instruction of the given word; `ap` picks the access-processor program.
DESIGN CHOICE, unsafe: notes/assumptions/7.md. -/
def placeWith (s : State) (ap : Bool) (w : Word) : State :=
  let pc : BitVec 57 := BitVec.ofNat 57 (placeVa + 4)
  let live : Thread := { pc := pc }
  let gone : Thread := { pc := pc, exited := true }
  let lanes : AMap Thread := (List.range 32).map fun l => (laneRef 1 0 l, if l = 0 then live else gone)
  let threads : AMap Thread := if ap then (apRef 1, live) :: lanes else lanes
  let words : AMap CWord := [(0, placeWord placeW placeHeader), (1, placeWord (placeW + 1) w), (2, placeWord (placeW + 2) 0),
                             (3, placeWord (placeW + 3) 0)]
  { s with
    ctxs := aset s.ctxs 1 { state := .live, key := some 1, ptroot := placeRoot }
    launches := aset s.launches 1 { noLaunch with ctx := 1, rc := { noRec with trap := BitVec.ofNat 64 placeVa } }
    teams := aset s.teams 1 (placeTeam ap)
    threads := threads.foldl (fun m p => aset m p.1 p.2) s.threads
    tlbs := aset s.tlbs (if ap then 2 else 3) [placeTlb]
    mem := { s.mem with l2 := aset (placeTables.foldl (fun m p => aset m p.1 p.2) s.mem.l2) (l2Key 0 (placeW / 64)) { kid := 1, words := words } }
    agenda := []
    bundles := [{ cycle := 0, pc := pc, refs := [if ap then apRef 1 else laneRef 1 0 0] }] }

end Sys2Proof.Machine
end

