-- ==== Sys2Proof/Machine/Step.lean ====
section
/-!
DEFINITION. Machine/Step.lean: one step of the machine. The event at the head of the agenda runs; when the agenda is empty, the
oldest bundle issues; when none is formed, a window of four cycles passes.
-/

namespace Sys2Proof.Machine

/-- One step.
DESIGN CHOICE, unsafe: notes/assumptions/5.md. -/
def step (s : State) : Host.Outcome State Fault Refusal :=
  match s.agenda with
  | e :: rest => exec e.op { s with agenda := rest, ev := e.arg }
  | [] =>
    match s.bundles with
    | b :: rest => runBundle exec b { s with bundles := rest }
    | [] => .next (s.window exec)

/-- The state in which the next step runs the instruction of a given word. -/
def State.withFetchWord (s : State) (nbits w : Nat) : State :=
  placeWith s (match decodeTableWord nbits w with
    | some i => scalarOnly i
    | none => false) (BitVec.ofNat 32 (w % 2 ^ nbits))

end Sys2Proof.Machine
end

