-- ==== Sys2Proof/Safety.lean ====
section
/-!
DEFINITION. Safety.lean: what counts as a safe step, and the words in which claims say what an instruction does to the lanes of
its bundle and what it leaves alone.
-/

namespace Sys2Proof.Machine

/-- The machine goes on: the step ends in no fault and no refusal. -/
def Safe (o : Host.Outcome State Fault Refusal) : Prop := ∃ t, o = .next t

/-- The byte memories of the package are in canonical form: device memory, host memory, the mailbox's payload buffer and the
stewards' private memories. -/
def State.memoriesWf (s : State) : Prop :=
  Memory.wf s.mem.data = true ∧ Memory.wf s.mem.hostmem = true ∧ Memory.wf s.hub.buf = true
    ∧ ∀ p ∈ s.hub.sram, Memory.wf p.2 = true

/-! ## The lanes of a bundle -/

/-- An event that a lane causes acts when its chain completes; after the publication of a log, where the lane's access follows one
(09 R203). -/
def State.causes (s : State) (r : Nat) (e : Event) : Prop :=
  (r, e) ∈ s.issue.out ∨ ∃ id, (r, id) ∈ s.issue.hold ∧ e ∈ aget [] s.after id

/-- The places of a bundle's lanes. -/
def State.bundleRefs (s : State) : List Nat := s.issue.lanes.map fun l => l.ref

/-- What holds of every bundle that issues: no lane stands in it twice, and no two of its lanes hold one extended register
(07 R154, R155: a physical block serves one block number of one group). -/
def State.bundleOk (s : State) : Prop :=
  s.bundleRefs.Nodup ∧
  ∀ l ∈ s.issue.act, ∀ k ∈ s.issue.act, ∀ j b, refTeam l.ref = refTeam k.ref → refLane l.ref = refLane k.ref →
    (s.team (refTeam l.ref)).heldBlock l.ref j = some b → (s.team (refTeam l.ref)).heldBlock k.ref j = some b → l.ref = k.ref

/-- Every active lane can read the sources and write the destination (14 R293; 07 R150, R155). -/
def State.readable (s : State) (srcs : List Src) (d : Dst) : Prop :=
  ∀ l ∈ s.issue.act, ∃ vs, readAll s l srcs d = .ok vs

/-- A thread after the write of a destination among n0 to n15 (14 R294); no other destination is a register of the thread. -/
def Thread.named (t : Thread) (d : Dst) (v : Val) : Thread :=
  match d with
  | .reg (.n i) => { t with n := t.n.set i v }
  | _ => t

/-- All of a state but its threads, its teams and the count of free values. -/
def State.aside (s : State) : State := { s with threads := [], teams := [], free := 0 }

/-- All of a team but its extended registers and its feed queues. -/
def Team.aside (t : Team) : Team := { t with ext := [], dq := [] }

/-- A thread after a push (07 R150). -/
def Thread.pushed (t : Thread) (v : Val) : Thread := { t with q := pushQ t.q v }

/-- What an instruction that acts lane by lane leaves. Each active lane's thread becomes what `th` and the destination give, and
its extended destination holds the value; each lane whose guard is false pushes a copy of its q0 when `off` says so (07 R151);
and nothing else changes but the feed queues that sources pop (12 R247) and, where `draws`, the count of free values. -/
structure State.LaneWise (s t : State) (srcs : List Src) (d : Dst) (off draws : Bool) (val : Lane → List Val → Val)
    (th : Lane → List Val → Thread → Thread) : Prop where
  active : ∀ l ∈ s.issue.act, ∀ vs, readAll s l srcs d = .ok vs →
    t.thread l.ref = (th l vs (s.thread l.ref)).named d (val l vs)
  inactive : ∀ l ∈ s.issue.off,
    t.thread l.ref = if off then (s.thread l.ref).pushed l.pre.q[0] else s.thread l.ref
  others : ∀ r, r ∉ s.bundleRefs → t.thread r = s.thread r
  extended : ∀ i, d = .reg (.e i) → ∀ l ∈ s.issue.act, ∀ vs, readAll s l srcs d = .ok vs → ∀ b,
    (s.team (refTeam l.ref)).heldBlock l.ref (i.val / 16) = some b →
    aget {} (t.team (refTeam l.ref)).ext (extKey b i.val (refLane l.ref)) = val l vs
  extFrame : ∀ u k, (∀ i, d = .reg (.e i) → ∀ l ∈ s.issue.act, refTeam l.ref = u → ∀ b,
      (s.team u).heldBlock l.ref (i.val / 16) = some b → k ≠ extKey b i.val (refLane l.ref)) →
    aget {} (t.team u).ext k = aget {} (s.team u).ext k
  feeds : (∀ i, Src.dq i ∉ srcs) → ∀ u, (t.team u).dq = (s.team u).dq
  teams : ∀ u, (t.team u).aside = (s.team u).aside
  free : draws = false → t.free = s.free
  rest : t.aside = s.aside

/-- An instruction completes in every lane of a bundle whose operands can be read, under a condition on the state, with what
`LaneWise` says. -/
def Acts (i : Instr) (srcs : List Src) (d : Dst) (off draws : Bool) (when_ : State → Prop)
    (val : State → Lane → List Val → Val) (th : State → Lane → List Val → Thread → Thread) : Prop :=
  ∀ s : State, s.bundleOk → s.readable srcs d → when_ s →
    ∃ t, exec i s = .next t ∧ s.LaneWise t srcs d off draws (val s) (th s)

/-- An instruction that pushes one value and writes it to its destination (14 R308), poisoned when a source is (07 R157). -/
def Computes (i : Instr) (srcs : List Src) (d : Dst) (f : List Val → Dword) : Prop :=
  Acts i srcs d true false (fun _ => True) (fun _ _ vs => { v := f vs, psn := anyPsn vs })
    (fun _ _ vs t => t.pushed { v := f vs, psn := anyPsn vs })

/-- `Computes` for one source. -/
def Computes1 (i : Instr) (a : Src) (d : Dst) (f : Dword → Dword) : Prop := Computes i [a] d fun vs => f (argAt vs 0)

/-- `Computes` for two sources. -/
def Computes2 (i : Instr) (a b : Src) (d : Dst) (f : Dword → Dword → Dword) : Prop :=
  Computes i [a, b] d fun vs => f (argAt vs 0) (argAt vs 1)

/-- `Computes` for three sources. -/
def Computes3 (i : Instr) (a b c : Src) (d : Dst) (f : Dword → Dword → Dword → Dword) : Prop :=
  Computes i [a, b, c] d fun vs => f (argAt vs 0) (argAt vs 1) (argAt vs 2)

/-- An instruction that computes a value and floating-point flags from the thread as it stood before the chain (17 R348): the flags
are raised in FPCTL (10 R208). -/
def ComputesFp (i : Instr) (srcs : List Src) (d : Dst) (f : Thread → List Val → Nat × FpFlags) : Prop :=
  Acts i srcs d true false (fun _ => True)
    (fun _ l vs => { v := BitVec.ofNat 64 (f l.pre vs).1, psn := anyPsn vs })
    (fun _ l vs t =>
      { t.pushed { v := BitVec.ofNat 64 (f l.pre vs).1, psn := anyPsn vs } with fpctl := t.fpctl ||| (f l.pre vs).2.word })

/-- An instruction that writes one predicate of each lane, with its poison bit, and pushes nothing (07 R156; 16 R343). -/
def WritesPred (i : Instr) (srcs : List Src) (pd : Fin 8) (f : Lane → List Val → Bool × Bool) : Prop :=
  Acts i srcs .none false false (fun _ => True) (fun _ _ _ => {}) (fun _ l vs t => t.setPred pd (f l vs).1 (f l vs).2)

/-- `WritesPred` for a compare of floating-point numbers, which raises flags (17 R355). -/
def WritesPredFp (i : Instr) (srcs : List Src) (pd : Fin 8) (f : Lane → List Val → Bool × Bool) (g : Lane → List Val → FpFlags) :
    Prop :=
  Acts i srcs .none false false (fun _ => True) (fun _ _ _ => {})
    (fun _ l vs t => { t.setPred pd (f l vs).1 (f l vs).2 with fpctl := t.fpctl ||| (g l vs).word })

/-- What the value of a request does to registers (07 R150): in the lanes that it serves, every entry of the queue and of XQ, and every
named and extended register that awaits the request takes the value; every other register of these kinds is as it was, there and in
every other thread. -/
structure State.Delivers (s t : State) (id : Nat) (lanes : List Nat) (v : Val) : Prop where
  queue : ∀ r ∈ lanes, ∀ j : Fin 16, (t.thread r).q[j] = if (s.thread r).q[j].pend = some id then v else (s.thread r).q[j]
  saved : ∀ r ∈ lanes, ∀ j : Fin 16, (t.thread r).xq[j] = if (s.thread r).xq[j].pend = some id then v else (s.thread r).xq[j]
  named : ∀ r ∈ lanes, ∀ j : Fin 16, (t.thread r).n[j] = if (s.thread r).n[j].pend = some id then v else (s.thread r).n[j]
  extended : ∀ r ∈ lanes, refKind r = .lane → ∀ k, aget {} (t.team (refTeam r)).ext k =
    if (aget {} (s.team (refTeam r)).ext k).pend = some id then v else aget {} (s.team (refTeam r)).ext k
  others : ∀ r, r ∉ lanes → (t.thread r).q = (s.thread r).q ∧ (t.thread r).xq = (s.thread r).xq ∧ (t.thread r).n = (s.thread r).n
  teams : ∀ u, (∀ r ∈ lanes, refKind r = .lane → refTeam r ≠ u) → (t.team u).ext = (s.team u).ext

end Sys2Proof.Machine
end

