-- ==== Sys2Proof/Certificates/Slice0/Obligations.lean ====
section
/-!
DEFINITION. Certificates/Slice0/Obligations.lean: what the provers are asked to prove of the machine.
-/

open Sys2Proof Sys2Proof.Machine

/-! ## Registers and integers -/

/-- R339, R340: the integer instructions that compute with whole values, in every lane of every bundle whose operands can be read.
Each pushes its result, writes its destination, and changes nothing else (R150, R151, R308). -/
def IntegerArithmetic : Prop :=
  ∀ (a b : Src) (d : Dst) (r : DReg) (imm : BitVec 8),
    Computes2 (.iadd a b d) a b d (fun x y => x + y)
    ∧ Computes2 (.isub a b d) a b d (fun x y => x - y)
    ∧ Computes2 (.imul a b d) a b d (fun x y => x * y)
    ∧ Computes2 (.imulhI64 a b d) a b d (fun x y => BitVec.ofInt 64 (x.toInt * y.toInt / 2 ^ 64))
    ∧ Computes2 (.imulhW64 a b d) a b d (fun x y => BitVec.ofNat 64 (x.toNat * y.toNat / 2 ^ 64))
    ∧ Computes3 (.imad a b r) a b r.src (.reg r) (fun x y z => x * y + z)
    ∧ Computes2 (.idivI64 a b d) a b d (fun x y => if y = 0 then 0xFFFFFFFFFFFFFFFF else BitVec.ofInt 64 (x.toInt.tdiv y.toInt))
    ∧ Computes2 (.idivW64 a b d) a b d (fun x y => if y = 0 then 0xFFFFFFFFFFFFFFFF else x / y)
    ∧ Computes2 (.iremI64 a b d) a b d (fun x y => if y = 0 then x else BitVec.ofInt 64 (x.toInt.tmod y.toInt))
    ∧ Computes2 (.iremW64 a b d) a b d (fun x y => if y = 0 then x else x % y)
    ∧ Computes2 (.iminI64 a b d) a b d (fun x y => if x.toInt ≤ y.toInt then x else y)
    ∧ Computes2 (.iminW64 a b d) a b d (fun x y => if x.toNat ≤ y.toNat then x else y)
    ∧ Computes2 (.imaxI64 a b d) a b d (fun x y => if x.toInt ≤ y.toInt then y else x)
    ∧ Computes2 (.imaxW64 a b d) a b d (fun x y => if x.toNat ≤ y.toNat then y else x)
    ∧ Computes1 (.iabs a d) a d (fun x => if x.toInt < 0 then -x else x)
    ∧ Computes2 (.lea a b d) a b d (fun x y => x + 4 * y)
    ∧ Computes1 (.iaddi a imm d) a d (fun x => x + imm.signExtend 64)

/-- R339, R342: the logic operations and the shifts, of two values and of a value and an immediate. -/
def LogicAndShifts : Prop :=
  ∀ (a b : Src) (d : Dst) (imm : BitVec 8) (n : BitVec 6),
    Computes2 (.ilogAnd a b d) a b d (fun x y => x &&& y)
    ∧ Computes2 (.ilogOr a b d) a b d (fun x y => x ||| y)
    ∧ Computes2 (.ilogXor a b d) a b d (fun x y => x ^^^ y)
    ∧ Computes2 (.ilogAndn a b d) a b d (fun x y => x &&& ~~~y)
    ∧ Computes2 (.ishfShl a b d) a b d (fun x y => x <<< (y.toNat % 64))
    ∧ Computes2 (.ishfShr a b d) a b d (fun x y => x >>> (y.toNat % 64))
    ∧ Computes2 (.ishfSar a b d) a b d (fun x y => x.sshiftRight (y.toNat % 64))
    ∧ Computes2 (.ishfRol a b d) a b d (fun x y => x.rotateLeft (y.toNat % 64))
    ∧ Computes1 (.ilogiAnd a imm d) a d (fun x => x &&& imm.setWidth 64)
    ∧ Computes1 (.ilogiOr a imm d) a d (fun x => x ||| imm.setWidth 64)
    ∧ Computes1 (.ilogiXor a imm d) a d (fun x => x ^^^ imm.setWidth 64)
    ∧ Computes1 (.ilogiAndn a imm d) a d (fun x => x &&& ~~~(imm.setWidth 64))
    ∧ Computes1 (.ishfiShl a n d) a d (fun x => x <<< n.toNat)
    ∧ Computes1 (.ishfiShr a n d) a d (fun x => x >>> n.toNat)
    ∧ Computes1 (.ishfiSar a n d) a d (fun x => x.sshiftRight n.toNat)
    ∧ Computes1 (.ishfiRol a n d) a d (fun x => x.rotateLeft n.toNat)

/-- R339, R341, R342: the bit counts, the bit reversal, the field instructions and IEXT; each result bit by bit. -/
def BitFields : Prop :=
  (∀ (a : Src) (d : Dst), ∃ f : Dword → Dword, Computes1 (.ibitPopc a d) a d f ∧
      ∀ x, (f x).toNat = ((List.range 64).filter fun i => x.getLsbD i).length)
  ∧ (∀ (a : Src) (d : Dst), ∃ f : Dword → Dword, Computes1 (.ibitClz a d) a d f ∧
      ∀ x, (x = 0 → f x = 64) ∧ (x ≠ 0 → (f x).toNat < 64 ∧ x.getLsbD (63 - (f x).toNat) = true
        ∧ ∀ i, 63 - (f x).toNat < i → x.getLsbD i = false))
  ∧ (∀ (a : Src) (d : Dst), ∃ f : Dword → Dword, Computes1 (.ibitCtz a d) a d f ∧
      ∀ x, (x = 0 → f x = 64) ∧ (x ≠ 0 → (f x).toNat < 64 ∧ x.getLsbD (f x).toNat = true
        ∧ ∀ i, i < (f x).toNat → x.getLsbD i = false))
  ∧ (∀ (a : Src) (d : Dst), ∃ f : Dword → Dword, Computes1 (.ibitBrev a d) a d f ∧
      ∀ x i, i < 64 → (f x).getLsbD i = x.getLsbD (63 - i))
  ∧ (∀ (a b : Src) (d : Dst), ∃ f : Dword → Dword → Dword, Computes2 (.bfxW64 a b d) a b d f ∧
      ∀ x y i, i < 64 → (f x y).getLsbD i =
        (decide (i < min (y.toNat / 2 ^ 8 % 2 ^ 7) (64 - y.toNat % 64)) && x.getLsbD (y.toNat % 64 + i)))
  ∧ (∀ (a b : Src) (d : Dst), ∃ f : Dword → Dword → Dword, Computes2 (.bfxI64 a b d) a b d f ∧
      ∀ x y i, i < 64 → (f x y).getLsbD i =
        let w := min (y.toNat / 2 ^ 8 % 2 ^ 7) (64 - y.toNat % 64)
        (w != 0 && x.getLsbD (y.toNat % 64 + min i (w - 1))))
  ∧ (∀ (a b : Src) (r : DReg), ∃ f : Dword → Dword → Dword → Dword, Computes3 (.bfi a b r) a b r.src (.reg r) f ∧
      ∀ x y z i, i < 64 → (f x y z).getLsbD i =
        let p := y.toNat % 64
        if p ≤ i ∧ i < p + min (y.toNat / 2 ^ 8 % 2 ^ 7) (64 - p) then x.getLsbD (i - p) else z.getLsbD i)
  ∧ (∀ (a : Src) (d : Dst) (k : Fin 3), ∃ f g : Dword → Dword,
      Computes1 (.iext a (BitVec.ofNat 8 k.val) d) a d f ∧ Computes1 (.iext a (BitVec.ofNat 8 (k.val + 4)) d) a d g ∧
      ∀ x i, i < 64 → (f x).getLsbD i = x.getLsbD (min i (8 * 2 ^ k.val - 1))
        ∧ (g x).getLsbD i = (decide (i < 8 * 2 ^ k.val) && x.getLsbD i))

/-- R334, R335: MOVI, MOVH, PUT and SEL. A poisoned predicate poisons the result of SEL and is not consumed. -/
def Obligations.Moves : Prop :=
  (∀ (imm : BitVec 16) (d : Dst),
    Computes (.movi imm d) [] d (fun _ => imm.signExtend 64)
    ∧ Computes1 (.movh1 imm d) (.q 0) d (fun q => (q &&& 0xFFFFFFFF0000FFFF) ||| (imm.setWidth 64 <<< 16))
    ∧ Computes1 (.movh2 imm d) (.q 0) d (fun q => (q &&& 0xFFFF0000FFFFFFFF) ||| (imm.setWidth 64 <<< 32))
    ∧ Computes1 (.movh3 imm d) (.q 0) d (fun q => (q &&& 0x0000FFFFFFFFFFFF) ||| (imm.setWidth 64 <<< 48)))
  ∧ (∀ (a : Src) (d : Dst), Computes1 (.put a d) a d (fun x => x))
  ∧ ∀ (a : Src) (b : SSrc) (p : Fin 8) (d : Dst),
      let v : Lane → List Val → Val := fun l vs =>
        { v := if l.pre.pred p then argAt vs 0 else argAt vs 1, psn := anyPsn vs || l.pre.predPsn p }
      Acts (.sel a b p d) [a, b.long] d true false (fun _ => True) (fun _ => v) (fun _ l vs t => t.pushed (v l vs))

/-! ## Predicates -/

/-- R343, R345, R156: the compares of integers, the predicate logic and PMOV. A predicate is poisoned when a value or predicate
that the instruction read was; a write to p0 is ignored (`Thread.setPred`). -/
def PredicateWrites : Prop :=
  ∀ (a b : Src) (ps pd pa : Fin 8),
    let icmp := fun (i : Instr) (f : Dword → Dword → Bool) => WritesPred i [a, b] pd fun l vs =>
      (f (argAt vs 0) (argAt vs 1) && l.pre.pred ps, anyPsn vs || l.pre.predPsn ps)
    let plog := fun (i : Instr) (f : Bool → Bool → Bool) => WritesPred i [] pd fun l _ =>
      (f (l.pre.pred pa) (l.pre.pred ps), l.pre.predPsn pa || l.pre.predPsn ps)
    icmp (.icmpEq a b ps pd) (fun x y => decide (x = y))
    ∧ icmp (.icmpNe a b ps pd) (fun x y => decide (x ≠ y))
    ∧ icmp (.icmpLtI64 a b ps pd) (fun x y => decide (x.toInt < y.toInt))
    ∧ icmp (.icmpLeI64 a b ps pd) (fun x y => decide (x.toInt ≤ y.toInt))
    ∧ icmp (.icmpLtW64 a b ps pd) (fun x y => decide (x.toNat < y.toNat))
    ∧ icmp (.icmpLeW64 a b ps pd) (fun x y => decide (x.toNat ≤ y.toNat))
    ∧ plog (.plogAnd pa ps pd) (fun x y => x && y)
    ∧ plog (.plogOr pa ps pd) (fun x y => x || y)
    ∧ plog (.plogXor pa ps pd) (fun x y => x ^^ y)
    ∧ plog (.plogAndn pa ps pd) (fun x y => x && !y)
    ∧ (WritesPred (.pmovRp a ps pd) [a] pd fun l vs =>
        ((argAt vs 0).getLsbD 0 && l.pre.pred ps, anyPsn vs || (argAt vs 0).getLsbD 8 || l.pre.predPsn ps))
    ∧ ∃ w : Thread → Dword, Acts .pmovPr [] .none true false (fun _ => True) (fun _ _ _ => {})
        (fun _ l _ t => t.pushed { v := w l.pre }) ∧
        ∀ (t : Thread) (i : Nat), (w t).getLsbD i = (i == 0 || (decide (i < 8) && t.p.getLsbD i)
          || (decide (8 < i ∧ i < 16) && t.pp.getLsbD (i - 8)))

/-- R156: a predicate reads as it was last written, with its poison bit; p0 reads true and unpoisoned and ignores writes, and no
other predicate changes. -/
def PredicateRegisters : Prop :=
  ∀ (t : Thread) (i j : Fin 8) (v b : Bool),
    (t.setPred i v b).pred j = (if j = 0 then true else if j = i then v else t.pred j)
    ∧ (t.setPred i v b).predPsn j = (if j = 0 then false else if j = i then b else t.predPsn j)

/-! ## Floating point -/

/-- R348, R354 to R356: the arithmetic of f32 and f64 in every lane, rounded once from the exact result, in the mode and with the
flushing that FPCTL gave before the chain. -/
def FloatArithmetic : Prop :=
  ∀ (a : Src) (b x y z : SSrc) (rm : Rm) (rm2 : Rm2) (d : Dst),
    let fp := fun (i : Instr) (srcs : List Src) (f : Thread → List Val → Nat × FpFlags) => ComputesFp i srcs d f
    let m := fun t : Thread => t.rm rm
    let m2 := fun t : Thread => t.rm2 rm2
    fp (.fadd a b rm d) [a, b.long] (fp2 fmt32 m Machine.Num.add)
    ∧ fp (.fsub a b rm d) [a, b.long] (fp2 fmt32 m fun k u v => u.add k v.negate)
    ∧ fp (.fmul a b rm d) [a, b.long] (fp2 fmt32 m fun _ => Machine.Num.mul)
    ∧ fp (.fmin a b d) [a, b.long] (fp2 fmt32 (fun _ => .rne) fun _ => Machine.Num.min)
    ∧ fp (.fmax a b d) [a, b.long] (fp2 fmt32 (fun _ => .rne) fun _ => Machine.Num.max)
    ∧ fp (.frnd a rm d) [a] (fun t => fp1 fmt32 m (Machine.Num.integral (t.rm rm)) t)
    ∧ fp (.ffma x y z rm2 d) [x.long, y.long, z.long] (fp3 fmt32 m2 Machine.Num.fma)
    ∧ fp (.dfma x y z rm2 d) [x.long, y.long, z.long] (fp3 fmt64 m2 Machine.Num.fma)
    ∧ fp (.dadd x y rm2 d) [x.long, y.long] (fp2 fmt64 m2 Machine.Num.add)
    ∧ fp (.dmul x y rm2 d) [x.long, y.long] (fp2 fmt64 m2 fun _ => Machine.Num.mul)
    ∧ fp (.frcp a rm d) [a] (fp1 fmt32 m recipNum)
    ∧ fp (.frsq a rm d) [a] (fp1 fmt32 m rsqrtNum)
    ∧ fp (.fsqrt a rm d) [a] (fp1 fmt32 m sqrtNum)
    ∧ fp (.fex2 a rm d) [a] (fp1 fmt32 m exp2Num)
    ∧ fp (.flg2 a rm d) [a] (fp1 fmt32 m log2Num)
    ∧ fp (.fsin a rm d) [a] (fp1 fmt32 m sinNum)
    ∧ fp (.fcos a rm d) [a] (fp1 fmt32 m cosNum)
    ∧ fp (.ftanh a rm d) [a] (fp1 fmt32 m tanhNum)

/-- R346, R351 to R354: the packed halves, element by element, and the sign instructions, which touch bits only and raise no flag. -/
def PackedAndSigns : Prop :=
  ∀ (a : Src) (b x y z : SSrc) (rm : Rm) (rm2 : Rm2) (d : Dst),
    let m := fun t : Thread => t.rm rm
    let m2 := fun t : Thread => t.rm2 rm2
    ComputesFp (.hadd2F16 a b rm d) [a, b.long] d (packed (fp2 fmt16 m Machine.Num.add))
    ∧ ComputesFp (.hadd2Bf16 a b rm d) [a, b.long] d (packed (fp2 fmtB16 m Machine.Num.add))
    ∧ ComputesFp (.hmul2F16 a b rm d) [a, b.long] d (packed (fp2 fmt16 m fun _ => Machine.Num.mul))
    ∧ ComputesFp (.hmul2Bf16 a b rm d) [a, b.long] d (packed (fp2 fmtB16 m fun _ => Machine.Num.mul))
    ∧ ComputesFp (.hfma2F16 x y z rm2 d) [x.long, y.long, z.long] d (packed (fp3 fmt16 m2 Machine.Num.fma))
    ∧ ComputesFp (.hfma2Bf16 x y z rm2 d) [x.long, y.long, z.long] d (packed (fp3 fmtB16 m2 Machine.Num.fma))
    ∧ ∀ (i : Instr) (sign : Bool → Bool → Bool),
        (i = .fsgnCp a b d ∧ sign = (fun _ v => v)) ∨ (i = .fsgnCpn a b d ∧ sign = (fun _ v => !v))
          ∨ (i = .fsgnX a b d ∧ sign = (fun u v => u ^^ v)) →
        ∃ f : Dword → Dword → Dword, Computes2 i a b.long d f ∧ ∀ u v j,
          (f u v).getLsbD j = if j < 31 then u.getLsbD j else (j == 31 && sign (u.getLsbD 31) (v.getLsbD 31))

/-- R355: the compares of floating-point numbers, and when each raises NV. -/
def FloatCompares : Prop :=
  ∀ (a b : Src) (ps pd : Fin 8),
    let fcmp := fun (i j : Instr) (holds : Machine.Num → Machine.Num → Bool) (nv : Machine.Num → Machine.Num → Bool) =>
      ∀ (k : Instr) (f : Fmt), (k = i ∧ f = fmt32) ∨ (k = j ∧ f = fmt64) →
        WritesPredFp k [a, b] pd
          (fun l vs => (holds (fpArg f l.pre vs 0) (fpArg f l.pre vs 1) && l.pre.pred ps, anyPsn vs || l.pre.predPsn ps))
          (fun l vs => { nv := nv (fpArg f l.pre vs 0) (fpArg f l.pre vs 1) })
    let nan := fun x y : Machine.Num => x.isNan || y.isNan
    let sig := fun x y : Machine.Num => x.isSig || y.isSig
    fcmp (.fcmpEqF32 a b ps pd) (.fcmpEqF64 a b ps pd) (fun x y => !nan x y && x.eq y) sig
    ∧ fcmp (.fcmpNeF32 a b ps pd) (.fcmpNeF64 a b ps pd) (fun x y => nan x y || !x.eq y) sig
    ∧ fcmp (.fcmpLtF32 a b ps pd) (.fcmpLtF64 a b ps pd) (fun x y => !nan x y && x.lt y) nan
    ∧ fcmp (.fcmpLeF32 a b ps pd) (.fcmpLeF64 a b ps pd) (fun x y => !nan x y && (x.lt y || x.eq y)) nan
    ∧ fcmp (.fcmpUnF32 a b ps pd) (.fcmpUnF64 a b ps pd) nan sig

/-! ## Conversions and narrow formats -/

/-- Every format register that the types name is valid in every active lane (10 R213; 17 R358). -/
def formatsValid (tys : List Ty) (s : State) : Prop :=
  ∀ l ∈ s.issue.act, ∀ y ∈ tys, ∀ w, tyFormat l.pre y ≠ some (w, false)

/-- An instruction of a narrow format that computes a value and flags, where its format registers are valid. -/
def ComputesNarrow (i : Instr) (tys : List Ty) (srcs : List Src) (d : Dst) (f : Thread → List Val → Nat × FpFlags) : Prop :=
  Acts i srcs d true false (formatsValid tys)
    (fun _ l vs => { v := BitVec.ofNat 64 (f l.pre vs).1, psn := anyPsn vs })
    (fun _ l vs t =>
      { t.pushed { v := BitVec.ofNat 64 (f l.pre vs).1, psn := anyPsn vs } with fpctl := t.fpctl ||| (f l.pre vs).2.word })

/-- A conversion with the stochastic state that it leaves: one draw for each element converted with .sr, in order (10 R219). -/
def ConvertsWith (i : Instr) (tys : List Ty) (srcs : List Src) (d : Dst) (f : Thread → Word → List Val → Nat × FpFlags × Word) :
    Prop :=
  Acts i srcs d true false (formatsValid tys)
    (fun s l vs => { v := BitVec.ofNat 64 (f l.pre (s.thread l.ref).sr vs).1, psn := anyPsn vs })
    (fun s l vs t =>
      let c := f l.pre (s.thread l.ref).sr vs
      { t.pushed { v := BitVec.ofNat 64 c.1, psn := anyPsn vs } with sr := c.2.2, fpctl := t.fpctl ||| c.2.1.word })

/-- R357, R360 to R363: CVT, QPACK, QUNPK, AMAX and DOT4 with valid format registers. -/
def NarrowConversions : Prop :=
  ∀ (dty sty ty : Ty) (x : SSrc) (a : Src) (rm : Rm) (d : Dst) (r : DReg),
    ConvertsWith (.cvt dty sty x rm d) [dty, sty] [x.long] d (fun t sr vs =>
      convertOne (tyClass t dty) rm t t.ftz sr ((tyClass t sty).decode t.ftz (argAt vs 0).toNat))
    ∧ ConvertsWith (.qpack ty a rm d) [ty] [a, .q 0] d (fun t sr vs =>
        let k := tyClass t ty
        let n := if k.width = 6 then 48 else 64
        let e0 := convertOne k rm t false sr (fmt32.decode false (loWord (argAt vs 0)).toNat)
        let e1 := convertOne k rm t false e0.2.2 (fmt32.decode false (hiWord (argAt vs 0)).toNat)
        ((argAt vs 1).toNat % 2 ^ n / 2 ^ (2 * k.width) + e0.1 % 2 ^ k.width * 2 ^ (n - 2 * k.width)
            + e1.1 % 2 ^ k.width * 2 ^ (n - k.width), e0.2.1.join e1.2.1, e1.2.2))
    ∧ ComputesNarrow (.qunpk ty a rm d) [ty] [a] d (fun t vs =>
        let k := tyClass t ty
        let e0 := fmt32.round (t.rm rm) t.ftz (k.decode false (argAt vs 0).toNat)
        let e1 := fmt32.round (t.rm rm) t.ftz (k.decode false ((argAt vs 0).toNat / 2 ^ k.width))
        (e0.1 + e1.1 * 2 ^ 32, e0.2.join e1.2))
    ∧ ComputesFp (.amax ty a r) [a, r.src] (.reg r) (amaxOf ty)
    ∧ ComputesNarrow (.dot4 ty a rm r) [ty] [a, r.src] (.reg r) (dotOf ty rm false)
    ∧ ComputesNarrow (.dot4Sc ty a rm r) [ty] [a, r.src, .n 10] (.reg r) (dotOf ty rm true)

/-- R353, R364, R365, R348: FPCTL, the format registers and the seed of the stochastic state. A poisoned value leaves FPCTL as it
was, writes all ones to a format register, and restores the state's reset value. -/
def ModeRegisters : Prop :=
  ∀ (a : Src) (d : Dst) (fr : Fin 4),
    (let v : Lane → List Val → Val := fun l vs => { v := l.pre.fpctl.setWidth 64, psn := anyPsn vs }
     Acts (.fpctl a d) [a] d true false (fun _ => True) (fun _ => v) (fun _ l vs t =>
       let w := loWord (argAt vs 0)
       let m := (w >>> 16) &&& 0x1F13
       { t.pushed (v l vs) with fpctl := if anyPsn vs then t.fpctl else (t.fpctl &&& ~~~m) ||| (w &&& m) }))
    ∧ Acts (.fmtw fr a) [a] .none false false (fun _ => True) (fun _ _ _ => {}) (fun _ _ vs t =>
        { t with f := t.f.set fr (if anyPsn vs then 0xFFFFFFFF else loWord (argAt vs 0)) })
    ∧ Acts (.fmtr fr d) [] d true false (fun _ => True) (fun _ l _ => { v := l.pre.f[fr].setWidth 64 })
        (fun _ l _ t => t.pushed { v := l.pre.f[fr].setWidth 64 })
    ∧ Acts (.seed a) [a] .none false false (fun _ => True) (fun _ _ _ => {}) (fun s l vs t =>
        { t with sr := if anyPsn vs then 0x6A09E667 ^^^ BitVec.ofNat 32 (32 * refGrp l.ref + s.visLane l.ref)
                       else if loWord (argAt vs 0) = 0 then 0x6A09E667 else loWord (argAt vs 0) })

/-- R213, R358: an instruction that names an invalid format register traps ILLEGAL_FORMAT in every lane of the bundle, with the
register in XINFO, and no lane has any effect. -/
def InvalidFormatTraps : Prop :=
  ∀ (ty : Ty) (a : Src) (x : SSrc) (rm : Rm) (d : Dst) (r : DReg) (s : State) (w : Word),
    badFormat [ty] s.issue.act = some w →
    ∀ i ∈ [Instr.qpack ty a rm d, .qunpk ty a rm d, .dot4 ty a rm r, .dot4Sc ty a rm r, .cvt ty .f32 x rm d, .cvt .f32 ty x rm d],
      exec i s = .next (s.excuseEach fun l => .trap 0x04 ((badFormat [ty] [l]).getD w) 0)

/-! ## Quads and the crossbar -/

/-- What a lane of a quad contributes (07 R149; 17 R366). -/
def quadVal (s : State) (sa : Src) (l : Lane) (j : Nat) : Val := ((s.memberRead s (s.quadRef l.ref j) sa).1).getD {}

/-- Every member of the quads of the active lanes has its value, and no helper lane's register is one that it does not hold. -/
def quadReady (sa : Src) (s : State) : Prop :=
  ∀ l ∈ s.issue.act, ∀ j < 4, ∃ v, s.memberRead s (s.quadRef l.ref j) sa = (some v, s)

/-- R366, R367: the swaps, the broadcast and the reductions of a quad. A swap gives lane j the value of lane j XOR k; a broadcast gives the
value of lane SB mod 4; a reduction joins lanes 0 and 1, lanes 2 and 3, and then the two. The last clause covers a helper lane whose
extended register its thread does not hold: it contributes a free value (notes/assumptions/4.md), and every active lane still pushes one
value. Only active lanes push: a lane whose guard is false stays as it was (the model's reading of R367: notes/assumptions/121.md). -/
def Obligations.QuadOperations : Prop :=
  ∀ (a b : Src) (d : Dst),
    let swap := fun (i : Instr) (k : Nat) =>
      let v : State → Lane → List Val → Val := fun s l _ =>
        { v := (quadVal s a l (s.visLane l.ref % 4 ^^^ k)).v, psn := (quadVal s a l (s.visLane l.ref % 4 ^^^ k)).psn }
      Acts i [a] d false false (quadReady a) v (fun s l vs t => t.pushed (v s l vs))
    let reduce := fun (i : Instr) (op : RedOp) =>
      let part : State → Lane → Nat → Part := fun s l j => { v := (quadVal s a l j).v, psn := (quadVal s a l j).psn }
      let p : State → Lane → Part := fun s l =>
        let t := s.quadLead l
        op.join t (op.join t (part s l 0) (part s l 1)) (op.join t (part s l 2) (part s l 3))
      Acts i [a] d false false (quadReady a) (fun s l _ => { v := (p s l).v, psn := (p s l).psn })
        (fun s l _ t => { t.pushed { v := (p s l).v, psn := (p s l).psn } with fpctl := t.fpctl ||| (p s l).fl.word })
    swap (.qswp1 a d) 1 ∧ swap (.qswp2 a d) 2 ∧ swap (.qswp3 a d) 3
    ∧ (let v : State → Lane → List Val → Val := fun s l vs =>
        let x := quadVal s a l ((argAt vs 1).toNat % 4)
        { v := x.v, psn := x.psn || (vs.getD 1 {}).psn }
       Acts (.qbc a b d) [a, b] d false false (quadReady a) v (fun s l vs t => t.pushed (v s l vs)))
    ∧ reduce (.qredAddI64 a d) .addI64 ∧ reduce (.qredAddF32 a d) .addF32
    ∧ reduce (.qredMinI64 a d) .minI64 ∧ reduce (.qredMaxI64 a d) .maxI64
    ∧ reduce (.qredMinF32 a d) .minF32 ∧ reduce (.qredMaxF32 a d) .maxF32
    ∧ reduce (.qredAnd a d) .and ∧ reduce (.qredOr a d) .or
    ∧ ∀ (i : Instr) (srcs : List Src) (s : State),
        (i = .qbc a b d ∧ srcs = [a, b]) ∨ (srcs = [a] ∧ i ∈ [Instr.qswp1 a d, .qswp2 a d, .qswp3 a d, .qredAddI64 a d,
          .qredAddF32 a d, .qredMinI64 a d, .qredMaxI64 a d, .qredMinF32 a d, .qredMaxF32 a d, .qredAnd a d, .qredOr a d]) →
        s.bundleOk → s.readable srcs d →
        (∀ l ∈ s.issue.act, ∀ j < 4, (s.memberRead s (s.quadRef l.ref j) a).1 ≠ none) →
        ∃ (t : State) (v : Lane → Val) (fl : Lane → Word), exec i s = .next t ∧ s.LaneWise t srcs d false true (fun l _ => v l)
          (fun l _ t => { t.pushed (v l) with fpctl := t.fpctl ||| fl l })

/-- R368, R370: the shuffles of a whole group. A lane receives the value of the lane that its SB names, and its own where there is
none or where that lane does not take part. -/
def Shuffles : Prop :=
  ∀ (a b : Src) (d : Dst),
    let shfl := fun (i : Instr) (from_ : Nat → Nat → Nat → Option Nat) =>
      let v : State → Lane → List Val → Val := fun s l vs =>
        let own := vs.getD 0 {}
        let x := match from_ (s.laneCount l.ref) (s.visLane l.ref) ((argAt vs 1).toNat % s.laneCount l.ref) with
          | some k => (s.contribution a (s.visRef l.ref k)).getD own
          | none => own
        { v := x.v, psn := x.psn || (vs.getD 1 {}).psn }
      Acts i [a, b] d true false (fun s => s.groupsWhole = true) v (fun s l vs t => t.pushed (v s l vs))
    shfl (.shflIdx a b d) (fun _ _ x => some x)
    ∧ shfl (.shflUp a b d) (fun _ l x => if x ≤ l then some (l - x) else none)
    ∧ shfl (.shflDn a b d) (fun n l x => if l + x < n then some (l + x) else none)
    ∧ shfl (.shflXor a b d) (fun _ l x => some (l ^^^ x))

/-- R369, R370: the reductions and scans of a whole group, level by level over lane distances 1, 2, 4, 8 and 16. -/
def GroupReductions : Prop :=
  ∀ (a : Src) (d : Dst),
    let acts := fun (i : Instr) (p : State → Lane → Part) =>
      Acts i [a] d true false (fun s => s.groupsWhole = true) (fun s l _ => { v := (p s l).v, psn := (p s l).psn })
        (fun s l _ t => { t.pushed { v := (p s l).v, psn := (p s l).psn } with fpctl := t.fpctl ||| (p s l).fl.word })
    let dist := fun (s : State) (l : Lane) => (if s.laneCount l.ref = 32 then [1, 2, 4, 8, 16] else [1, 2, 4, 8] : List Nat)
    let red := fun (i : Instr) (op : RedOp) => acts i fun s l =>
      ((dist s l).foldl (redLevel op (s.groupLead l)) (s.parts op a l.ref)).getD 0 { v := op.unit }
    let scan := fun (i : Instr) (op : RedOp) => acts i fun s l =>
      ((dist s l).foldl (scanLevel op (s.groupLead l)) (s.parts op a l.ref)).getD (s.visLane l.ref) { v := op.unit }
    red (.gredAddI64 a d) .addI64 ∧ red (.gredAddF32 a d) .addF32 ∧ red (.gredMinI64 a d) .minI64
    ∧ red (.gredMaxI64 a d) .maxI64 ∧ red (.gredMinF32 a d) .minF32 ∧ red (.gredMaxF32 a d) .maxF32
    ∧ red (.gredAnd a d) .and ∧ red (.gredOr a d) .or
    ∧ scan (.gscanAddI64 a d) .addI64 ∧ scan (.gscanAddF32 a d) .addF32
    ∧ scan (.gscanMaxI64 a d) .maxI64 ∧ scan (.gscanMaxF32 a d) .maxF32

/-- R148, R347: an instruction of the crossbar traps ILLEGAL_CONVERGENCE in every thread of a bundle whose groups are not whole. -/
def CrossbarNeedsWholeGroups : Prop :=
  ∀ (a b : Src) (d : Dst) (s : State), s.groupsWhole = false →
    ∀ i ∈ [Instr.shflIdx a b d, .shflUp a b d, .shflDn a b d, .shflXor a b d, .gredAddI64 a d, .gredAddF32 a d, .gredMinI64 a d,
        .gredMaxI64 a d, .gredMinF32 a d, .gredMaxF32 a d, .gredAnd a d, .gredOr a d, .gscanAddI64 a d, .gscanAddF32 a d,
        .gscanMaxI64 a d, .gscanMaxF32 a d],
      exec i s = .next (s.excuseBundle (.trap 0x02 0 0))

/-- The lanes of the bundle that vote with a lane: the active lanes of its group, and among them those whose PS is true (16 R344). -/
def voteGroup (s : State) (l : Lane) : List Lane := s.issue.act.filter fun k => k.ref / 128 = l.ref / 128

/-- A lane's vote. -/
def voteOf (s : State) (a : Src) (l : Lane) : Val :=
  match readAll s l [a] .none with
  | .ok vs => vs.getD 0 {}
  | .error _ => {}

/-- R344: VOTE over the active lanes of one group. -/
def Obligations.Votes : Prop :=
  ∀ (a : Src) (ps pd : Fin 8),
    let voters := fun (s : State) (l : Lane) => (voteGroup s l).filter fun k => k.pre.pred ps
    let bad := fun (s : State) (l : Lane) => (voteGroup s l).any fun k => (voteOf s a k).psn || k.pre.predPsn ps
    Acts (.voteAny a ps pd) [a] .none false false (fun _ => True) (fun _ _ _ => {})
        (fun s l _ t => t.setPred pd ((voters s l).any fun k => (voteOf s a k).v != 0) (bad s l))
    ∧ Acts (.voteAll a ps pd) [a] .none false false (fun _ => True) (fun _ _ _ => {})
        (fun s l _ t => t.setPred pd ((voters s l).all fun k => (voteOf s a k).v != 0) (bad s l))
    ∧ ∃ mask : State → Lane → Dword,
        Acts (.voteBallot a ps) [a] .none true false (fun _ => True) (fun _ _ _ => {})
          (fun s l _ t => t.pushed { v := mask s l, psn := bad s l })
        ∧ ∀ s l i, (mask s l).getLsbD i =
            (decide (i < 64) && (voters s l).any fun k => (voteOf s a k).v != 0 && s.visLane k.ref == i)

/-! ## Transfers of control, and taking an exception -/

/-- R324 to R326, R330, R333: the branches, the calls, YIELD and NOP, in lanes whose condition or target may be used, and whose target is
that of their partner in a protected launch. A lane whose
branch is not taken keeps the PC after its chain. A return address is that of the slot after the call. -/
def Transfers : Prop :=
  ∀ (slot : Fin 4) (off : BitVec 16) (p : Fin 8) (neg : Bool) (a : Src),
    let target : State → BitVec 57 := fun s =>
      (s.issue.here &&& ~~~(0xF : BitVec 57)) + 16 * off.signExtend 57 + BitVec.ofNat 57 (4 * slot.val)
    let jump : BitVec 57 → Thread → Thread := fun pc t => { t with pc := pc, entered := true }
    let ret : State → Val := fun s =>
      { v := (if s.issue.here.toNat / 4 % 4 = 3 then s.issue.here + 8 else s.issue.here + 4).signExtend 64 }
    let clean : State → Prop := fun s => ∀ l ∈ s.issue.act, ∀ vs, readAll s l [a] .none = .ok vs →
      anyPsn vs = false ∧ ((argAt vs 0).setWidth 57).signExtend 64 = argAt vs 0 ∧ (argAt vs 0).toNat % 4 = 0
        ∧ s.pairTargets l a = false
    Acts (.bra slot off) [] .none false false (fun _ => True) (fun _ _ _ => {}) (fun s _ _ => jump (target s))
    ∧ Acts (.brp p neg slot off) [] .none false false
        (fun s => ∀ l ∈ s.issue.act, refKind l.ref ≠ .ap ∧ l.pre.predPsn p = false) (fun _ _ _ => {})
        (fun s l _ t => if l.pre.pred p ^^ neg then jump (target s) t else t)
    ∧ Acts (.call slot off) [] .none true false (fun _ => True) (fun _ _ _ => {})
        (fun s _ _ t => jump (target s) (t.pushed (ret s)))
    ∧ Acts (.brx a) [a] .none false false clean (fun _ _ _ => {}) (fun _ _ vs => jump ((argAt vs 0).setWidth 57))
    ∧ Acts (.ret a) [a] .none false false clean (fun _ _ _ => {}) (fun _ _ vs => jump ((argAt vs 0).setWidth 57))
    ∧ Acts (.callx a) [a] .none true false clean (fun _ _ _ => {})
        (fun s _ vs t => jump ((argAt vs 0).setWidth 57) (t.pushed (ret s)))
    ∧ Acts .yield [] .none false false (fun _ => True) (fun _ _ _ => {}) (fun _ _ _ t => { t with wait := 0, skip := true })
    ∧ ∀ s, exec .nop s = .next s

/-- R253: a BRP of an access-processor program, with fewer than eight branches unresolved. The program goes on along the predicted
path, which takes a backward branch, and keeps the thread of the right path until the branch resolves. -/
def BranchPrediction : Prop :=
  ∀ (s : State) (l : Lane) (u : Team) (p : Fin 8) (neg : Bool) (slot : Fin 4) (off : BitVec 16),
    s.issue.act = [l] → refKind l.ref = .ap → l.pre.predPsn p = false → aget? s.teams (refTeam l.ref) = some u →
    u.ap.branches.length < 8 →
    let target := s.branchTarget slot off
    let taken := l.pre.pred p ^^ neg
    let guess := decide (target.toNat ≤ s.issue.here.toNat)
    ∃ t b, exec (.brp p neg slot off) s = .next t
      ∧ t.thread l.ref = (if guess then { s.thread l.ref with pc := target, entered := true } else s.thread l.ref)
      ∧ aget? t.teams (refTeam l.ref) = some { u with ap := { u.ap with branches := u.ap.branches ++ [b] } }
      ∧ b.right = (guess == taken)
      ∧ b.saved = (if taken then { s.thread l.ref with pc := target, entered := true } else s.thread l.ref)

/-- R145, R146, R328: a lane at JOIN or CONV waits with its PC there. When the chain ends, a group whose live threads all wait at one
rendezvous of one kind goes on after it together and is converged; from CONV once no operation that the group has started can
still fault. -/
def Obligations.Rendezvous : Prop :=
  Acts .join [] .none false false (fun _ => True) (fun _ _ _ => {})
      (fun s _ _ t => { t with pc := s.issue.here, park := .meet false })
  ∧ Acts .conv [] .none false false (fun _ => True) (fun _ _ _ => {})
      (fun s _ _ t => { t with pc := s.issue.here, park := .meet true })
  ∧ ∀ (s : State) (u g : Nat) (k : Bool) (pc : BitVec 57) (T : Team), aget? s.teams u = some T → g < T.groups.length →
      s.liveRefs u g ≠ [] →
      (∀ r ∈ s.liveRefs u g, (s.thread r).park = .meet k ∧ (s.thread r).pc = pc) →
      (k = true → ∀ p ∈ s.ops, p.2.unchecked u g = false) →
      (∀ r ∈ s.liveRefs u g, ((s.rendezvous u g).thread r).park = .none
        ∧ ((s.rendezvous u g).thread r).pc = if pc.toNat / 4 % 4 = 3 then pc + 8 else pc + 4)
      ∧ (((s.rendezvous u g).team u).groups.getD g noGroup).conv = true

/-- R273, R332, R271 to R274, R301, R248: TRAPI takes the exception SOFTWARE in every active lane. A thread that is not in handler
mode enters its handler: XCAUSE, XINFO, XADDR, XPC and XQ are saved, the PC is slot 1 of the handler's packet, and everything else
of the thread is as before the chain but its wait count, which starts again (R131). Where the launch names no handler, the same is
saved, the PC stays, and the launch is aborted with the cause (R276). A thread that is in handler mode has its launch aborted with the
cause and 256 added (R274). A steward enters its handler at XVEC, in handler mode too (the model's choice: notes/assumptions/16.md).
An access-processor program ends with the cause. Memory stays as it was. -/
def Obligations.SoftwareTrap : Prop :=
  ∀ (imm : BitVec 15) (s : State), s.bundleOk →
    let saved : Lane → Thread := fun l =>
      { l.pre with xcause := 0x0F, xinfo := imm.setWidth 32, xaddr := 0, xpc := s.issue.pc.signExtend 64, xq := l.pre.q,
                   handler := true, park := .none, wait := 0, late := s.issue.cycle, redo := none, back := none }
    let entered : Lane → Dword → Thread := fun l target => { saved l with pc := target.setWidth 57 + 4, entered := true }
    let aborts : State → Lane → Nat → Prop := fun t l cause =>
      abortEvent (s.team (refTeam l.ref)).launch cause (BitVec.ofNat 32 (s.team (refTeam l.ref)).tid) ∈ t.agenda
    ∃ t, exec (.trapi imm) s = .next t ∧ t.mem = s.mem
      ∧ ((∀ l ∈ s.issue.act, refKind l.ref ≠ .ap) →
          (∀ l ∈ s.issue.act, refKind l.ref = .lane → l.pre.handler = false → (s.launchOf l.ref).rc.trap ≠ 0 →
            t.thread l.ref = entered l (s.launchOf l.ref).rc.trap)
          ∧ (∀ l ∈ s.issue.act, refKind l.ref = .lane → l.pre.handler = false → (s.launchOf l.ref).rc.trap = 0 →
            t.thread l.ref = saved l ∧ aborts t l 0x0F)
          ∧ (∀ l ∈ s.issue.act, refKind l.ref = .lane → l.pre.handler = true →
            t.thread l.ref = { l.pre with wait := 0, late := s.issue.cycle } ∧ aborts t l 0x10F)
          ∧ (∀ l ∈ s.issue.act, refKind l.ref = .steward → t.thread l.ref = entered l (aget 0 s.hub.xvec (refSid l.ref)))
          ∧ ∀ r, r ∉ s.bundleRefs → t.thread r = s.thread r)
      ∧ ∀ (l : Lane) (u : Team), s.issue.act = [l] → refKind l.ref = .ap → aget? s.teams (refTeam l.ref) = some u →
          u.ap.branches = [] →
          (t.team (refTeam l.ref)).ap.ended = true ∧ (t.team (refTeam l.ref)).ap.running = false
          ∧ (t.team (refTeam l.ref)).ap.status = 0x0F

/-- R152, R271: a lane that does not complete leaves its bundle, and its thread stands as it did before the chain when it tries
again; when it parks on a fault, it is restored but for the park and its wait count, which starts again (R131). -/
def Obligations.LaneLeaves : Prop :=
  ∀ (s : State) (l : Lane) (va kind tlb : Nat),
    (s.excuse l .notReady).thread l.ref = l.pre
    ∧ (∀ k ∈ (s.excuse l .notReady).issue.act, k.ref ≠ l.ref)
    ∧ (∀ p ∈ (s.excuse l .notReady).issue.out, p.1 ≠ l.ref)
    ∧ (s.excuse l .notReady).mem = s.mem
    ∧ (refKind l.ref ≠ .ap → ∃ id, ((s.excuse l (.fault va kind tlb)).thread l.ref) =
        { l.pre with wait := 0, late := s.issue.cycle, park := .fault (dieOfCore (s.coreOf l.ref)) id va, replay := true })

/-- R331, R141: EXIT ends each active lane whose quantum accesses have all been performed: the thread has exited and left handler
mode, it holds no extended block, and the end of its team is judged when the chain ends. A lane with such an access outstanding
from before its chain tries again; one with such an access of its own chain waits in its place, and exits when it has been performed
(R196, R199; which of the two waits it takes is the model's choice: notes/assumptions/98.md). -/
def Obligations.ExitEndsThread : Prop :=
  ∃ F : State → Lane → State, (∀ s, exec .exit s = .next (s.issue.act.foldl F s)) ∧
    ∀ (s : State) (l : Lane),
      (s.quantumPending l.ref = true → F s l = s.excuse l .notReady)
      ∧ (s.quantumPending l.ref = false → s.quantumPending l.ref true = true → refKind l.ref ≠ .ap →
          (F s l).thread l.ref = { s.thread l.ref with park := .leaving } ∧ (F s l).mem = s.mem)
      ∧ (s.quantumPending l.ref = false → s.quantumPending l.ref true = false → refKind l.ref = .lane →
          ((F s l).thread l.ref).exited = true ∧ ((F s l).thread l.ref).handler = false ∧ ((F s l).thread l.ref).park = .none
          ∧ (F s l).causes l.ref (event .teamEnd { id := refTeam l.ref })
          ∧ (F s l).mem = s.mem
          ∧ ((∀ r ∈ (s.team (refTeam l.ref)).xwait, refKind r = .lane ∧ r ≠ l.ref) →
              ∀ k < 3, ((F s l).team (refTeam l.ref)).heldBlock l.ref k = none))
      ∧ (s.quantumPending l.ref = false → s.quantumPending l.ref true = false → refKind l.ref = .steward →
          ((F s l).thread l.ref).park = .halted)
      ∧ ∀ T, aget? s.threads l.ref = some T → T.park = .leaving → s.quantumPending l.ref true = false → refKind l.ref = .lane →
          (∀ p ∈ s.threads, p.2.park = .leaving → p.1 = l.ref) → s.threads.Pairwise (fun a b => a.1 < b.1) →
          (s.leaveAll.thread l.ref).exited = true ∧ event .teamEnd { id := refTeam l.ref } ∈ s.leaveAll.agenda

/-- R155, R336, R337: XACQ and XREL. A thread that holds the block keeps it; in a team without a pool XACQ traps XREG_NOT_HELD; a block
that the group maps gains a holder; otherwise a free block of the pool is mapped for the thread, its registers cleared; and with
an empty pool the thread parks as it stood before its chain. XREL gives up a held block. -/
def Obligations.ExtendedBlocks : Prop :=
  ∀ k : Fin 8, k.val ≤ 2 → ∃ F G : State → Lane → State,
    (∀ s, exec (.xacq k) s = .next (s.issue.act.foldl F s))
    ∧ (∀ s, ∃ t, exec (.xrel k) s = .next t ∧
        t = s.actTeams.foldl (fun x u => x.grantBlocks u) (s.issue.act.foldl G s))
    ∧ ∀ (s : State) (l : Lane) (T : Team), aget? s.teams (refTeam l.ref) = some T → refGrp l.ref < T.groups.length →
        let held := fun x : State => (x.team (refTeam l.ref)).heldBlock l.ref k.val
        (∀ b, held s = some b → F s l = s)
        ∧ (held s = none → T.xpool = 0 → F s l = s.excuse l (.trap 0x0A (BitVec.ofNat 32 k.val) 0))
        ∧ (held s = none → T.xpool ≠ 0 → ((T.groupOf l.ref).xmap k.val).isSome ∨ T.freeBlocks ≠ [] →
            (held (F s l)).isSome ∧ ((F s l).thread l.ref) = s.thread l.ref)
        ∧ (∀ f fs, held s = none → T.xpool ≠ 0 → (T.groupOf l.ref).xmap k.val = none → T.freeBlocks = f :: fs →
            held (F s l) = some f
              ∧ (∀ i m, m < 32 → aget {} ((F s l).team (refTeam l.ref)).ext (extKey f i m) = {})
              ∧ ∀ j, j / 512 ≠ f → aget {} ((F s l).team (refTeam l.ref)).ext j = aget {} T.ext j)
        ∧ (held s = none → T.xpool ≠ 0 → (T.groupOf l.ref).xmap k.val = none → T.freeBlocks = [] →
            F s l = s.excuse l (.block k.val)
              ∧ (refKind l.ref = .lane → (F s l).thread l.ref =
                  { l.pre with wait := 0, late := s.issue.cycle, park := .xacq k.val }))
        ∧ held (G s l) = none ∧ (G s l).threads = s.threads

/-! ## Memory instructions -/

/-- A thread whose long-latency instruction has been accepted: its flag is set (14 R289). -/
def flagged (t : Thread) (flag : Nat) : Thread := if flag < 12 then { t with cf := setBit t.cf flag true } else t

/-- A trap ILLEGAL_POLICY in every thread of the bundle (08 R171; 13 R271): XINFO is a refused policy word, and the thread's own
where that is refused. -/
def TrapsPolicy (i : Instr) (ok : Word → Bool) (m : Fin 8) (s : State) : Prop :=
  ∃ f : Lane → Word, exec i s = .next (s.excuseEach fun l => .trap 0x03 (f l) 0)
    ∧ ∀ k, ok (f k) = false ∧ (ok (k.pol m) = false → f k = k.pol m)

/-- How an instruction acts: a gate on the policy words of all its lanes (08 R171), and then `F`, lane after lane; the first argument
of `F` is the state as the instruction found it. -/
def ActsBy (i : Instr) (kind : AccessKind) (m : Fin 8) (off : Bool) (F : State → State → Lane → State) : Prop :=
  ∀ s : State,
    ((∀ l ∈ s.issue.act, policyOk kind (l.pol m) = true) →
      exec i s = .next (if off then (s.issue.act.foldl (F s) s).pushOff else s.issue.act.foldl (F s) s))
    ∧ ∀ l ∈ s.issue.act, policyOk kind (l.pol m) = false → TrapsPolicy i (policyOk kind) m s

/-- R171, R289, R371 to R373, R376, R387: a load and PCHK. In a lane whose address resolves and which nothing holds, a request enters with
the words to read; the lane pushes an entry that is not yet produced, and its destination names it too (R150); the flag is set; the
reply will follow; memory, and every other thread but the pair's partner, are as the resolution of the address left them. A poisoned
address performs no access and pushes a poisoned zero. -/
def Obligations.LoadsBegin : Prop :=
  ∀ (m : Fin 8) (fs : Bool) (a : Src) (off : BitVec 4) (d : Dst),
    ∀ (i : Instr) (size : Nat) (kind : ReqKind) (off' : BitVec 4) (d' : Dst),
      (i, size, kind, off', d') ∈
        [(Instr.ldI8 m fs a off d, 1, ReqKind.load 1 true, off, d), (.ldI16 m fs a off d, 2, .load 2 true, off, d),
         (.ldI32 m fs a off d, 4, .load 4 true, off, d), (.ldW8 m fs a off d, 1, .load 1 false, off, d),
         (.ldW16 m fs a off d, 2, .load 2 false, off, d), (.ldW32 m fs a off d, 4, .load 4 false, off, d),
         (.ldB64 m fs a off d, 8, .load 8 false, off, d), (.pchk m fs a, 4, .check, 0, .none)] →
      ∃ F, ActsBy i (if kind = .check then .check else .load) m true F ∧ ∀ (b x : State) (l : Lane) (vs : List Val),
        b.shadowed l = false → readAll b l [a] d' = .ok vs →
        let flag := b.issue.flag fs
        let adr := argAt vs 0 + off'.signExtend 64 * BitVec.ofNat 64 size
        (anyPsn vs = true → ((F b x l).thread l.ref) = ((x.thread l.ref).pushed { psn := true }).named d' { psn := true }
          ∧ (F b x l).reqs = x.reqs ∧ (F b x l).mem = x.mem)
        ∧ (anyPsn vs = false → ∀ ls y, x.reach l (l.pol m) adr size false = (.ok ls, y) →
            ∃ id q, aget? (F b x l).reqs id = some q
              ∧ q.ref = l.ref ∧ q.flag = flag ∧ q.kind = kind ∧ q.pol = l.pol m ∧ q.va = adr ∧ q.off = adr.toNat % 4 ∧ q.locs = ls
              ∧ (F b x l).thread l.ref = flagged (((y.thread l.ref).pushed { pend := some id }).named d' { pend := some id }) flag
              ∧ (F b x l).causes l.ref (event .memoryReply { id := id })
              ∧ (F b x l).mem = y.mem
              ∧ ∀ r, r ≠ l.ref → r ≠ partnerRef l.ref → (F b x l).thread r = y.thread r)

/-- R150, R183, R376, R387: the reply of a load and of PCHK, when nothing holds the words back. The words of the request are read, and
every register of the lanes it serves that awaits it takes the value: queue entries, named and extended registers. Of a load this is
the bytes from the offset on, in little-endian order, sign-extended for the .i forms, poisoned when a word is; of PCHK, whether a word
is poisoned. A word that a package which is down has held up counts as poisoned (R48). Registers that await another request are as they
were, and the flag clears (R289). -/
def Obligations.LoadReplies : Prop :=
  ∀ (s : State) (q : Req) (v : Val), aget? s.reqs s.ev.id = some q → s.replyHold q (s.again .memoryReply) = none →
    let r := s.readWords (s.agentOf q.ref) q.pol q.locs
    let bad := r.1.any (·.2) || (devWords q.locs).any s.isLost
    let lanes := r.2.served q.ref ++ q.lanes
    ((q.kind = .check ∧ v = { v := if bad then 1 else 0 })
      ∨ ∃ size signed, q.kind = .load size signed ∧
          let n := leAt (wordsBytes (r.1.map (·.1))) q.off size
          v = { v := if signed then BitVec.ofInt 64 (signedOf (8 * size) n) else BitVec.ofNat 64 n, psn := bad }) →
    ∃ t, exec .memoryReply s = .next t ∧ s.Delivers t s.ev.id lanes v ∧ t.mem = r.2.mem
      ∧ ∀ k ∈ lanes, q.flag < 12 → (t.thread k).cf.getLsbD q.flag = false

/-- R376, R202, R289, R81: a store in a launch without rollback, in a lane whose operands are unpoisoned and agree between a pair, and
whose words exist. Each word of it, of device memory, a scratchpad or host memory, becomes a write under way, with its data and its byte
mask; one request waits for all of them and holds the flag. The write is performed at its component; a word of device memory
is first written at its home, when its class is stream or its component has no L2, or obtained for its die. No stored byte has
changed yet. -/
def Obligations.StoresBegin : Prop :=
  ∀ (m : Fin 8) (fs : Bool) (a c : Src) (off : BitVec 4) (i : Instr) (size : Nat) (srcs : List Src),
    (i, size, srcs) ∈ [(Instr.stB8 m fs a c off, 1, [a, c]), (.stB16 m fs a c off, 2, [a, c]), (.stB32 m fs a c off, 4, [a, c]),
      (.stB64 m fs a c off, 8, [a, c]), (.stB128 m fs a c off, 16, [a, c, nextSrc c])] →
    ∃ F, ActsBy i .store m false F ∧ ∀ (b x y : State) (l : Lane) (vs : List Val) (ls : List Loc),
      readConsumed b l srcs = .ok vs → b.pairDiffersBy (lowData (8 * min size 8)) l srcs = false → b.shadowed l = false →
      let adr := argAt vs 0 + off.signExtend 64 * BitVec.ofNat 64 size
      let data := if size = 16 then (argAt vs 1).toNat + (argAt vs 2).toNat * 2 ^ 64 else (argAt vs 1).toNat % 2 ^ (8 * size)
      x.reach l (l.pol m) adr size true = (.ok ls, y) → y.isRollback l.ref = false → Loc.none ∉ ls →
      let z := F b x l
      (∃ req, ∀ j (h : j < ls.length), ∃ id k q, aget? z.mem.writes id = some k ∧ aget? z.reqs req = some q
          ∧ q.ref = l.ref ∧ q.kind = .store ∧ q.flag = b.issue.flag fs ∧ q.locs = ls ∧ q.left = ls.length
          ∧ k.req = req ∧ k.comp = y.compOf l.ref ∧ k.kid = y.ctxOf l.ref ∧ k.w = ls[j].word ∧ k.out = ls[j].out
          ∧ k.psn = false ∧ k.atom = none ∧ k.stamp = none
          ∧ k.data = (if size < 4 then BitVec.ofNat 32 (data * 2 ^ (8 * (adr.toNat % 4))) else BitVec.ofNat 32 (data / 2 ^ (32 * j)))
          ∧ k.mask = (if size < 4 then BitVec.ofNat 4 ((2 ^ size - 1) * 2 ^ (adr.toNat % 4)) else 15)
          ∧ z.causes l.ref (event .performAtDie { id := id, die := k.comp, w := k.w })
          ∧ ∀ w, ls[j] = .dev w → z.causes l.ref
              (if k.cls = .stream ∨ 4 ≤ k.comp then event .homeWrite { id := id, die := k.comp, w := w, kid := k.kid }
               else event .homeReadForModification { die := k.comp, w := w, kid := k.kid }))
      ∧ { z.mem with writes := y.mem.writes } = y.mem ∧ z.hub = y.hub
      ∧ (ls ≠ [] → z.thread l.ref = flagged (y.thread l.ref) (b.issue.flag fs))
      ∧ ∀ r, r ≠ l.ref → r ≠ partnerRef l.ref → z.thread r = y.thread r

/-- R377: PREF brings the words that its address names, and has no effect on values. A poisoned address, a scratchpad and an
address that does not resolve are passed over; a lane whose walk waits tries again. -/
def Obligations.Prefetches : Prop :=
  ∀ (m : Fin 8) (fs : Bool) (a : Src) (off : BitVec 4), ∃ F, ActsBy (.pref m fs a off) .prefetch m false F ∧
    ∀ (b x : State) (l : Lane) (vs : List Val), readAll b l [a] .none = .ok vs →
      let adr := argAt vs 0 + off.signExtend 64 * 4
      let skip := b.shadowed l ∨ anyPsn vs = true ∨ polSpace (l.pol m) = 1 ∨ polSpace (l.pol m) = 2
      let p := popSrcs x l [a]
      (skip → F b x l = p)
      ∧ (¬skip → ∀ e y, p.resolve (p.agentOf l.ref) (l.pol m) adr 4 .read = (.error e, y) →
          F b x l = if e.unready then p.excuse l e else p)
      ∧ (¬skip → ∀ ls y, p.resolve (p.agentOf l.ref) (l.pol m) adr 4 .read = (.ok ls, y) →
          (∃ id q, aget? (F b x l).reqs id = some q ∧ q.ref = l.ref ∧ q.kind = .prefetch ∧ q.va = adr
            ∧ (F b x l).causes l.ref (event .memoryReply { id := id }))
          ∧ (F b x l).thread l.ref = flagged (y.thread l.ref) (b.issue.flag fs) ∧ (F b x l).mem = y.mem)

/-- R382, R383: an atomic on a word that exists, in a launch without rollback. A write that carries the operation enters; the home of a
word of device memory will perform it, and the thread's component that of another word; and a returning one pushes an entry that is
not yet produced. -/
def AtomicsBegin : Prop :=
  ∀ (m : Fin 8) (fs : Bool) (a c : Src) (qc : Fin 8) (i : Instr) (op : Nat) (ret : Bool) (srcs : List Src),
    (i, op, ret, srcs) ∈
      [(Instr.atomAdd m fs a c, 0, true, [a, c]), (.atomAnd m fs a c, 1, true, [a, c]), (.atomOr m fs a c, 2, true, [a, c]),
       (.atomXor m fs a c, 3, true, [a, c]), (.atomMinI32 m fs a c, 4, true, [a, c]), (.atomMaxI32 m fs a c, 5, true, [a, c]),
       (.atomMinW32 m fs a c, 6, true, [a, c]), (.atomMaxW32 m fs a c, 7, true, [a, c]),
       (.atomMinF32 m fs a c, 8, true, [a, c]), (.atomMaxF32 m fs a c, 9, true, [a, c]),
       (.atomAddF32 m fs a c, 10, true, [a, c]), (.atomExch m fs a c, 11, true, [a, c]),
       (.cas m fs a c qc, 12, true, [a, c, .q (qc.castLE (by decide))]),
       (.redAdd m fs a c, 0, false, [a, c]), (.redAnd m fs a c, 1, false, [a, c]), (.redOr m fs a c, 2, false, [a, c]),
       (.redXor m fs a c, 3, false, [a, c]), (.redMinI32 m fs a c, 4, false, [a, c]), (.redMaxI32 m fs a c, 5, false, [a, c]),
       (.redMinW32 m fs a c, 6, false, [a, c]), (.redMaxW32 m fs a c, 7, false, [a, c]),
       (.redMinF32 m fs a c, 8, false, [a, c]), (.redMaxF32 m fs a c, 9, false, [a, c]), (.redAddF32 m fs a c, 10, false, [a, c])] →
    ∃ F, ActsBy i (if ret then .atomRet else .atomNon op) m ret F ∧ ∀ (b x y : State) (l : Lane) (vs : List Val) (loc : Loc),
      readConsumed b l srcs = .ok vs → b.pairDiffersBy (lowData 32) l srcs = false → b.shadowed l = false →
      x.reach l (l.pol m) (argAt vs 0) 4 true = (.ok [loc], y) → loc ≠ .none → y.isRollback l.ref = false →
      let z := F b x l
      ∃ id q wid k, aget? z.reqs id = some q ∧ aget? z.mem.writes wid = some k
        ∧ q.ref = l.ref ∧ q.kind = .atom op ret ∧ q.new = loWord (argAt vs 2)
        ∧ k.w = loc.word ∧ k.out = loc.out ∧ k.data = loWord (argAt vs 1) ∧ k.atom = some op ∧ k.req = id ∧ k.stamp = none
        ∧ z.causes l.ref (event (if loc.out = none then .homeAtomic else .performAtDie) { id := wid, die := k.comp, w := k.w })
        ∧ z.thread l.ref = (if ret then (flagged (y.thread l.ref) (b.issue.flag fs)).pushed { pend := some id }
            else flagged (y.thread l.ref) (b.issue.flag fs))
        ∧ { z.mem with writes := y.mem.writes } = y.mem

/-- R382, R67, R81, R150: an atomic at the home of its word, when nothing holds the word back. An unpoisoned word takes what the operation
makes of it, and the write its stamp, which every other component will apply; a poisoned word is left, and the write goes. The request
of a returning one holds the old word; its reply gives it to every register that awaits it. -/
def AtomicsPerformed : Prop :=
  (∀ (s : State) (x : Write) (q : Req) (op : Nat), aget? s.mem.writes s.ev.id = some x → x.atom = some op →
    aget? s.reqs x.req = some q → isHostWord x.w = false → s.serves x.kid x.w = true → s.isLost x.w = false →
    s.writeHold x.kid x.w (s.again .homeAtomic) = none → s.uncopied x.kid x.w = [] →
    let r := (s.homeOnly x.w).homeWord x.kid x.w x.cls
    ∃ t, exec .homeAtomic s = .next t
      ∧ (r.2.1 = false → t.llcWord x.kid x.w = some (cword x.w (atomNew op r.1 x.data q.new) false .modified 15)
          ∧ (∃ k, aget? t.mem.writes s.ev.id = some k ∧ k.stamp.isSome = true)
          ∧ ∀ e < 6, e ≠ x.comp → event .writeApply { id := s.ev.id, die := e } ∈ t.agenda)
      ∧ (r.2.1 = true → aget? t.mem.writes s.ev.id = none)
      ∧ ∀ op', q.kind = .atom op' true → aget? t.reqs x.req = some { q with vals := [atomValue op r.1 r.2.1] })
  ∧ (∀ (op : Nat) (old : Word) (psn : Bool), atomValue op old psn =
      { v := if op = 4 ∨ op = 5 then old.signExtend 64 else old.setWidth 64, psn := psn })
  ∧ ∀ (s : State) (q : Req) (op : Nat) (v : Val) (vs : List Val), aget? s.reqs s.ev.id = some q → q.kind = .atom op true →
      q.vals = v :: vs →
      ∃ t, exec .memoryReply s = .next t ∧ s.Delivers t s.ev.id (s.served q.ref ++ q.lanes) v ∧ t.mem = s.mem
        ∧ ∀ k ∈ s.served q.ref ++ q.lanes, q.flag < 12 → (t.thread k).cf.getLsbD q.flag = false

/-- R382: what each atomic operation makes of the old word. -/
def AtomicOperations : Prop :=
  ∀ (old d new : Word),
    atomNew 0 old d new = old + d ∧ atomNew 1 old d new = old &&& d ∧ atomNew 2 old d new = old ||| d
    ∧ atomNew 3 old d new = old ^^^ d
    ∧ atomNew 4 old d new = (if old.toInt ≤ d.toInt then old else d) ∧ atomNew 5 old d new = (if old.toInt ≤ d.toInt then d else old)
    ∧ atomNew 6 old d new = (if old.toNat ≤ d.toNat then old else d) ∧ atomNew 7 old d new = (if old.toNat ≤ d.toNat then d else old)
    ∧ (∀ op x, (op, x) ∈ [(8, ((fmt32.decode false old.toNat).min (fmt32.decode false d.toNat)).1),
          (9, ((fmt32.decode false old.toNat).max (fmt32.decode false d.toNat)).1),
          (10, ((fmt32.decode false old.toNat).add .rne (fmt32.decode false d.toNat)).1)] →
        atomNew op old d new = BitVec.ofNat 32 (fmt32.round .rne false x).1)
    ∧ atomNew 11 old d new = d ∧ atomNew 12 old d new = (if old = d then new else old)

/-- R148, R168, R379 to R381: the word bursts, past their gates. The active lanes of each group make one command: `collect` takes a
lane's word, and `start` begins the command. Each word is read once, and a read gives each of its lanes an entry that the reply to its
own word will fill. -/
def Obligations.BurstReadsBegin : Prop :=
  ∀ (m : Fin 8) (fs : Bool) (a c : Src) (i : Instr), i ∈ [Instr.wld m fs a, .wlds m fs a c] →
    ∃ (collect : State → State × List BurstWord → Lane → State × List BurstWord) (start : State → State → List BurstWord → State)
      (pop : State → State → State),
      (∀ s, (∀ l ∈ s.issue.act, policyOk .burstLoad (l.pol m) = true) → s.groupsWhole = true →
        exec i s = .next (pop s (s.actGroups.foldl (fun t ls => let p := ls.foldl (collect s) (t, []); start s p.1 p.2) s)).pushOff)
      ∧ (∀ b x l ws vs y loc, b.shadowed l = false → i = .wld m fs a → readAll b l [a] .none = .ok vs → anyPsn vs = false →
          x.reach l (l.pol m) (argAt vs 0) 4 false = (.ok [loc], y) →
          collect b (x, ws) l = (y, ws ++ [{ lane := l, a := argAt vs 0, loc := loc }]))
      ∧ (∀ b x l ws vs y loc k, b.shadowed l = false → i = .wlds m fs a c → b.baseLane l = some k →
          readAll b k [a, c] .none = .ok vs → anyPsn vs = false →
          let adr := argAt vs 0 + 4 * BitVec.ofNat 64 (b.visLane l.ref) * (loWord (argAt vs 1)).signExtend 64
          x.reach l (l.pol m) adr 4 false = (.ok [loc], y) →
          collect b (x, ws) l = (y, ws ++ [{ lane := l, a := adr, loc := loc }]))
      ∧ (∀ b x ws, ws ≠ [] → (commandLanes b ws).Nodup → ∀ w ∈ ws, ∃ k q, aget? (start b x ws).reqs k = some q
          ∧ q.kind = .load 4 false ∧ q.locs = [w.loc]
          ∧ (start b x ws).causes q.ref (event .memoryReply { id := k })
          ∧ (start b x ws).mem = x.mem
          ∧ ∀ u ∈ ws, u.loc = w.loc → u.lane.ref ∈ q.lanes
            ∧ (start b x ws).thread u.lane.ref = flagged ((x.thread u.lane.ref).pushed { pend := some k }) (b.issue.flag fs))
      ∧ ∀ b x, (pop b x).threads = x.threads ∧ (pop b x).mem = x.mem

/-- R379 to R383: the word bursts that write. A write of several lanes to one word writes the highest lane's value, once; an atomic of
several lanes to one word performs each. -/
def Obligations.BurstWritesBegin : Prop :=
  ∀ (m : Fin 8) (fs : Bool) (a c : Src) (aop : Fin 32), aopAssigned aop.val = true →
    let ret := decide (aop.val < 16)
    let gates := fun (k : AccessKind) (s : State) =>
      (∀ l ∈ s.issue.act, policyOk k (l.pol m) = true) ∧ s.groupsWhole = true
    let runs := fun (collect : State → State × List BurstWord → Lane → State × List BurstWord)
        (start : State → State → List BurstWord → State) (s : State) =>
      s.actGroups.foldl (fun t ls => let p := ls.foldl (collect s) (t, []); start s p.1 p.2) s
    ∃ (collect : State → State × List BurstWord → Lane → State × List BurstWord) (write atom : State → State → List BurstWord → State),
      (∀ s, gates .burstStore s → exec (.wst m fs a c) s = .next (runs collect write s))
      ∧ (∀ s, gates (if ret then .atomRet else .atomNon (aop.val % 16)) s →
          exec (.watom m fs a c aop) s = .next (if ret then (runs collect atom s).pushOff else runs collect atom s))
      ∧ (∀ b x l ws vs y loc, b.shadowed l = false → readConsumed b l [a, c] = .ok vs → b.pairDiffersBy (lowData 32) l [a, c] = false →
          x.reach l (l.pol m) (argAt vs 0) 4 true = (.ok [loc], y) →
          collect b (x, ws) l = (popSrcs y l [a, c], ws ++ [{ lane := l, a := argAt vs 0, loc := loc, data := loWord (argAt vs 1) }]))
      ∧ (∀ b x ws, (∀ u ∈ ws, (∃ w, u.loc = .dev w) ∧ x.isRollback u.lane.ref = false) →
          ∀ pre u post w, ws = pre ++ u :: post → u.loc = .dev w → (∀ v ∈ post, v.loc ≠ u.loc) →
            ∃ id k, aget? (write b x ws).mem.writes id = some k ∧ k.w = w ∧ k.data = u.data ∧ k.mask = 15 ∧ k.atom = none
              ∧ (write b x ws).causes u.lane.ref (event .performAtDie { id := id, die := k.comp, w := w })
              ∧ ∀ id' k', aget? (write b x ws).mem.writes id' = some k' → aget? x.mem.writes id' ≠ some k' → k'.w = w → id' = id)
      ∧ ∀ b x ws, (∀ u ∈ ws, (∃ w, u.loc = .dev w) ∧ x.isRollback u.lane.ref = false) → ∀ u ∈ ws, ∀ w, u.loc = .dev w →
          ∃ id k, aget? (atom b x ws).mem.writes id = some k ∧ k.w = w ∧ k.data = u.data ∧ k.atom = some (aop.val % 16)
            ∧ (atom b x ws).causes u.lane.ref (event .homeAtomic { id := id, die := k.comp, w := w })

/-- R188, R378, R384: FENCE and MPOL. A fence enters a request that completes when the thread's earlier accesses have; MPOL writes a
policy register, all ones for a poisoned value. -/
def FencesAndPolicy : Prop :=
  ∀ (m : Fin 8) (fs : Bool) (a : Src),
    Acts (.mpol m fs a) [a] .none false false (fun _ => True) (fun _ _ _ => {}) (fun _ _ vs t =>
      { t with m := t.m.set m (if anyPsn vs then 0xFFFFFFFF else loWord (argAt vs 0)) })
    ∧ ∃ F : State → State → Lane → State,
        (∀ s, (∀ l ∈ s.issue.act, fenceOk (l.pol m) = true) → exec (.fence m fs) s = .next (s.issue.act.foldl (F s) s))
        ∧ (∀ s, ∀ l ∈ s.issue.act, fenceOk (l.pol m) = false → TrapsPolicy (.fence m fs) fenceOk m s)
        ∧ ∀ b x l, x.isRollback l.ref = false → ∃ id q, aget? (F b x l).reqs id = some q ∧ q.ref = l.ref ∧ q.kind = .fence
            ∧ q.pol = l.pol m ∧ q.flag = b.issue.flag fs ∧ (F b x l).causes l.ref (event .memoryReply { id := id })
            ∧ (F b x l).thread l.ref = flagged (x.thread l.ref) (b.issue.flag fs) ∧ (F b x l).mem = x.mem

/-- R189, R458: the narrowest mutual scope of two parties is the least at which each lies in the other's scope instance: group for threads
of one group, team for threads of one team and its program, package for a thread and a Plinth, system for the host and other packages.
The model makes every order at the widest scope, which holds at every narrower one. -/
def MutualScopes : Prop :=
  ∀ (s : State) (a b : Party),
    (let k := s.mutualScope a b
     k ≤ 5 ∧ s.mutuallyScoped a k b k = true ∧ ∀ j < k, s.mutuallyScoped a j b j = false)
    ∧ (∀ j k, s.mutuallyScoped a j b k = true ↔ s.inScope j a b = true ∧ s.inScope k b a = true)
    ∧ (∀ r q, a = .thread r → b = .thread q → refTeam r = refTeam q → r ≠ q →
        (refKind r = .lane → refKind q = .lane → refGrp r = refGrp q → s.mutualScope a b = 0)
        ∧ (refKind r = .lane → refKind q = .lane → refGrp r ≠ refGrp q → s.mutualScope a b = 1)
        ∧ (refKind r = .lane → refKind q = .ap → s.mutualScope a b = 1))
    ∧ (∀ r, a = .thread r → b = .plinth → s.mutualScope a b = 4)
    ∧ (a = .host ∨ b = .host ∨ (∃ p, a = .package p) ∨ (∃ p, b = .package p) → s.mutualScope a b = 5)

/-- R385: CCTL acts on the unit that its address names, of device or host memory, when the L2 of the lane's die holds it: 0 cleans it,
so that its modified words stand at their home and every word it holds is shared; 1 cleans and drops it; 2 gives it class stream and 3 the
class of the policy word. It changes no register, and does nothing for an address that is poisoned or does not resolve. -/
def CacheControl : Prop :=
  ∀ (m : Fin 8) (fs : Bool) (a c : Src), ∃ F, ActsBy (.cctl m fs a c) .prefetch m false F ∧
    ∀ (b x : State) (l : Lane) (vs : List Val), readAll b l [a, c] .none = .ok vs →
      let p := popSrcs x l [a, c]
      let op := (argAt vs 1).toNat % 4
      (b.shadowed l = true ∨ anyPsn vs = true ∨ polSpace (l.pol m) = 1 ∨ polSpace (l.pol m) = 2 → F b x l = p)
      ∧ (b.shadowed l = false → anyPsn vs = false → polSpace (l.pol m) ≠ 1 → polSpace (l.pol m) ≠ 2 →
          (∀ e y, p.resolve (p.agentOf l.ref) (l.pol m) (argAt vs 0) 4 .read = (.error e, y) →
            F b x l = if e.unready then p.excuse l e else p)
          ∧ ∀ loc y w kid n, p.resolve (p.agentOf l.ref) (l.pol m) (argAt vs 0) 4 .read = (.ok [loc], y) →
              (loc = .dev w ∧ kid = (y.agentOf l.ref).ctx ∧ n = w) ∨ (loc = .host w ∧ kid = 0 ∧ n = hostWord w) →
              let z := F b x l
              let key := l2Key (y.agentOf l.ref).comp (n / 64)
              z.threads = y.threads
              ∧ (∀ u, aget? y.mem.l2 key = some u → u.kid = kid →
                  (op = 0 → ∃ v, aget? z.mem.l2 key = some v ∧ ∀ q ∈ u.words, ∃ k, aget? v.words q.1 = some k ∧ k.st = .shared)
                  ∧ (op = 1 → aget? z.mem.l2 key = none)
                  ∧ (op ≤ 1 → awf u.words = true → loc = .dev w → ∀ j < 64, ∀ d, isHostWord (n / 64 * 64 + j) = false →
                      aget? u.words j = some (cword (n / 64 * 64 + j) d false .modified 15) →
                      ∃ k, z.llcWord kid (n / 64 * 64 + j) = some k ∧ k.d = d ∧ k.psn = false)
                  ∧ (op = 2 → aget? z.mem.l2 key = some { u with cls := .stream })
                  ∧ (op = 3 → aget? z.mem.l2 key = some { u with cls := classOf (l.pol m) (w / 64 * 64) }))
              ∧ (op ≤ 1 → (∀ u, aget? y.mem.l2 key = some u → u.kid ≠ kid) → z = y))

/-- R386, R203, R49: MCST outside every replica entry is a store of 32 bits; inside one, each of the package's four replicas that is
backed gets a write, stamped by its own die, and each peer that the entry uses a write that carries an MCW message. -/
def MulticastStores : Prop :=
  ∀ (m : Fin 8) (fs : Bool) (a c : Src), ∃ F, ActsBy (.mcst m fs a c) .multicast m false F ∧
    ∀ (b x y : State) (l : Lane) (vs : List Val) (ls : List Loc),
      readConsumed b l [a, c] = .ok vs → b.pairDiffersBy (lowData 32) l [a, c] = false → b.shadowed l = false →
      x.reach l (l.pol m) (argAt vs 0) 4 true = (.ok ls, y) → y.isRollback l.ref = false →
      (y.mcstEntry l.ref (l.pol m) (argAt vs 0) ls = none →
        F b x l = (popSrcs y l [a, c]).startStore b l fs (l.pol m) (argAt vs 0) 4 (loWord (argAt vs 1)).toNat ls)
      ∧ ∀ r, y.mcstEntry l.ref (l.pol m) (argAt vs 0) ls = some r →
          (∀ die < 4, ∀ w, y.locOf (aget 0 r.pa die * 2 ^ 21 + ((argAt vs 0).toNat % 2 ^ 57 - r.va.toNat * 2 ^ 21)) false = .dev w →
            ∃ id k, aget? (F b x l).mem.writes id = some k ∧ k.comp = die ∧ k.w = w ∧ k.data = loWord (argAt vs 1) ∧ k.mask = 15
              ∧ (F b x l).causes l.ref (event .performAtDie { id := id, die := die, w := w }))
          ∧ ∀ j < 3, (aget 0 r.peer j).getLsbD 31 = true →
            let pkg := bitsOf (aget 0 r.peer j) 27 18
            let w := (bitsOf (aget 0 r.peer j) 17 0 * 2 ^ 21 + ((argAt vs 0).toNat % 2 ^ 57 - r.va.toNat * 2 ^ 21)) / 4
            ∃ id k, aget? (F b x l).mem.writes id = some k
              ∧ k.mcw = some { opc := 0x07, srcComp := y.compOf l.ref, srcPkg := y.arm.pkgid, dstPkg := pkg, mask := maskOf [w % 64],
                               unit := pkg * 2 ^ 31 + w / 64, words := [loWord (argAt vs 1)] }
              ∧ (F b x l).causes l.ref (event .performAtDie { id := id, die := y.compOf l.ref, w := 0 })

/-! ## Barriers and copies -/

/-- R195, R196, R392, R393, R396: the arrivals of BARV, BARW and BDROP in a lane that is no shadow. An arrival is a release: it waits for
the thread's earlier accesses, and one that follows accesses of its own chain is made when they have been performed. The last arrival
completes the phase: the phase counts on, and the arrivals start again; a thread in BARW waits for the phase that its arrival belongs
to. A phase of b0 waits for the team's quantum accesses and commutative contributions before it completes, and in a rollback launch for
the publication of the log and the team's shadow (R202, R453). An arrival at a barrier that is not initialised, or that its thread has
left or that expects none, traps. That arrivals wait while a full phase cannot complete is the model's choice (notes/assumptions/98.md). -/
def BarrierArrivals : Prop :=
  ∀ (b : Fin 16) (i : Instr) (drop wait : Bool),
    (i, drop, wait) ∈ [(Instr.barv b, false, false), (.barw b, false, true), (.bdrop b, true, false)] →
    ∃ F : State → Lane → State, (∀ s, exec i s = .next (s.issue.act.foldl F s)) ∧
      ∀ (s : State) (l : Lane) (T : Team), aget? s.teams (refTeam l.ref) = some T → s.shadowed l = false →
        let x : Barrier := aget {} T.bars b.val
        let after : Barrier := aget {} ((F s l).team (refTeam l.ref)).bars b.val
        let arrived := if drop then x.arrived else x.arrived + 1
        let expect := if drop then x.expect - 1 else x.expect
        let none_ := x.expect - (x.owed.filter fun o => o.2.1).length = 0
        let holds := x.due ≠ none ∨ (b = 0 ∧ T.shadow = true) ∨ x.owes l.ref = true ∨ s.releaseHolds l.ref = true
        let waits := if wait then { s.thread l.ref with pc := s.issue.here, park := .barw b.val x.phase } else s.thread l.ref
        (T.nbars ≤ b.val → F s l = s.excuse l (.trap 0x01 s.issue.word 0))
        ∧ (b.val < T.nbars → x.init = false → F s l = s.excuse l (.trap 0x0D (BitVec.ofNat 32 b.val) 0))
        ∧ (b.val < T.nbars → x.init = true → (l.ref ∈ x.drops ∨ none_) →
            F s l = s.excuse l (.trap 0x0E (BitVec.ofNat 32 b.val) 0))
        ∧ (b.val < T.nbars → x.init = true → l.ref ∉ x.drops → ¬ none_ → holds → F s l = s.excuse l .notReady)
        ∧ (b.val < T.nbars → x.init = true → l.ref ∉ x.drops → ¬ none_ → ¬ holds → s.ownRequests l.ref ≠ [] →
            after = { x with owed := x.owed ++ [(l.ref, drop, s.ownRequests l.ref)] } ∧ (F s l).thread l.ref = waits)
        ∧ (b.val < T.nbars → x.init = true → l.ref ∉ x.drops → ¬ none_ → ¬ holds → s.ownRequests l.ref = [] →
            let counted := { x with arrived := arrived, expect := expect, drops := if drop then l.ref :: x.drops else x.drops }
            (arrived ≠ expect → after = counted ∧ (F s l).thread l.ref = waits)
            ∧ (arrived = expect → (b = 0 → (s.launch T.launch).rollback = false) →
                (b = 0 → s.phaseWork (refTeam l.ref) = []) →
                after = { counted with arrived := 0, phase := x.phase + 1, bcur := false, bytes := if x.bcur then x.bytes else 0 }
                ∧ ((s.thread l.ref).park = .none → (F s l).thread l.ref = s.thread l.ref))
            ∧ (arrived = expect → b = 0 → (s.launch T.launch).rollback = false → s.phaseWork (refTeam l.ref) ≠ [] →
                after = { counted with due := some (s.phaseWork (refTeam l.ref)) } ∧ (F s l).thread l.ref = waits)
            ∧ (arrived = expect → b = 0 → (s.launch T.launch).rollback = true →
                after = { counted with due := after.due } ∧ after.due ≠ none ∧ ((F s l).team (refTeam l.ref)).shadow = true))

/-- R392: a completed phase releases every thread of the team that waits in BARW for an earlier phase of that barrier, and no other; one
whose arrival has still to be made waits for another phase. A waiter that a tile instruction's fault has taken out goes on after its
BARW when it comes back (R235). -/
def PhaseReleasesWaiters : Prop :=
  ∀ (s : State) (u b g k : Nat), g < (s.team u).groups.length → k < 32 →
    let r := laneRef u g k
    let t := (s.releaseWaits u b).thread r
    let x : Barrier := aget {} (s.team u).bars b
    let next : BitVec 57 → BitVec 57 := fun pc => if pc.toNat / 4 % 4 = 3 then pc + 8 else pc + 4
    (x.owes (s.primary r) = true → t = s.thread r)
    ∧ (x.owes (s.primary r) = false →
        (∀ ph, (s.thread r).park = .barw b ph → ph ≠ x.phase → t.park = .none ∧ t.pc = next (s.thread r).pc)
        ∧ (∀ pc ph, (∀ j p, (s.thread r).park ≠ .barw j p) → (s.thread r).park ≠ .none → (s.thread r).back = some (pc, .barw b ph) →
            ph ≠ x.phase → t = { s.thread r with back := some (next pc, .none) })
        ∧ ((∀ ph, (s.thread r).park = .barw b ph → ph = x.phase) → (s.thread r).back = none → t = s.thread r))

/-- R395, R397: BINIT sets the expected count from its lowest active lane, keeping the phase of a barrier that was initialised; while a full
phase or an arrival of the barrier is still to complete it tries again (the model's choice: notes/assumptions/98.md). BWAIT waits until
1 to 32,767 phases have completed since its operand; BTEST and BPHASE push what they see. -/
def Obligations.BarrierReads : Prop :=
  ∀ (b : Fin 16) (a : Src),
    (∃ I : State → Nat → State, (∀ s, exec (.binit b a) s = .next (s.actTeams.foldl I s)) ∧
      ∀ (s : State) (u : Nat) (T : Team) (l : Lane) (vs : List Val), aget? s.teams u = some T → s.lowest u = some l →
        readAll s l [a] .none = .ok vs → b.val < T.nbars →
        let x : Barrier := aget {} T.bars b.val
        (x.due ≠ none ∨ x.owed ≠ [] → I s u = s.excuseTeam u .notReady)
        ∧ (x.due = none → x.owed = [] →
            aget {} ((I s u).team u).bars b.val =
              (if anyPsn vs then { x with init := false }
               else { phase := if x.init then x.phase else 0, init := true, expect := (argAt vs 0).toNat % 2 ^ 11 })
            ∧ (I s u).threads = s.threads))
    ∧ ∃ W T P : State → Lane → State,
        (∀ s, exec (.bwait b a) s = .next (s.issue.act.foldl W s))
        ∧ (∀ s, exec (.btest b a) s = .next (s.issue.act.foldl T s).pushOff)
        ∧ (∀ s, exec (.bphase b) s = .next (s.issue.act.foldl P s).pushOff)
        ∧ ∀ (s : State) (l : Lane) (vs : List Val), b.val < (s.team (refTeam l.ref)).nbars →
            let x : Barrier := aget {} (s.team (refTeam l.ref)).bars b.val
            P s l = s.push l.ref { v := x.word }
            ∧ (readAll s l [a] .none = .ok vs → x.init = true →
                let d := (x.phase - (argAt vs 0).setWidth 16).toNat
                (anyPsn vs = true ∨ (1 ≤ d ∧ d ≤ 32767) → W s l = popSrcs s l [a])
                ∧ (anyPsn vs = false → d = 0 ∨ 32767 < d → W s l = s.excuse l .notReady)
                ∧ T s l = (popSrcs s l [a]).push l.ref
                    { v := if x.phase.getLsbD 0 = (argAt vs 0).getLsbD 0 then 0 else 1, psn := anyPsn vs })

/-- R399: a lane waits in CBAR or, in a resident launch, in GBAR, with its PC there; and when every live visible thread of the teams
concerned waits there and what their arrivals release has been performed, all go on after it. -/
def Obligations.CohortBarriers : Prop :=
  ∃ C G : State → Lane → State,
    (∀ s, exec .cbar s = .next (s.actTeams.foldl (fun x u => x.passBars u) (s.issue.act.foldl C s)))
    ∧ (∀ s, exec .gbar s = .next (s.actTeams.foldl (fun x u => x.passBars u) (s.issue.act.foldl G s)))
    ∧ (∀ (s : State) (l : Lane), s.isRollback l.ref = false →
        (C s l).thread l.ref = { s.thread l.ref with pc := s.issue.here, park := .cbar }
        ∧ ((s.launchOf l.ref).resident = true →
            (G s l).thread l.ref = { s.thread l.ref with pc := s.issue.here, park := .gbar })
        ∧ ((s.launchOf l.ref).resident = false → G s l = s.excuse l (.trap 0x01 s.issue.word 0)))
    ∧ ∀ (s : State) (us : List Nat) (p : Park), us.Nodup → p ≠ .none → s.liveOf us ≠ [] →
        (∀ r ∈ s.visible (s.liveOf us), (s.thread r).park = p) → (∀ u ∈ us, s.unreleased u false = false) →
        ∀ r ∈ s.liveOf us, (s.thread r).park = p → ((s.passAll us p).thread r).park = .none
          ∧ ((s.passAll us p).thread r).pc = if (s.thread r).pc.toNat / 4 % 4 = 3 then (s.thread r).pc + 8 else (s.thread r).pc + 4

/-- R240, R241, R271, R401 to R403: CPLD, CPST and CPFILL, team by team. A queue without room for the bundle's copies stalls the bundle. A
lane outside the producer group traps NOT_PRODUCER. When the checks fail, every lane of the producer group takes the trap; the copy of
a team whose checks pass is entered at the end of its queue, its flag is set in the lanes that issued it, and no memory has changed
yet. -/
def Obligations.CopiesBegin : Prop :=
  ∀ (h : Fin 32) (bar : Fin 16) (ben fs : Bool) (m : Fin 8) (a : Src) (i : Instr) (kind : CopyKind) (h' : Nat),
    (i, kind, h') ∈ [(Instr.cpld h bar ben fs m a, CopyKind.cpld, h.val), (.cpst h bar ben fs m a, .cpst, h.val),
      (.cpfill bar ben fs m a, .cpfill, 0)] →
    let stalls := fun s : State => s.copyRoom s.issueCore kind < copyCount s kind h' bar.val ben fs m a
    (∀ s, stalls s → exec i s = .next (s.excuseBundle .notReady))
    ∧ ∃ G : State → State → Nat → State, (∀ s, ¬ stalls s → exec i s = .next (s.actTeams.foldl (G s) s)) ∧
      ∀ (b s : State) (u : Nat),
        let lanes := b.issue.act.filter fun l => refTeam l.ref = u
        let mine := fun l : Lane => refGrp l.ref = (b.launch (b.team u).launch).rc.producer
        let z := (lanes.filter fun l => ¬ mine l).foldl (fun x l => x.excuse l (.trap 0x0B 0 0)) s
        (ben = true → (b.team u).nbars ≤ bar.val → G b s u = lanes.foldl (fun x l => x.excuse l (.trap 0x01 b.issue.word 0)) s)
        ∧ ((ben = true → bar.val < (b.team u).nbars) → lanes.filter mine = [] → G b s u = z)
        ∧ ∀ (l : Lane) (rest : List Lane), (ben = true → bar.val < (b.team u).nbars) → lanes.filter mine = l :: rest →
          let check := copyCheck b kind h' (if ben then some bar.val else none) m (b.issue.flag fs) a l ((l :: rest).map fun k => k.ref)
          (∀ e, check = .error e → G b s u = (l :: rest).foldl (fun x k => x.excuse k e) z)
          ∧ ∀ o, check = .ok o → (kind = .cpst → z.isRollback l.ref = false) →
            ∃ id, aget? (G b s u).ops id = some (.copy o)
              ∧ (kind = .cpst → ((G b s u).core o.core).storeq = (z.core o.core).storeq ++ [id])
              ∧ (kind ≠ .cpst → ((G b s u).core o.core).loadq = (z.core o.core).loadq ++ [id])
              ∧ (G b s u).causes l.ref (event .copyComplete { id := id })
              ∧ (G b s u).mem = z.mem
              ∧ ((o.lanes.Nodup) → ∀ r ∈ o.lanes, (G b s u).thread r = flagged (z.thread r) o.flag)

/-- R242: the words of a copy. Those of CPFILL lie one after another in local memory; those of CPLD and CPST are the words of the box's
rows that lie inside the tensor, row by row, each with the bytes of it that elements take. -/
def CopyWords : Prop :=
  ∀ (o : CopyOp) (p : Piece),
    (o.kind = .cpfill → (p ∈ o.pieces ↔ ∃ i, i < o.len / 4 ∧ p = { va := 0, loc := o.loc + 4 * i, mask := 15 }))
    ∧ (o.kind ≠ .cpfill →
        let t := tensorOf o.rc
        let bytes := (t.boxSize o.coord).2 * t.width / 8
        (p ∈ o.pieces ↔ ∃ r i, r < (t.boxSize o.coord).1 ∧ 4 * i < bytes ∧
          p = { va := vaOf (t.addr (coordCh o.coord) (coordC0 o.coord) (coordC1 o.coord + r) + Int.ofNat (4 * i)),
                loc := o.loc + r * t.pitch + 4 * i, mask := BitVec.ofNat 4 (2 ^ min 4 (bytes - 4 * i) - 1) }))

/-- R240, R242: what a copy does with a word whose address resolves and which nothing holds. CPFILL writes the pattern to local memory.
CPLD reads the word at its address, and local memory then holds its bytes, or poison where it was poisoned. CPST reads the word of local
memory, and its bytes are written at the address. -/
def CopyMoves : Prop :=
  ∀ (s y : State) (id : Nat) (o : CopyOp) (g : Site) (p : Piece) (ps : List Piece) (x loc : Loc),
    s.padLoc o.team (polSpace o.pol) p.loc = some loc → (∃ v n, loc = .pad v n) →
    let goes := fun z : State => s.runCopy id o g (p :: ps) = z.runCopy id { o with next := o.next + 1 } g ps
    (o.kind = .cpfill → ∃ z, goes z ∧ ∃ z', z.readLocal loc = (o.pattern, false, z'))
    ∧ (s.engineLoc g p.va (o.kind == .cpst) = (.ok x, y) → x ≠ .none → y.padLoc o.team (polSpace o.pol) p.loc = some loc →
        y.engineHold g (o.kind == .cpst) (event .copyComplete { id := id }) x = none →
        (o.kind = .cpld → ∃ z, goes z ∧
          let r := y.engineRead g (match x with
            | .dev w => classOf o.pol w
            | _ => .normal) (polFill o.pol) x
          let old := r.2.2.readLocal loc
          (r.2.1 = true → p.mask = 15 → (z.readLocal loc).2.1 = true)
          ∧ (r.2.1 = false → (p.mask ≠ 15 → old.2.1 = false) →
              (z.readLocal loc).1 = mergeBytes p.mask old.1 r.1 ∧ (z.readLocal loc).2.1 = false))
        ∧ (o.kind = .cpst → ∀ w, x = .dev w → ∃ z, goes z ∧
            let r := y.readLocal loc
            z = r.2.2.dieWrite (dieOfCore g.core) g.ctx w (classOf o.pol w) r.1 p.mask r.2.1))

/-- R240, R242, R243: what a copy moves, and COPY_COMPLETE. When the last word has moved, the copy leaves its queue, its flag clears in the
lanes that issued it, and it arrives at its barrier with its bytes. -/
def Obligations.CopiesEnd : Prop :=
  CopyWords ∧ CopyMoves ∧
  ∀ (s y : State) (o : CopyOp), aget? s.ops s.ev.id = some (.copy o) → s.copyRuns s.ev.id o = true →
    s.runCopy s.ev.id { o with started := true } (s.siteOf o.team 2) (o.pieces.drop o.next) = (true, y) →
    ∃ t, exec .copyComplete s = .next t
      ∧ (∀ id ∈ (t.core o.core).loadq ++ (t.core o.core).storeq, id ≠ s.ev.id)
      ∧ (∀ r ∈ o.lanes, o.flag < 12 → (t.thread r).cf.getLsbD o.flag = false)
      ∧ (∀ b T, o.bar = some b → aget? y.teams o.team = some T →
          let x : Barrier := aget {} T.bars b
          x.expect ≠ 0 → x.due = none → (b = 0 → T.shadow = false) → x.arrived + 1 ≠ x.expect →
          aget {} (t.team o.team).bars b =
            { x with arrived := x.arrived + 1, bcur := true, bytes := min ((if x.bcur then x.bytes else 0) + o.count) (2 ^ 24 - 1) })


/-! ## The tensor engine -/

/-- R233, R236, R256, R404, R408: TMMA, TMMA.sc, TMMS, TZERO, TLDA, TDRAIN and CHRUN. While no group of the bundle has a tile instruction
outstanding, one operation is enqueued for each group whose presence guard is present, when its checks pass; the first check that
fails stops the bundle with nothing enqueued; and where no guard is present nothing happens but that the bundle is not counted. A
group whose presence guard is present has to be whole, whatever the guards of its threads are. -/
def Obligations.TileInstructionsBegin : Prop :=
  ∀ (z : Fin 16) (fs : Bool) (acc : Fin 32) (hs : Fin 4) (cl : Fin 8) (sel : BitVec 6) (n : Fin 4)
    (i : Instr) (kind : TileKind) (h cl' : Nat),
    (i, kind, h, cl') ∈ [(Instr.tmma z fs acc hs cl, TileKind.mma, 8 * hs.val, cl.val),
      (.tmmaSc z fs acc hs cl sel, .sc sel.toNat, 8 * hs.val, cl.val), (.tmms z fs acc hs cl n, .ms n.val, 8 * hs.val, cl.val),
      (.tzero z fs acc, .zero, 0, 0), (.tlda z fs acc hs, .lda, 8 * hs.val, 0),
      (.tdrain z fs acc hs cl, .drain, 8 * hs.val, cl.val), (.chrun z fs acc hs cl, .chrun, 8 * hs.val, cl.val)] →
    ∃ E : State → TileOp → State,
      (∀ s : State,
        (∀ p ∈ groupsOf s.issue.all, ((aget noTeam s.issue.teams p.1).groups.getD p.2 noGroup).tile = none) →
        let gs := s.presentGroups s.issue.act z.val
        let whole := (s.presentGroups s.issue.everyone z.val).all fun p => s.groupWhole p.1 p.2
        let ti : TileInstr := { kind := kind, z := z.val, acc := acc.val, h := h, cl := cl', flag := s.issue.flag fs }
        let check := fun (k : Nat) (p : Nat × Nat) => ti.check s s whole k (s.leadLane p.1 p.2) (s.actOf p.1 p.2)
        (gs = [] → s.issue.act ≠ [] → whole = true → exec i s = .next { s with issue := { s.issue with uncounted := true } })
        ∧ (gs = [] → whole = false → exec i s = .next ((s.markEmpty gs).excuseBundle (.trap 0x02 0 0)))
        ∧ (∀ os : List TileOp, gs ≠ [] → gs.mapIdx check = os.map Except.ok →
            exec i s = .next { os.foldl E s with free := s.free + 32 * os.length })
        ∧ (∀ pre p post (os : List TileOp) x, gs = pre ++ p :: post → pre.mapIdx check = os.map Except.ok →
            check pre.length p = .error x → exec i s = .next (s.excuseBundle x))
        ∧ ∀ w n l lanes o, ti.check s s w n l lanes = .ok o →
            (o.kind, o.acc, o.flag, o.lanes, o.team, o.grp, o.pc)
              = (kind, acc.val, s.issue.flag fs, lanes, refTeam l.ref, refGrp l.ref, s.issue.here)
            ∧ w = true ∧ (s.core o.core).seq.length + n < 8 ∧ acc.val < (s.preTeam l.ref).accs
            ∧ (kind.multiplies = true → s.handleOf l.ref h = some o.ra ∧ s.handleOf l.ref (h + 1) = some o.rb
                ∧ o.ca = l.pre.n[8].v ∧ o.cb = l.pre.n[9].v ∧ l.pre.n[8].psn = false ∧ l.pre.n[9].psn = false))
      ∧ ∀ (s : State) (o : TileOp) (T : Team), aget? s.teams o.team = some T → o.grp < T.groups.length →
          let t := E s o
          aget? t.ops s.nextId = some (.tile o) ∧ (t.core o.core).seq = (s.core o.core).seq ++ [s.nextId]
          ∧ ((t.team o.team).groups.getD o.grp noGroup).tile = some s.nextId
          ∧ ((t.team o.team).groups.getD o.grp noGroup).tilePc = o.pc
          ∧ (t.team o.team).acc = T.acc ∧ t.mem = s.mem
          ∧ t.causes (o.lanes.headD 0) (event o.kind.first { id := s.nextId })
          ∧ (o.lanes.Nodup → ∀ r ∈ o.lanes, t.thread r = flagged (s.thread r) o.flag) ∧ ∀ r, r ∉ o.lanes → t.thread r = s.thread r

/-- R222, R223, R229, R230, R233, R234, R409: TILE_SLAB_COMPLETE. The slab that runs adds, to every accumulator element of the rows of A and
columns of B that are in bounds, its block sums in increasing K, and to no other; the slab of a CHRUN does so with the rows that its
program holds, or with A's rows with zeros masked when its entry is dense, and reads the rows of B that they use (R264); TLDA loads its
accumulator, and TZERO clears it. After the last slab the operation is done; an operation of no slabs changes no accumulator. -/
def TileSlabRuns : Prop :=
  ∀ (s : State) (o : TileOp), s.tileNo s.ev.id = some o → s.tileRuns s.ev.id o = true → o.flag < 12 →
    let b := s.beginTile s.ev.id o
    ∃ t, exec .tileSlabComplete s = .next t
      ∧ (o.kind = .zero → ∀ T, aget? s.teams o.team = some T →
          (∀ k, aget 0 (t.team o.team).acc k = if k / 1024 = o.acc then 0 else aget 0 T.acc k)
          ∧ s.ev.id ∉ (t.core o.core).seq ∧ (∀ r ∈ o.lanes, (t.thread r).cf.getLsbD o.flag = false) ∧ t.mem = s.mem)
      ∧ (o.kind = .lda → ∀ m y T,
          b.tileFetch s.ev.id o (event .tileSlabComplete { id := s.ev.id })
            (needWords [] (o.loadGrid.filterMap (·.2)) o.a.width) [] = (.ok m, y) →
          aget? y.teams o.team = some T →
          (∀ i < 32, ∀ j < 32, aget 0 (t.team o.team).acc (accKey o.acc i j) =
            match o.loadAt i j with
            | some ba => o.loadValue (m.code ba o.a.width)
            | none => 0)
          ∧ (∀ k, k / 1024 ≠ o.acc → aget 0 (t.team o.team).acc k = aget 0 T.acc k)
          ∧ s.ev.id ∉ (t.core o.core).seq)
      ∧ ((o.kind = .mma ∨ (∃ x, o.kind = .sc x) ∨ ∃ x, o.kind = .ms x) →
          (o.slabs ≤ o.slab → (t.team o.team).acc = (s.team o.team).acc ∧ s.ev.id ∉ (t.core o.core).seq)
          ∧ ∀ m y T, o.slab < o.slabs →
              b.slabFetch s.ev.id o (event .tileSlabComplete { id := s.ev.id }) = (.ok m, y) →
              aget? y.teams o.team = some T →
              (∀ i < o.rowsA, ∀ j < o.colsB, aget 0 (t.team o.team).acc (accKey o.acc i j) =
                accumulate o.intForm (o.scale (y.launch T.launch).protect i j)
                  ((o.aRows m).getD i []) ((o.bCols m).getD j []) (aget 0 T.acc (accKey o.acc i j)))
              ∧ (∀ k, (∀ i < o.rowsA, ∀ j < o.colsB, k ≠ accKey o.acc i j) →
                  aget 0 (t.team o.team).acc k = aget 0 T.acc k)
              ∧ (o.slab + 1 < o.slabs → aget? t.ops s.ev.id =
                    some (.tile { o with slab := o.slab + 1, bad := ((y.tileNo s.ev.id).getD o).bad })
                  ∧ event .tileSlabComplete { id := s.ev.id } ∈ t.agenda)
              ∧ (o.slabs ≤ o.slab + 1 → s.ev.id ∉ (t.core o.core).seq
                  ∧ ∀ r ∈ o.lanes, (t.thread r).cf.getLsbD o.flag = false))
      ∧ (o.kind = .chrun → o.prog = none → event .chiselCompileEnd { id := s.ev.id } ∈ t.agenda ∧ t.teams = b.teams)
      ∧ (o.kind = .chrun → ∀ dense ops rows m m' w y z T, o.prog = some (dense, ops) →
          (dense = false → rows = progRows o.classes.1 o.rowsA ops ∧ m = [] ∧ y = b) →
          (dense = true → b.tileFetch s.ev.id o (event .tileSlabComplete { id := s.ev.id })
              (needWords [] (gridElems (o.aGrid [])) o.a.width) [] = (.ok w, y) ∧ rows = maskZeros (o.aRows w) ∧ m = w) →
          y.tileFetch s.ev.id o (event .tileSlabComplete { id := s.ev.id })
            (needWords [] (o.bElems ((usedKs rows).filter o.kIn)) o.b.width) m = (.ok m', z) →
          aget? z.teams o.team = some T →
          (∀ i < o.rowsA, ∀ j < o.colsB, aget 0 (t.team o.team).acc (accKey o.acc i j) =
            accumulate o.intForm (o.scale false i j) (rows.getD i []) ((o.bCols m').getD j []) (aget 0 T.acc (accKey o.acc i j)))
          ∧ (∀ k, (∀ i < o.rowsA, ∀ j < o.colsB, k ≠ accKey o.acc i j) → aget 0 (t.team o.team).acc k = aget 0 T.acc k)
          ∧ s.ev.id ∉ (t.core o.core).seq ∧ ∀ r ∈ o.lanes, (t.thread r).cf.getLsbD o.flag = false)

/-- R263, R264: what a compiled program holds of its tile: at every position within the K bounds, the element of A, or nothing where it is
zero, as a dense entry runs it. -/
def ChiselPrograms : Prop :=
  ∀ (o : TileOp) (m : WordMap) (ops : List Word), o.kind = .chrun → o.m ≤ 64 → o.a.width ≤ 8 → o.compile m = (false, ops) →
    ∀ i < o.rowsA, ∀ k < 48, o.kIn k = true →
      ((progRows o.classes.1 o.rowsA ops).getD i []).getD k none = ((maskZeros (o.aRows m)).getD i []).getD k none

/-- R222, R223, R229, R230, R233, R234, R263, R264, R409: the slabs of the tile instructions, and the programs that CHRUN runs. -/
def Obligations.TileSlabs : Prop := TileSlabRuns ∧ ChiselPrograms

/-- R237, R239, R410: DRAIN_CAPTURE_END stages the image with the stochastic state of the group's lowest live thread, leaves the sequencer,
and takes a drain buffer; DRAIN_COMPLETE, once what the drain publishes before its first write has been performed, writes the staged
words and then frees the buffer and clears the flag. The accumulators stay. -/
def Obligations.Drains : Prop :=
  (∀ (s : State) (o : TileOp) (T : Team), s.tileNo s.ev.id = some o → o.kind = .drain → s.tileRuns s.ev.id o = true →
    aget? s.teams o.team = some T → (s.launch T.launch).rollback = false →
    let r := (s.liveRefs o.team o.grp).headD (laneRef o.team o.grp 0)
    let g := o.staged T.acc (s.thread r).sr
    ∃ t, exec .drainCaptureEnd s = .next t
      ∧ (t.thread r).sr = g.sr ∧ (t.team o.team).acc = T.acc ∧ t.mem = s.mem
      ∧ s.ev.id ∉ (t.core o.core).seq
      ∧ ((t.team o.team).groups.getD o.grp noGroup).tile ≠ some s.ev.id
      ∧ (stageWords g.bytes ≠ [] →
          aget? t.ops s.ev.id = some (.tile { o with captured := true, outs := stageWords g.bytes, bytes := g.bits / 8 })
          ∧ (t.core o.core).drains = (s.core o.core).drains ++ [s.ev.id]
          ∧ t.agenda = event .drainComplete { id := s.ev.id } :: s.agenda)
      ∧ (stageWords g.bytes = [] → s.ev.id ∉ (t.core o.core).drains))
  ∧ ∀ (s y : State) (o : TileOp), s.tileNo s.ev.id = some o → o.captured = true → o.fault = none →
      s.drainWaits o = false → s.forkHolds (groupRefs o.team o.grp) s.ev.id = false →
      s.runDrain s.ev.id o (s.siteOf o.team 1) (o.outs.drop o.next) = (true, y) →
      ∃ t, exec .drainComplete s = .next t
        ∧ s.ev.id ∉ (t.core o.core).drains
        ∧ (∀ r ∈ o.lanes, o.flag < 12 → (t.thread r).cf.getLsbD o.flag = false)
        ∧ ((ctlBar o.ctl = some 0 → (y.launch (y.team o.team).launch).rollback = false) → t.mem = y.mem)
        ∧ (t.team o.team).acc = (y.team o.team).acc

/-- R262, R265, R266, R425: a compile in the cache of a core, when the tile's words resolve and the team's log holds none of them. An absent
or stale entry is compiled into, its words watched from then on. The end of the compile gives the entry its program and its version,
stale if the compile became so; the CHRUNs that reached it in time run it; a CHPRE whose compile became stale compiles again, and
another one ends. -/
def ChiselCompiles : Prop :=
  ∀ (s y : State) (o : TileOp) (ws : List Loc),
    let id := s.ev.id
    let e := event .chiselCompileEnd { id := id }
    s.tileNo id = some o → o.kind = .chrun ∨ o.kind = .chpre → o.prog = none → s.tileRuns id o = true →
    ((s.beginTile id o).applyAll (dieOfCore o.core)).tileWords o = (.ok ws, y) → (y.team o.team).logs ws = false →
    ((y.core o.core).chEntry o.entry = none → ∃ t n, exec .chiselCompileEnd s = .next t ∧ e ∈ t.agenda
      ∧ (t.core o.core).chEntry o.entry = some { o.entry with busy := some id, fresh := true, watch := ws, use := n })
    ∧ ∀ x, (y.core o.core).chEntry o.entry = some x →
      (y.compiling x = none → x.stale = true ∨ x.busy ≠ none → ∃ t n, exec .chiselCompileEnd s = .next t ∧ e ∈ t.agenda
        ∧ (t.core o.core).chEntry o.entry = some { x with busy := some id, late := false, serve := [], watch := ws, use := n })
      ∧ (y.compiling x = none → x.stale = false → x.busy = none → ∃ t, exec .chiselCompileEnd s = .next t ∧ t.mem.data = y.mem.data
        ∧ (o.kind = .chrun → aget? t.ops id = some (.tile { o with prog := some (x.dense, x.ops) })
            ∧ event .tileSlabComplete { id := id } ∈ t.agenda)
        ∧ (o.kind = .chpre → o.flag < 12 → ∀ r ∈ o.lanes, (t.thread r).cf.getLsbD o.flag = false))
      ∧ ∀ z x' dense ops, y.compiling x = some id → y.chRead id o e = (.prog dense ops, z) →
          (z.core o.core).chEntry x = some x' →
          ∃ t, exec .chiselCompileEnd s = .next t
            ∧ (∃ n, (t.core o.core).chEntry o.entry = some n ∧ n.ops = ops ∧ n.dense = dense ∧ n.stale = x'.late ∧ n.busy = none
                ∧ n.version = if x'.fresh then 0 else (x'.version + 1) % 2 ^ 16)
            ∧ (∀ j ∈ x.serve, j ≠ id → ∀ w, z.tileNo j = some w →
                aget? t.ops j = some (.tile { w with prog := some (dense, ops) }) ∧ event .tileSlabComplete { id := j } ∈ t.agenda)
            ∧ (o.kind = .chpre → x'.late = true → id ∉ x.serve → t.tileNo id = z.tileNo id ∧ t.threads = z.threads)
            ∧ (o.kind = .chpre → x'.late = false → o.flag < 12 → ∀ r ∈ o.lanes, (t.thread r).cf.getLsbD o.flag = false)

/-- R262, R263, R265, R267, R425, R426: the Chisel. CHPRE starts a compile of its tile, in each team whose checks pass. CHINV makes stale
the entries of its context that its scope picks, on every core of the die, and no other: with scope 0 the one of an identity, with 1
those of a record, with 2 all; a compile in progress becomes stale when it ends. CHRD pushes an entry's status and one micro-op, and
waits for a compile in progress. CHISEL_COMPILE_END gives a CHRUN its program and lets its slab follow, and ends a CHPRE. -/
def Obligations.ChiselInstructions : Prop :=
  ChiselCompiles ∧
  ∀ (fs : Bool) (hs : Fin 4) (cl : Fin 8) (imm : BitVec 8),
    ∃ P I D : State → State → Nat → State,
      (∀ s, exec (.chpre fs hs cl) s = .next (s.actTeams.foldl (P s) s))
      ∧ (∀ s, exec (.chinv fs hs imm) s = .next (s.actTeams.foldl (I s) s))
      ∧ (∀ s, exec (.chrd fs hs cl) s = .next (s.actTeams.foldl (D s) s).pushOff)
      ∧ (∀ (b s : State) (u : Nat) (l : Lane) (rest : List Lane), (s.issue.act.filter fun l => refTeam l.ref = u) = l :: rest →
          let hd := 8 * hs.val
          let here := (b.preTeam l.ref)
          let gone := fun e : ChEntry => if e.busy.isSome then { e with late := true } else { e with stale := true }
          (enginePolicyOk l.pre.m[0] = false → P b s u = s.excuseTeam u (.trap 0x03 l.pre.m[0] 0)
            ∧ I b s u = s.excuseTeam u (.trap 0x03 l.pre.m[0] 0) ∧ D b s u = s.excuseTeam u (.trap 0x03 l.pre.m[0] 0))
          ∧ (enginePolicyOk l.pre.m[0] = true → aget? here.handles hd = none →
              P b s u = s.excuseTeam u (.trap 0x05 (BitVec.ofNat 32 hd) 0) ∧ D b s u = s.excuseTeam u (.trap 0x05 (BitVec.ofNat 32 hd) 0))
          ∧ (∀ o, chiselCheck b .chpre hd cl.val (b.issue.flag fs) l (l :: rest) = .ok o →
              badCorner (o.a.kCorners o.ca o.m 48) = none → coordC0 o.ca % 16 = 0 →
              aget? (P b s u).ops s.nextId = some (.tile o) ∧ aget? here.handles hd = some o.ra
              ∧ (P b s u).causes l.ref (event .chiselCompileEnd { id := s.nextId }) ∧ (P b s u).mem = s.mem
              ∧ ((o.lanes).Nodup → ∀ r ∈ o.lanes, (P b s u).thread r = flagged (s.thread r) o.flag))
          ∧ (∀ o, chiselCheck b .chpre hd cl.val 15 l (l :: rest) = .ok o →
              let e := (b.core o.core).chEntry o.entry
              (e.bind b.compiling = none → D b s u = (l :: rest).foldl (chrdLane e) s)
              ∧ (e.bind b.compiling ≠ none → D b s u = s.excuseTeam u .notReady))
          ∧ (enginePolicyOk l.pre.m[0] = true → imm = 2 → ∀ c k, aget? s.cores c = some k →
              ∃ k', aget? (I b s u).cores c = some k' ∧ k'.chisel = k.chisel.map fun e =>
                if e.ctx = here.ctx ∧ dieOfCore c = dieOfCore here.core then gone e else e)
          ∧ (enginePolicyOk l.pre.m[0] = true → imm = 0 → ∀ rc, aget? here.handles hd = some rc → 3 ≤ (tensorOf rc).etype →
              l.pre.n[8].psn = false → l.pre.n[8].pend = none → ∀ c k, aget? s.cores c = some k →
              ∃ k', aget? (I b s u).cores c = some k' ∧ k'.chisel = k.chisel.map fun e =>
                if e.ctx = here.ctx ∧ e.rc = rc ∧ e.coord = l.pre.n[8].v ∧ e.m = (here.groupOf l.ref).m
                  ∧ e.fmt = idFormat (tensorOf rc).etype (2 * e.cl) l.pre.f[0] ∧ dieOfCore c = dieOfCore here.core then gone e else e)
          ∧ (enginePolicyOk l.pre.m[0] = true → imm = 1 → ∀ rc, aget? here.handles hd = some rc → 3 ≤ (tensorOf rc).etype →
              l.pre.n[8].psn = false → l.pre.n[8].pend = none → ∀ c k, aget? s.cores c = some k →
              ∃ k', aget? (I b s u).cores c = some k' ∧ k'.chisel = k.chisel.map fun e =>
                if e.ctx = here.ctx ∧ e.rc = rc ∧ dieOfCore c = dieOfCore here.core then gone e else e))
      ∧ (∀ (e : Option ChEntry) (s : State) (l : Lane), l.pre.n[9].psn = false → l.pre.n[9].pend = none →
          chrdLane e s l = s.push l.ref { v := chStatus e ++ chOp e (l.pre.n[9].v.toNat % 2 ^ 11) })
      ∧ (∀ (s y : State) (o : TileOp) (dense : Bool) (ops : List Word), s.tileNo s.ev.id = some o → o.kind = .chrun ∨ o.kind = .chpre →
          o.prog = none → s.tileRuns s.ev.id o = true →
          (s.beginTile s.ev.id o).chLookup s.ev.id o (event .chiselCompileEnd { id := s.ev.id }) = (.prog dense ops, y) →
          ∃ t, exec .chiselCompileEnd s = .next t ∧ t.mem = y.mem
            ∧ (o.kind = .chrun → aget? t.ops s.ev.id = some (.tile { o with prog := some (dense, ops) })
                ∧ t.agenda = event .tileSlabComplete { id := s.ev.id } :: y.agenda)
            ∧ (o.kind = .chpre → ∀ r ∈ o.lanes, o.flag < 12 → (t.thread r).cf.getLsbD o.flag = false))
      ∧ ∀ (o : TileOp) (m : WordMap) (ops : List Word), o.m ≤ 64 → o.a.width ≤ 8 → o.compile m = (false, ops) →
          ops.length ≤ 1024 ∧ ops.getLast? = some 0 ∧ 5 * (o.nonZeros m).length ≤ 2 * o.m * 48
          ∧ (ops.filter fun w => microKind w = 2) =
              (o.nonZeros m).map fun p => BitVec.ofNat 32 (2 * 2 ^ 30 + p.1 * 2 ^ 24 + p.2.1 * 2 ^ 18 + p.2.2)

/-- R155, R257, R411, R414: the presence registers and the tensor-record handles, team by team, and what ZTST, HRD and TSHAPE push. Writes
to z0 are ignored; an invalid record traps and leaves the handle. -/
def Obligations.PresenceAndHandles : Prop :=
  ∀ (fs : Bool) (a : Src) (z z' k0 : Fin 16) (op : Fin 4) (h : Fin 32),
    (∃ Z L S : State → State → Nat → State,
      (∀ s, exec (.zset z fs a) s = .next (s.actTeams.foldl (Z s) s)) ∧ (∀ s, exec (.zlog k0 z z' op fs) s = .next (s.actTeams.foldl (L s) s))
      ∧ (∀ s, exec (.hset h z fs a) s = .next (s.actTeams.foldl (S s) s))
      ∧ ∀ (b s : State) (u : Nat) (T : Team) (l : Lane) (rest : List Lane), aget? s.teams u = some T →
          (s.issue.act.filter fun l => refTeam l.ref = u) = l :: rest → (∀ i, a ≠ .dq i) →
          (∀ vs, readConsumed b l [a] = .ok vs →
            ((Z b s u).team u).z = (if z = 0 then T.z else setBit T.z z.val ((argAt vs 0).getLsbD 0))
            ∧ (Z b s u).threads = s.threads ∧ (Z b s u).mem = s.mem
            ∧ (let ws := setRecord ((aget? (b.preTeam l.ref).handles h.val).getD (List.replicate 32 0)) z.val (argAt vs 0)
               (recordOk ws = true → aget? ((S b s u).team u).handles h.val = some ws)
               ∧ (recordOk ws = false → S b s u = s.excuseTeam u (.trap 0x05 (BitVec.ofNat 32 h.val) 0))))
          ∧ ((L b s u).team u).z = (if k0 = 0 then T.z else setBit T.z k0.val
              (match op with
                | 0 => (b.preTeam l.ref).getZ z.val && (b.preTeam l.ref).getZ z'.val
                | 1 => (b.preTeam l.ref).getZ z.val || (b.preTeam l.ref).getZ z'.val
                | 2 => (b.preTeam l.ref).getZ z.val ^^ (b.preTeam l.ref).getZ z'.val
                | 3 => (b.preTeam l.ref).getZ z.val && !(b.preTeam l.ref).getZ z'.val))
          ∧ (L b s u).threads = s.threads ∧ (L b s u).mem = s.mem)
    ∧ (∃ H : State → State → Nat → State, (∀ s, exec (.hld h fs a) s = .next (s.actTeams.foldl (H s) s))
      ∧ ∀ (b s y : State) (u : Nat) (T : Team) (l : Lane) (rest : List Lane) (vs : List Val) (ws : List Word),
          (s.issue.act.filter fun l => refTeam l.ref = u) = l :: rest → readConsumed b l [a] = .ok vs → (∀ i, a ≠ .dq i) →
          s.readRecord l (argAt vs 0) = (.ok ws, y) → aget? y.teams u = some T →
          (recordOk ws = true → aget? ((H b s u).team u).handles h.val = some ws ∧ (H b s u).threads = y.threads)
          ∧ (recordOk ws = false → H b s u = y.excuseTeam u (.trap 0x05 (BitVec.ofNat 32 h.val) 0)))
    ∧ Acts (.ztst z fs) [] .none true false (fun _ => True) (fun _ _ _ => {})
        (fun s l _ t => t.pushed { v := if z = 0 ∨ (s.preTeam l.ref).z.getLsbD z.val = true then 1 else 0 })
    ∧ Acts (.hrd h z fs) [] .none true false (fun _ => True) (fun _ _ _ => {})
        (fun s l _ t => t.pushed { v := match aget? (s.preTeam l.ref).handles h.val with
          | some ws => ws.getD (2 * z.val + 1) 0 ++ ws.getD (2 * z.val) 0
          | none => 0 })
    ∧ ∀ s : State, (∀ p ∈ groupsOf s.issue.all, ((aget noTeam s.issue.teams p.1).groups.getD p.2 noGroup).tile = none) →
        (∀ p ∈ groupsOf (s.issue.everyone.map (·.ref)), s.groupWhole p.1 p.2 = true) → (s.issue.lanes.map (·.ref)).Nodup →
        (∀ l ∈ s.issue.lanes, refKind l.ref = .lane) →
        ∃ t, exec (.tshape z fs) s = .next t
          ∧ (∀ l ∈ s.issue.act, t.thread l.ref =
              if z = 0 ∨ (aget noTeam s.issue.teams (refTeam l.ref)).z.getLsbD z.val = true then
                (s.thread l.ref).pushed (let g := (s.preTeam l.ref).groupOf l.ref
                  if (s.launchOf l.ref).shapemenu then { v := BitVec.ofNat 64 (g.m % 256 * 2 ^ 32 + g.rows % 2 ^ 32) }
                  else { v := BitVec.ofNat 64 (32 * 2 ^ 32 + 32) })
              else s.thread l.ref)
          ∧ (∀ l ∈ s.issue.off, t.thread l.ref =
              if z = 0 ∨ (aget noTeam s.issue.teams (refTeam l.ref)).z.getLsbD z.val = true then (s.thread l.ref).pushed l.pre.q[0]
              else s.thread l.ref)
          ∧ t.teams = s.teams ∧ t.mem = s.mem

/-! ## The access processor -/

/-- R201, R245, R247 to R249, R253, R254, R417, R419, R420: APGO, once the earlier accesses of its lanes have been performed, starts a
team's program at the target with its argument in n0 and a copy of the policy registers; APWAIT is not ready while the program is busy,
and pushes its status; DQSEND pushes an entry with one value for every lane of the mask; DQCNT and GVALID push what the lane could pop;
and a branch that resolves ends the speculation, so that entries which only it held are visible or freed, or squashes every younger
instruction and its entries. -/
def Obligations.AccessPrograms : Prop :=
  ∀ (fs : Bool) (a c : Src) (q : Fin 8),
    (∃ G : State → State → Nat → State, (∀ s, exec (.apgo fs a c) s = .next (s.actTeams.foldl (G s) s)) ∧
      ∀ (b s : State) (u : Nat) (T : Team) (l : Lane) (rest : List Lane), aget? s.teams u = some T →
        (s.issue.act.filter fun l => refTeam l.ref = u) = l :: rest →
        let held := b.forkHolds ((l :: rest).map (·.ref)) b.issue.first
        ((b.team u).ap.running = true ∨ held = true → G b s u = s.excuseTeam u .notReady)
        ∧ ((b.team u).ap.running = false → held = false → ∀ vs, readConsumed b l [a, c] = .ok vs →
            let t := argAt vs 0
            (canonical t = false → G b s u = s.excuseTeam u (.trap 0x06 0 t))
            ∧ (canonical t = true → t.toNat % 16 ≠ 0 → G b s u = s.excuseTeam u (.trap 0x07 0 t))
            ∧ (canonical t = true → t.toNat % 16 = 0 → (∀ k ∈ l :: rest, refKind k.ref = .lane) →
                ((l :: rest).map (·.ref)).Nodup →
                let y := G b s u
                (y.team u).ap.running = true ∧ (y.team u).ap.started = some ((l :: rest).map (·.ref), b.issue.flag fs)
                ∧ (y.thread (apRef u)).pc = t.setWidth 57 + 4 ∧ (y.thread (apRef u)).n[0] = { v := argAt vs 1 }
                ∧ (∀ i : Fin 16, i ≠ 0 → (y.thread (apRef u)).n[i] = {}) ∧ (y.thread (apRef u)).m = l.pre.m
                ∧ (y.thread (apRef u)).q = Vector.replicate 16 {}
                ∧ (∀ k ∈ l :: rest, y.thread k.ref = flagged (s.thread k.ref) (b.issue.flag fs)) ∧ y.mem = s.mem)))
    ∧ (∃ W D : State → Lane → State,
        (∀ s, exec (.apwait fs) s = .next (s.issue.act.foldl W s).pushOff)
        ∧ (∀ s, exec (.dqsend q fs a c) s = .next (s.issue.act.foldl D s))
        ∧ ∀ (s : State) (l : Lane),
            let u := refTeam l.ref
            let ap := (s.preTeam l.ref).ap
            (s.apBusy u = true → W s l = s.excuse l .notReady)
            ∧ (s.apBusy u = false → W s l = s.push l.ref { v := if ap.ended then 256 + ap.status.setWidth 64 else 0 })
            ∧ ∀ vs T, readAll s l [a, c] .none = .ok vs → aget? s.teams u = some T →
                (s.feedFull u q.val = true → D s l = s.excuse l .notReady)
                ∧ (s.feedFull u q.val = false → s.gathersTo u q.val = [] →
                    (D s l).threads = s.threads ∧ (D s l).mem = s.mem
                    ∧ aget {} ((D s l).team u).dq q.val =
                        (aget {} T.dq q.val : Feed).push
                          { vals := List.replicate 32 { v := argAt vs 0, psn := anyPsn vs },
                            mask := (if (vs.getD 1 {}).psn then 0xFFFFFFFF else loWord (argAt vs 1))
                              &&& (if s.feedLanes u = 16 then 0xFFFF else 0xFFFFFFFF),
                            spec := T.specAt T.ap.count, instr := T.ap.count } (s.feedLanes u)))
    ∧ (∀ (f : Feed) (e : FeedEntry) (n k : Nat), f.drops = [] → k < n → aget f.base f.heads k ≤ f.base →
        (f.push e n).entries = f.entries ++ [e] ∧ (f.push e n).base = f.base)
    ∧ Acts (.dqcnt q fs) [] .none true false (fun _ => True) (fun _ _ _ => {}) (fun s l _ t =>
        t.pushed { v := BitVec.ofNat 64 ((aget {} (s.preTeam l.ref).dq q.val : Feed).count (s.visLane l.ref)) })
    ∧ Acts (.gvalid q fs) [] .none true false
        (fun s => ∀ l ∈ s.issue.act, ((aget {} (s.preTeam l.ref).dq q.val : Feed).head (s.visLane l.ref)).isSome = true)
        (fun _ _ _ => {}) (fun s l _ t => match (aget {} (s.preTeam l.ref).dq q.val : Feed).head (s.visLane l.ref) with
          | some e => t.pushed { v := e.mask.setWidth 64 }
          | none => t)
    ∧ ∀ (s : State) (x : ApBranch) (r : List ApBranch), (s.team s.ev.id).ap.branches = x :: r →
        let u := s.ev.id
        ∃ t, exec .apBranchResolve s = .next t ∧ t.mem = s.mem
          ∧ (x.right = true → (t.team u).ap.branches = r ∧ t.threads = s.threads ∧ t.reqs = s.reqs
              ∧ ∀ i f, aget? (s.team u).dq i = some f → aget? (t.team u).dq i = some (({ f with
                  entries := f.entries.map fun e => { e with spec := r.any fun b => b.instr < e.instr } } : Feed).release (s.feedLanes u)))
          ∧ (x.right = false → (t.team u).ap.branches = [] ∧ t.thread (apRef u) = { x.saved with cf := s.apFlags u x }
              ∧ (∀ p, p ∈ t.reqs ↔ p ∈ s.reqs ∧ (p.2.ref ≠ apRef u ∨ p.1 < x.first))
              ∧ ∀ i f, aget? (s.team u).dq i = some f → aget? (t.team u).dq i = some (({ f.squash x.instr with
                  entries := (f.squash x.instr).entries.map fun e => { e with spec := false } } : Feed).release (s.feedLanes u))
              ∧ (f.squash x.instr).entries = f.entries.filter fun e => e.instr ≤ x.instr)

/-- R250 to R252, R418: GATH and SCAT of a program, and GATHER_COMPLETE. The elements of the lanes before the first that faults are taken;
the mask of those lanes, or their number, is pushed; a fault of the first lane is taken. A gather's entry joins its queue after those
of older gathers; a scatter's words become writes under way, and nothing stored has changed yet. -/
def Obligations.GathersAndScatters : Prop :=
  ∀ (dq m : Fin 8) (fs : Bool) (a c : Src) (sz md : Bool),
    (∃ G, ActsBy (.gath dq m fs a c sz md) .load m true G ∧ ∀ (b x y : State) (l : Lane) (vs : List Val) (e : Elements),
      readConsumed b l [a, c, .n 1] = .ok vs → x.gathers (b.coreOf l.ref) < 16 → x.feedFull (refTeam l.ref) dq.val = false →
      x.elements l (l.pol m) (argAt vs 0) (argAt vs 1) md (if sz then 8 else 4) false 0 (b.gatherCount (refTeam l.ref) (argAt vs 2))
        = (.ok e, y) →
      (∀ w, e.locs = [] → e.bad = some w → G b x l = y.excuse l w)
      ∧ (e.locs ≠ [] ∨ e.bad = none →
          let z := G b x l
          ∃ id o, aget? z.ops id = some (.gather o) ∧ o.ref = l.ref ∧ o.team = refTeam l.ref ∧ o.dq = dq.val ∧ o.locs = e.locs
            ∧ o.size = (if sz then 8 else 4) ∧ o.pol = l.pol m ∧ o.instr = (y.team (refTeam l.ref)).ap.count
            ∧ z.causes l.ref (event .gatherComplete { id := id })
            ∧ z.thread l.ref = flagged ((y.thread l.ref).pushed { v := (BitVec.ofNat 32 (2 ^ e.locs.length - 1)).setWidth 64 })
                (b.issue.flag fs)
            ∧ z.mem = y.mem ∧ ∀ r, r ≠ l.ref → z.thread r = y.thread r))
    ∧ (∃ F, ActsBy (.scat dq m fs a c md) .store m true F ∧ ∀ (b x y : State) (l : Lane) (vs : List Val) (e : Elements),
      readConsumed b l [a, c, .n 1, .n (Fin.ofNat 16 dq.val)] = .ok vs → x.gathers (b.coreOf l.ref) < 16 →
      b.apHolds l.ref (l.pol m) true = false →
      x.elements l (l.pol m) (argAt vs 0) (argAt vs 1) md 4 true 0 (b.gatherCount (refTeam l.ref) (argAt vs 2)) = (.ok e, y) →
      (∀ w, e.locs = [] → e.bad = some w → F b x l = y.excuse l w)
      ∧ (e.locs = [] → e.bad = none → y.isRollback l.ref = false →
          (F b x l).thread l.ref = (y.thread l.ref).pushed { v := 0 } ∧ (F b x l).mem = y.mem)
      ∧ (e.locs ≠ [] → y.isRollback l.ref = false → (∀ ls ∈ e.locs, ∃ k, ls = [k] ∧ k ≠ Loc.none) →
          let z := F b x l
          (∀ ls ∈ e.locs, ∀ loc, ls = [loc] → ∃ id k, aget? z.mem.writes id = some k ∧ k.w = loc.word ∧ k.out = loc.out
            ∧ k.data = loWord (argAt vs 3) ∧ k.mask = 15 ∧ k.atom = none ∧ k.psn = false ∧ k.comp = y.compOf l.ref ∧ k.kid = y.ctxOf l.ref
            ∧ z.causes l.ref (event .performAtDie { id := id, die := k.comp, w := k.w }))
          ∧ { z.mem with writes := y.mem.writes } = y.mem
          ∧ z.thread l.ref = flagged ((y.thread l.ref).pushed { v := BitVec.ofNat 64 e.locs.length }) (b.issue.flag fs)
          ∧ ∀ r, r ≠ l.ref → z.thread r = y.thread r))
    ∧ ∀ (s y : State) (o : GatherOp) (vs : List Val) (T : Team), aget? s.ops s.ev.id = some (.gather o) →
        (∀ p ∈ s.gathersTo o.team o.dq, s.ev.id ≤ p.1) →
        s.agentHold (s.agentOf o.ref) o.pol o.locs.flatten (s.again .gatherComplete) = none →
        s.readElems (s.agentOf o.ref) o.pol o.size o.locs = (vs, y) → aget? y.teams o.team = some T →
        ∃ t, exec .gatherComplete s = .next t ∧ t.mem = y.mem
          ∧ aget {} (t.team o.team).dq o.dq = (aget {} T.dq o.dq : Feed).push
              { vals := vs, mask := BitVec.ofNat 32 (2 ^ o.locs.length - 1), spec := T.specAt o.instr, instr := o.instr } (y.feedLanes o.team)
          ∧ (o.flag < 12 → (t.thread o.ref).cf.getLsbD o.flag = false)
          ∧ aget? t.ops s.ev.id = none

/-! ## The Plinths and collectives -/

/-- R388 to R391: PLC, PLFENCE and PLINTH_WORD_APPLY. A command whose record is malformed pushes 1, one that names host memory pushes 2, and
one that is accepted pushes 0 and is under way, its words to be performed one by one at their homes; a poisoned destination word
stays, and a poisoned source word poisons it. -/
def Obligations.PlinthCommands : Prop :=
  ∀ (m : Fin 8) (fs : Bool) (a : Src),
    (∃ F : State → State → Lane → State,
      (∀ s, (∀ l ∈ s.issue.act, enginePolicyOk (l.pol m) = true) → exec (.plc m fs a) s = .next (s.issue.act.foldl (F s) s).pushOff)
      ∧ (∀ s, ∀ l ∈ s.issue.act, enginePolicyOk (l.pol m) = false → TrapsPolicy (.plc m fs a) enginePolicyOk m s)
      ∧ ∀ (b x y z : State) (l : Lane) (vs : List Val) (ls : List Loc) (ws : List (Word × Bool)),
          readConsumed b l [a] = .ok vs → (∀ i, a ≠ .dq i) → b.partner l = none →
          x.reach l 0 (argAt vs 0) 64 false = (.ok ls, y) →
          (y.unbackedRecord l.ref (argAt vs 0) ls).wordsNow (y.agentOf l.ref) 0 ls = (.ok ws, z) →
          (ws.any (·.2) = true → F b x l = z.excuse l (.trap 0x11 0 0))
          ∧ (ws.any (·.2) = false →
              let rc := ws.map (·.1)
              let g : Site := { z.siteOf (refTeam l.ref) 2 with core := b.coreOf l.ref, ctx := b.ctxOf l.ref }
              let n := recAt rc 4 4
              let dst := recAt rc 8 8
              let src := recAt rc 16 8
              let k := if src = 0 then 0 else n
              (plcOk rc = false → F b x l = z.push l.ref { v := 1 })
              ∧ (plcOk rc = true →
                  ∀ hd y1 hs y2, z.meetsHost g dst n = (hd, y1) → y1.meetsHost g src k = (hs, y2) →
                  ((hd || hs) = true → F b x l = y2.push l.ref { v := 2 })
                  ∧ ((hd || hs) = false → ∀ ds y3 ss y4, y2.plcLocs g true dst n = (.ok ds, y3) →
                      y3.plcLocs g false src k = (.ok ss, y4) → y4.isRollback l.ref = false →
                      let t := F b x l
                      ∃ id o, aget? t.ops id = some (.plc o) ∧ o.refs = [l.ref] ∧ o.op = recAt rc 0 1 ∧ o.dst = ds ∧ o.src = ss
                        ∧ o.a = BitVec.ofNat 32 (recAt rc 24 4) ∧ o.b = BitVec.ofNat 32 (recAt rc 28 4)
                        ∧ o.imm = BitVec.ofNat 32 (recAt rc 32 4) ∧ o.next = 0 ∧ o.flag = b.issue.flag fs
                        ∧ t.thread l.ref = flagged ((y4.thread l.ref).pushed { v := 0 }) (b.issue.flag fs)
                        ∧ t.causes l.ref (event .plinthWordApply { id := id }) ∧ t.mem = y4.mem))))
    ∧ (∃ F : State → Lane → State, (∀ s, exec (.plfence fs) s = .next (s.issue.act.foldl F s)) ∧ ∀ (s : State) (l : Lane),
        ((∃ id o, (id, Op.plc o) ∈ s.ops ∧ l.ref ∈ o.refs) → F s l = s.excuse l .notReady)
        ∧ ((∀ id o, (id, Op.plc o) ∈ s.ops → l.ref ∉ o.refs) → F s l = s))
    ∧ (∀ (s : State) (o : PlcOp), aget? s.ops s.ev.id = some (.plc o) →
        (∀ id x, (id, Op.plc x) ∈ s.ops → id < s.ev.id → x.ref ≠ o.ref) → s.forkHolds [o.ref] s.ev.id = false →
        (o.dst.length ≤ o.next → (∀ r ∈ o.refs, ahas s.teams (refTeam r) = true) →
          ∃ t, exec .plinthWordApply s = .next t ∧ t.mem = s.mem ∧ aget? t.ops s.ev.id = none
            ∧ ∀ r ∈ o.refs, o.flag < 12 → (t.thread r).cf.getLsbD o.flag = false)
        ∧ ∀ d, o.dst[o.next]? = some d →
            s.plcHold o.kid { op := .plinthWordApply, arg := s.ev } d (o.src.getD o.next .none) = none →
            ∃ t, exec .plinthWordApply s = .next t ∧ t.mem = (s.plcApply o d (o.src.getD o.next .none)).mem
              ∧ aget? t.ops s.ev.id = some (.plc { o with next := o.next + 1 })
              ∧ t.threads = (s.plcApply o d (o.src.getD o.next .none)).threads
              ∧ ({ op := .plinthWordApply, arg := s.ev } : Event) ∈ t.agenda)
    ∧ (∀ (s : State) (o : PlcOp) (x : Loc) (w : Nat), (s.plinthRead o.kid w true).2.1 = true →
        s.plcApply o (.dev w) x = (s.plinthRead o.kid w true).2.2)
    ∧ ∀ (o : PlcOp) (d x : Word),
        (o.op = 1 → o.value d x = o.imm) ∧ (o.op = 2 → o.value d x = x)
        ∧ (o.op = 4 → o.value d x = BitVec.ofNat 32 (fmt32.round .rne false
            ((fmt32.decode false o.a.toNat).mul (fmt32.decode false d.toNat)).1).1)
        ∧ (o.op = 3 → o.value d x = BitVec.ofNat 32 (fmt32.round .rne false
            ((fmt32.decode false o.a.toNat).fma .rne (fmt32.decode false x.toNat) (fmt32.decode false d.toNat)).1).1)

/-- R427 to R433: COLL, COLLST and the two events. COLL reads its record and puts a participant in flight, with status 3 when the record is
malformed; when every participant is there and they agree, each participant of this package gets status 1, 2 or 5 and its writes, and
status 4 when they do not; a participant whose writes are done clears its flag. That matching goes on without the ranks of a package that
is down, and that each then gets status 5, is the model's choice (notes/assumptions/64.md). -/
def Obligations.Collectives : Prop :=
  ∀ (m : Fin 8) (fs : Bool) (a : Src),
    (∃ F : State → State → Lane → State,
      (∀ s, (∀ l ∈ s.issue.act, enginePolicyOk (l.pol m) = true) → exec (.coll m fs a) s = .next (s.issue.act.foldl (F s) s))
      ∧ (∀ s, ∀ l ∈ s.issue.act, enginePolicyOk (l.pol m) = false → TrapsPolicy (.coll m fs a) enginePolicyOk m s)
      ∧ ∀ (b x y : State) (l : Lane) (vs : List Val) (ws : List Word), readConsumed b l [a] = .ok vs → b.partner l = none →
          (64 ≤ x.collsOn (dieOfCore (b.coreOf l.ref)) → F b x l = x.excuse l .notReady)
          ∧ (x.collsOn (dieOfCore (b.coreOf l.ref)) < 64 → x.readRecord l (argAt vs 0) = (.ok ws, y) → y.isRollback l.ref = false →
              let t := F b x l
              ∃ id o, aget? t.ops id = some (.coll o) ∧ o.refs = [l.ref] ∧ o.rc = ws ∧ o.addr = (argAt vs 0).toNat % 2 ^ 57
                ∧ o.flag = b.issue.flag fs ∧ o.pkg = none ∧ o.matched = !collOk ws ∧ o.status = (if collOk ws then 0 else 3)
                ∧ t.thread l.ref = flagged (y.thread l.ref) (b.issue.flag fs) ∧ t.mem = y.mem
                ∧ t.causes l.ref (event (if collOk ws then .collectiveMatch else .collectiveComplete) { id := id })))
    ∧ (∃ F, ActsBy (.collst m fs a) .load m true F ∧ ∀ (b x y : State) (l : Lane) (vs : List Val) (ls : List Loc),
        b.shadowed l = false → readAll b l [a] .none = .ok vs → anyPsn vs = false →
        x.reach l (l.pol m) (argAt vs 0 + 120) 8 false = (.ok ls, y) →
        ∃ id q, aget? (F b x l).reqs id = some q ∧ q.ref = l.ref ∧ q.kind = .load 8 false ∧ q.va = argAt vs 0 + 120 ∧ q.locs = ls
          ∧ (F b x l).causes l.ref (event .memoryReply { id := id })
          ∧ (F b x l).thread l.ref = flagged ((y.thread l.ref).pushed { pend := some id }) (b.issue.flag fs)
          ∧ (F b x l).mem = y.mem)
    ∧ (∀ (s y1 : State) (o : CollOp) (ps1 : List (Nat × CollOp)), s.ev.bytes.length < 128 → aget? s.ops s.ev.id = some (.coll o) →
        o.matched = false →
        s.collFillAll { op := .collectiveMatch, arg := s.ev } false (s.collPeers o) = (some ps1, y1) → collFull false ps1 = true →
        let down := y1.downRanks (((ps1.find? fun p => p.2.pkg.isNone).map (·.2)).getD o)
        let agree := ps1.all (fun p => y1.collAgrees p.2 o) && decide ((ps1.map fun p => p.2.rank).Nodup)
        (ps1.length + down < o.npart → exec .collectiveMatch s = .next y1)
        ∧ (o.npart ≤ ps1.length + down → agree = false → (ps1.map (·.1)).Nodup →
            ∃ t, exec .collectiveMatch s = .next t ∧ t.mem = y1.mem ∧ ∀ p ∈ ps1, p.2.pkg = none →
              aget? t.ops p.1 = some (.coll
                { p.2 with matched := true, status := 4, drops := 0, outs := [], send := none, bad := p.2.bad || y1.collNoted p.1 })
              ∧ event .collectiveComplete { id := p.1 } ∈ t.agenda)
        ∧ (o.npart ≤ ps1.length + down → agree = true → ∀ ps2 y2,
            y1.collFillAll { op := .collectiveMatch, arg := s.ev } true ps1 = (some ps2, y2) → collFull true ps2 = true →
            (ps2.map (·.1)).Nodup →
            let os := ps2.map (·.2)
            let st := if down = 0 then (if os.all (fun x => x.dropped os = 0) then 1 else 2) else 5
            ∃ t, exec .collectiveMatch s = .next t ∧ t.mem = y2.mem ∧ ∀ p ∈ ps2, p.2.pkg = none →
              aget? t.ops p.1 = some (.coll
                { p.2 with matched := true, drops := p.2.dropped os, outs := p.2.writes os, send := none, status := st,
                           bad := p.2.bad || y2.collNoted p.1 })
              ∧ event .collectiveComplete { id := p.1 } ∈ t.agenda))
    ∧ ∀ (s y : State) (o : CollOp), aget? s.ops s.ev.id = some (.coll o) → o.matched = true → o.fault = none →
        s.forkHolds o.refs s.ev.id = false →
        s.runColl s.ev.id o { op := .collectiveComplete, arg := s.ev } ((o.outs ++ o.doneWords).drop o.next) = (true, y) →
        (∀ r ∈ o.refs, ahas y.teams (refTeam r) = true) →
        ∃ t, exec .collectiveComplete s = .next t ∧ t.mem = y.mem
          ∧ (∀ r ∈ o.refs, o.flag < 12 → (t.thread r).cf.getLsbD o.flag = false)
          ∧ aget? t.ops s.ev.id = none

/-! ## Launches, Casts and system instructions -/

/-- R118, R119, R122, R123, R124, R434, R435: LAUNCH, LAUNCHW and LSTAT. A record that is well formed enters the store of its die when an
entry is free, and 0 is pushed; else LAUNCH pushes 1 and LAUNCHW parks; a malformed record is rejected, and 2 is pushed. A lane that has
waited in LAUNCHW keeps the address that it read. What a submission comes after is noted with the launch, whose dependences are read
when it has ended. -/
def Obligations.LaunchInstructions : Prop :=
  ∀ (a : Src),
    (∃ F : Bool → State → State → Lane → State,
      (∀ s, exec (.launch a) s = .next (s.issue.act.foldl (F false s) s).pushOff)
      ∧ (∀ s, exec (.launchw a) s = .next (s.issue.act.foldl (F true s) s).pushOff)
      ∧ ∀ (wait : Bool) (b x y : State) (l : Lane) (adr : Dword) (ws ks : List Word),
          (b.redone l = some adr ∨ (b.redone l = none ∧ ∃ vs, readConsumed b l [a] = .ok vs ∧ adr = argAt vs 0)) →
          (∀ i, a ≠ .dq i) → b.partner l = none → x.isRollback l.ref = false → x.readLaunch l adr = (.ok (ws, ks), y) →
          let die := dieOfCore (b.coreOf l.ref)
          let t := F wait b x l
          (y.launchBad ws = true → t.thread l.ref = (y.thread l.ref).pushed { v := 2 }
            ∧ ∃ id n, aget? t.launches id = some n ∧ n.status = some (3, 0) ∧ n.rc = launchRecOf ws ∧ n.addr = adr
              ∧ t.causes l.ref (event .launchEnd { id := id }))
          ∧ (y.launchBad ws = false → y.storeUsed die < 4096 →
              t.thread l.ref = (y.thread l.ref).pushed { v := 0 }
              ∧ ∃ id n, aget? t.launches id = some n ∧ n.die = die ∧ n.ctx = b.ctxOf l.ref ∧ n.rc = launchRecOf ws ∧ n.k = constsOf ks
                ∧ n.entered = y.cyc ∧ n.status = none ∧ n.addr = adr ∧ n.after = y.submitAfter l.ref
                ∧ t.causes l.ref (event .dependencePoll { die := die, id := id }))
          ∧ (y.launchBad ws = false → 4096 ≤ y.storeUsed die →
              t.launches = y.launches
              ∧ (wait = false → t.thread l.ref = (y.thread l.ref).pushed { v := 1 })
              ∧ (wait = true → (t.thread l.ref).park = .launchw ∧ (t.thread l.ref).pc = y.issue.here
                  ∧ (t.sched die).parked = (y.sched die).parked ++
                      [{ refs := [l.ref], ctx := b.ctxOf l.ref, rc := launchRecOf ws, k := constsOf ks, addr := adr }]))
          ∧ t.mem = y.mem)
    ∧ (∃ F : State → State → Lane → State, (∀ s, exec (.lstat a 0) s = .next (s.issue.act.foldl (F s) s).pushOff) ∧
        ∀ (b x y : State) (l : Lane) (vs : List Val) (ws : List (Word × Bool)), readConsumed b l [a] = .ok vs → b.partner l = none →
          x.readPieces l 0x2A 16 [argAt vs 0] = (.ok ws, y) →
          let st := ws.getD 0 (0, true)
          let cause := ws.getD 1 (0, true)
          (F b x l).thread l.ref = (y.thread l.ref).pushed
            { v := if st.2 ∨ cause.2 then 0 else cause.1 ++ st.1, psn := st.2 || cause.2 } ∧ (F b x l).mem = y.mem)
    ∧ ∀ (imm : BitVec 15), imm ≠ 0 → Acts (.lstat a imm) [] .none true false (fun _ => True) (fun _ _ _ => {}) (fun s l _ t =>
        t.pushed { v := BitVec.ofNat 64 (4096 - s.storeUsed (dieOfCore (s.coreOf l.ref))) })

/-- R105, R111, R112, R437: CASTB starts a build into the buffer that is not current, and stops every team of its context, unless a build
runs (1) or the context has no buffer (2). CASTC commits a completed build. CASTQ pushes the state of Cast and build;
that its failed mark is that of the newest build is the model's reading (notes/assumptions/72.md). -/
def Obligations.CastInstructions : Prop :=
  (∀ (s : State), (s.issue.lanes.map (·.ref)).Nodup → ∀ l rest, s.issue.act = l :: rest →
    let c := s.ctxOf l.ref
    let x := s.ctx c
    (∀ n : Nat, n = (if x.build.isSome then 1 else if x.buflen = 0 then 2 else 0) →
      ∃ t, exec .castb s = .next t ∧ (∀ k ∈ s.issue.act, t.thread k.ref = (s.thread k.ref).pushed { v := BitVec.ofNat 64 n })
        ∧ (∀ k ∈ s.issue.off, t.thread k.ref = (s.thread k.ref).pushed k.pre.q[0]) ∧ t.mem = s.mem
        ∧ (n ≠ 0 → t.ctxs = s.ctxs)
        ∧ (n = 0 → (t.ctx c).build = some { toB := !x.cur, seq := x.seq + 1 } ∧ (t.ctx c).failed = false ∧ (t.ctx c).built = none
            ∧ (∀ u T, aget? s.teams u = some T → T.ctx = c → T.halt = none → (t.team u).halt = some .save)))
    ∧ (x.build.isSome = true → exec .castc s = .next (s.excuseAll fun _ => .notReady))
    ∧ (x.build = none → ∀ n : Nat, n = (if x.failed then 2 else if x.built = none then 1 else 0) →
        (n = 0 → (s.mem.writes.any fun p => p.2.comp == 5 && p.2.kid == c) = false) →
        ∃ t, exec .castc s = .next t ∧ (∀ k ∈ s.issue.act, t.thread k.ref = (s.thread k.ref).pushed { v := BitVec.ofNat 64 n })
          ∧ (∀ k ∈ s.issue.off, t.thread k.ref = (s.thread k.ref).pushed k.pre.q[0]) ∧ t.mem = s.mem
          ∧ (n ≠ 0 → t.ctxs = s.ctxs)
          ∧ (n = 0 → ∀ b, x.built = some b → t.ctx c = { x with cur := b, valid := true, seq := x.seq + 1, built := none })))
  ∧ Acts .castq [] .none true false (fun _ => True) (fun _ _ _ => {}) (fun s l _ t => t.pushed { v := (s.ctx (s.ctxOf l.ref)).castQuery })
  ∧ ∀ x : Ctx, x.castQuery.getLsbD 0 = x.valid ∧ x.castQuery.getLsbD 1 = x.cur ∧ x.castQuery.extractLsb' 16 16 = x.seq
      ∧ x.castQuery.getLsbD 32 = x.build.isSome ∧ x.castQuery.getLsbD 33 = x.built.isSome ∧ x.castQuery.getLsbD 34 = x.failed

/-- R438, R439: ERRQ under a scope that is legal pops the oldest error record of its context, stores its 16 bytes and pushes 1; it pushes 0,
and stores nothing, when the queue is empty. Which fields of its policy it checks is the model's reading (notes/assumptions/71.md). -/
def Obligations.ErrorQueue : Prop :=
  ∀ (a : Src), ∃ F : State → State → Lane → State,
    (∀ s, (∀ l ∈ s.issue.act, polScope (l.pol 0) ≤ 5) → exec (.errq a) s = .next (s.issue.act.foldl (F s) s).pushOff)
    ∧ (∀ s, ∀ l ∈ s.issue.act, 5 < polScope (l.pol 0) → TrapsPolicy (.errq a) (fun p => decide (polScope p ≤ 5)) 0 s)
    ∧ (∀ (b x y : State) (l : Lane) (vs : List Val) (ls : List Loc), readConsumed b l [a] = .ok vs → (∀ i, a ≠ .dq i) →
        b.partner l = none → x.reach l (l.pol 0 &&& 0x38) (argAt vs 0) 16 true = (.ok ls, y) → y.isRollback l.ref = false →
        Loc.none ∉ ls →
        let c := y.ctxOf l.ref
        let t := F b x l
        ((y.ctx c).errs = [] → t.thread l.ref = (y.thread l.ref).pushed { v := 0 } ∧ t.mem = y.mem ∧ t.ctxs = y.ctxs)
        ∧ ∀ e es, (y.ctx c).errs = e :: es →
            (t.ctx c).errs = es ∧ t.thread l.ref = (y.thread l.ref).pushed { v := 1 }
            ∧ ∀ j (h : j < ls.length), j < 4 → ∃ id k, aget? t.mem.writes id = some k ∧ k.w = ls[j].word ∧ k.out = ls[j].out
                ∧ k.mask = 15 ∧ k.data = e.words.getD j 0)
    ∧ ∀ (s : State) (c cause kind : Nat) (tid : Word) (adr : Dword),
        let x := s.ctx c
        let y := (s.errRecord c cause kind tid adr).ctx c
        (x.errs.length < 64 → y.errDropped = false
          ∧ y.errs = x.errs ++ [{ cause := cause, kind := kind, dropped := x.errDropped, tid := tid, addr := adr }])
        ∧ (64 ≤ x.errs.length → y.errs = x.errs ∧ y.errDropped = true)

/-- R268, R274, R275, R301, R441 to R446: SYSRD, SYSWR, TLBINV, TRAPRET, WEARRD and HALT. A TLBINV tries again while earlier accesses of its
thread or writes of its context are under way, waits in its place for those of its own chain, and then removes the translations and
makes stale the Chisel entries of its context. -/
def Obligations.SystemInstructions : Prop :=
  ∀ (imm : BitVec 15) (a : Src),
    (∃ F : State → State → Lane → State, (∀ s, exec (.sysrd imm) s = .next (s.issue.act.foldl (F s) s).pushOff) ∧
      ∀ (b x : State) (l : Lane) (v : Dword), b.partner l = none →
        let t := F b x l
        let c := x.coreOf l.ref
        ((imm, v) ∈ [((0 : BitVec 15), l.pre.xcause.setWidth 64), (1, l.pre.xinfo.setWidth 64), (2, l.pre.xaddr), (3, l.pre.xpc),
            (4, BitVec.ofNat 64 (x.modeWord l)), (8, BitVec.ofNat 64 (x.ctxOf l.ref)), (0x20, aget 0 x.hub.xvec (refSid l.ref)),
            (0x21, BitVec.ofNat 64 (refSid l.ref))] → t = x.push l.ref { v := v })
        ∧ (refKind l.ref ≠ .steward →
            ((imm, v) ∈ [((9 : BitVec 15), BitVec.ofNat 64 (c / 40 + c % 40 * 4 + c * 256)), (0x0A, BitVec.ofNat 64 x.cyc)] →
              t = x.push l.ref { v := v })
            ∧ (imm = 0x10 → t.thread l.ref = (x.thread l.ref).pushed { v := BitVec.ofNat 64 (x.core c).spadErr }
                ∧ (t.core c).ce = 0 ∧ (t.core c).rb = 0 ∧ (t.core c).psn = 0)
            ∧ (imm = 0x11 → t.thread l.ref = (x.thread l.ref).pushed { v := BitVec.ofNat 64 (x.core c).chStat }
                ∧ (t.core c).comp = 0 ∧ (t.core c).hit = 0 ∧ (t.core c).stale = 0 ∧ (t.core c).dense = 0)))
    ∧ (∃ F : State → Lane → State, (∀ s, exec (.syswr a imm) s = .next (s.issue.act.foldl F s)) ∧
        ∀ (s : State) (l : Lane), (∀ i, a ≠ .dq i) →
          (imm = 3 → l.pre.handler = false → F s l = s.excuse l (.trap 0x10 0 0))
          ∧ ∀ vs, readAll s l [a] .none = .ok vs →
              (anyPsn vs = true → (imm = 3 → l.pre.handler = true) → F s l = s)
              ∧ (anyPsn vs = false → imm = 3 → l.pre.handler = true →
                  F s l = s.setThread l.ref { s.thread l.ref with xpc := argAt vs 0 })
              ∧ (anyPsn vs = false → imm = 0x20 →
                  aget 0 (F s l).hub.xvec (refSid l.ref) = argAt vs 0 &&& ~~~(0xF : Dword)
                  ∧ (∀ k, k ≠ refSid l.ref → aget 0 (F s l).hub.xvec k = aget 0 s.hub.xvec k) ∧ (F s l).threads = s.threads))
    ∧ (∃ F : State → Lane → State, (∀ s, exec (.tlbinv a imm) s = .next (s.issue.act.foldl F s)) ∧
        ∀ (s : State) (l : Lane) (vs : List Val), (∀ i, a ≠ .dq i) → readAll s l [a] .none = .ok vs → s.isRollback l.ref = false →
          refKind l.ref ≠ .ap →
          let held := (∃ id q, (id, q) ∈ s.reqs ∧ id < s.issue.first ∧ q.by l.ref = true ∧ q.kind ≠ .prefetch)
            ∨ ∃ id w, (id, w) ∈ s.mem.writes ∧ id < s.issue.first ∧ w.kid = s.ctxOf l.ref
          let own := (∃ id q, (id, q) ∈ s.reqs ∧ q.by l.ref = true ∧ q.kind ≠ .prefetch)
            ∨ ∃ id w, (id, w) ∈ s.mem.writes ∧ w.kid = s.ctxOf l.ref
          let va := if imm = 1 ∨ anyPsn vs = true then none else some ((argAt vs 0).toNat % 2 ^ 57)
          (held → F s l = s.excuse l .notReady)
          ∧ (¬ held → own → (F s l).thread l.ref = { s.thread l.ref with park := .tlbinv va } ∧ (F s l).tlbs = s.tlbs)
          ∧ (¬ own →
              (∀ k es, aget? s.tlbs k = some es → aget? (F s l).tlbs k = some (es.filter fun e =>
                !(if imm = 1 ∨ anyPsn vs = true then e.ctx == s.ctxOf l.ref
                  else e.covers (s.ctxOf l.ref) ((argAt vs 0).toNat % 2 ^ 57))))
              ∧ (∀ c k, aget? s.cores c = some k → ∃ k', aget? (F s l).cores c = some k'
                  ∧ k'.chisel = k.chisel.map fun e => if e.ctx = s.ctxOf l.ref then
                    (if e.busy.isSome then { e with late := true } else { e with stale := true }) else e)
              ∧ (F s l).threads = s.threads ∧ (F s l).mem = s.mem))
    ∧ (∃ F : State → Lane → State, (∀ s, exec (.trapret imm) s = .next (s.issue.act.foldl F s)) ∧
        ∀ (s : State) (l : Lane),
          (refKind l.ref = .ap ∨ l.pre.handler = false → F s l = s.excuse l (.trap 0x10 0 0))
          ∧ (refKind l.ref ≠ .ap → l.pre.handler = true → imm ≠ 1 → F s l = s.setThread l.ref
              { s.thread l.ref with q := (s.thread l.ref).xq, handler := false, pc := l.pre.xpc.setWidth 57, entered := true })
          ∧ (refKind l.ref ≠ .ap → l.pre.handler = true → imm = 1 → ∀ ws y,
              s.chainWords l.ref (l.pre.xpc.setWidth 57) 3 = (.ok ws, y) → F s l = y.setThread l.ref
              { y.thread l.ref with q := (y.thread l.ref).xq, handler := false, entered := true,
                                    pc := nextSlot ((ws.map (·.1)).getLastD (l.pre.xpc.setWidth 57)) }))
    ∧ Acts (.wearrd imm) [] .none true false (fun _ => True) (fun _ _ _ => {}) (fun s l _ t =>
        t.pushed { v := if imm = 0 then BitVec.ofNat 64 (s.ctx (s.ctxOf l.ref)).wear
                        else (s.coreRec (s.coreOf l.ref)).word.setWidth 64 })
    ∧ ∃ F : State → Lane → State, (∀ s, exec .halt s = .next (s.issue.act.foldl F s)) ∧ ∀ (s : State) (l : Lane),
        (refKind l.ref = .steward → F s l = s.setThread l.ref { s.thread l.ref with park := .halted })
        ∧ (refKind l.ref ≠ .steward → F s l = s.excuse l (.trap 0x10 0 0))

/-! ## Power, start and wear -/

/-- R16 to R22: the power sequencer. POWER_UP and POWER_DOWN start a sequence unless one runs (or the hub has no image); a step of the
power-up completes when nothing it waits for is lacking, and at its limit the parts that lack have failed, which stops the start at
steps 1, 5 and 6; the power-down saves every team, flushes, writes the lifetime table, and takes the rails off; a start past power-up
that it meets stops at its step. What a sequence leaves in PSEQ_STAT (notes/assumptions/81.md), the start that a power-down stops
(83.md), what is gone with the rails (84.md) and that a power-up without a hub image does nothing (86.md) are the model's choices. A
junction of 105 °C or more, or a flow under 3.0 L/min, starts the emergency power-down, or lets it wait for the step boundary. -/
def Obligations.PowerSequences : Prop :=
  ∀ s : State,
    let p := s.power
    let n := p.step.toNat
    (p.run ≠ .none ∨ s.hub.dead = true → exec .powerUp s = .next s)
    ∧ (p.run = .none → s.hub.dead = false → ∃ t, exec .powerUp s = .next t ∧ t.power.run = .up ∧ t.power.step = 1 ∧ t.power.cmd = 1
        ∧ t.power.fail = false ∧ t.hub.starting = true ∧ t.hub.ready = false ∧ t.hub.startSeq = (s.hub.startSeq + 1) % 2 ^ 64
        ∧ t.hub.clralt = [] ∧ t.hub.setfab = none ∧ (t.ctx 0).state = .live ∧ t.mem = s.mem)
    ∧ (p.run ≠ .none → exec .powerDown s = .next s)
    ∧ (p.run = .none → (s.hub.starting = true → s.hub.step ≠ 0) → ∃ t, exec .powerDown s = .next t
        ∧ (s.hub.starting = true → t.hub.starting = false ∧ t.hub.stopped = s.hub.step ∧ t.hub.ready = false)
        ∧ t.power.run = .down ∧ t.power.step = 2 ∧ t.power.cmd = 2
        ∧ t.power.hold = true ∧ t.threads = s.threads ∧ t.mem = s.mem
        ∧ ∀ u T, aget? s.teams u = some T → T.halt = none → (t.team u).halt = some .save)
    ∧ (p.run = .down → p.step = 2 → s.teams ≠ [] → exec .powerDownStepDone s = .next s)
    ∧ (p.run = .down → p.step = 2 → s.teams = [] → p.pending = false → ∃ t, exec .powerDownStepDone s = .next t ∧ t.power.step = 3)
    ∧ (p.run = .down → p.step = 3 → s.mem.writes = [] → s.flushAll.power.pending = false → ∃ t, exec .powerDownStepDone s = .next t
        ∧ t.power.step = 4 ∧ t.wear.seq = (s.flushAll.wear.seq + 1) % 2 ^ 64 ∧ t.mem = s.flushAll.mem)
    ∧ (p.run = .down ∨ p.run = .emergency → p.step = 4 → ∃ t, exec .powerDownStepDone s = .next t ∧ t.power.step = 6 ∧ t.power.run = .none
        ∧ t.power.rail = 0 ∧ t.power.cmd = 0 ∧ t.power.emerg = (p.run == .emergency || p.pending) ∧ t.teams = [] ∧ t.mem.data = s.mem.data
        ∧ t.mem.spad = [] ∧ t.mem.l2 = [])
    ∧ (p.run = .up →
        ((s.report n s.ev.val).lacking n ≠ [] → exec .powerUpStepDone s = .next (s.report n s.ev.val))
        ∧ ((s.report n s.ev.val).lacking n = [] → p.pending = false →
            (n ∈ [1, 2, 3, 4] → ∃ t, exec .powerUpStepDone s = .next t ∧ t.power.step.toNat = n + 1 ∧ t.power.run = .up)
            ∧ (n = 7 → ∃ t, exec .powerUpStepDone s = .next t ∧ t.power.step = 8 ∧ t.power.run = .none ∧ t.power.cmd = 0
                ∧ t.hub.step = 9))
        ∧ ((s.report n s.ev.val).lacking n ≠ [] → p.pending = false →
            (n = 1 ∨ n = 5 ∨ n = 6 → ∃ t, exec .powerUpStepLimit s = .next t ∧ t.power.fail = true ∧ t.power.failstep.toNat = n
              ∧ t.power.run = .none ∧ t.hub.stopped = n ∧ t.hub.starting = false ∧ t.hub.ready = false)
            ∧ (n = 4 → ∃ t, exec .powerUpStepLimit s = .next t ∧ t.power.fail = true ∧ t.power.failstep = 4 ∧ t.power.run = .up
              ∧ t.power.step = 5 ∧ ∀ q, (s.report n s.ev.val).lacking n = [q] → t.mem.live.getLsbD q = false)))
    ∧ (∀ (i : Instr) (hot : Bool), (i, hot) ∈
          [(Instr.junctionOvertemp, decide (105 ≤ s.ev.val.toNat % 256)), (.flowLowExpiry, decide (s.ev.val.toNat < 300))] →
        (hot = false → exec i s = .next s)
        ∧ (hot = true → ∃ t, exec i s = .next t
            ∧ (p.run = .none → s.hub.starting = false → t.power.run = .emergency ∧ t.power.step = 4 ∧ t.power.fail = false
                ∧ t.wear.seq = (s.wear.seq + 1) % 2 ^ 64)
            ∧ (p.run = .up ∨ p.run = .down → t.power.run = p.run ∧ t.power.step = p.step ∧ t.power.pending = true)
            ∧ (p.run = .emergency → t.power.run = .emergency ∧ t.power.step = p.step)))

/-- R97 to R102, R112, R114: auxiliary power, the steps of the start past power-up, and the loss of power. The security controller runs
its ROM from its own memory. The hub's image is taken from the slot that last loaded or else from the other; without one the start
stops before step 1. A step 13 or 15 that fails, as the event says, stops the start. How each steward begins (notes/assumptions/16.md), what
is lost with auxiliary power (84.md, 86.md) and what fails in those steps (125.md) are the model's choices. When power is lost, the
contexts that are live keep their Casts, keys and wear, and the stored tables and records stay. -/
def Obligations.StartAndLoss : Prop :=
  ∀ s : State,
    (∃ t, exec .auxiliaryPowerOn s = .next t ∧ t.hub.cxlrate = s.ev.val.toNat % 2 ∧ t.mem = s.mem
      ∧ (t.hub.mlog.head? = some (logEntry 0 0 0 0 0 0 Config.romDigest.toList))
      ∧ t.thread (stewRef secSid) = {} ∧ aget [] t.hub.sram secSid = Memory.writeAll [] 0 (Config.romCode.take 524288)
      ∧ (let img := fun k => aget [] s.hub.images (2 + k)
         let good := fun k => imageResult (img k) (aget 0 s.hub.minSvn 1) = 0
         let a := aget 0 s.hub.lastSlot 1
         (good a → t.hub.dead = false ∧ aget 0 t.hub.lastSlot 1 = a ∧ t.thread (stewRef 0) = {}
            ∧ aget [] t.hub.sram 0 = Memory.writeAll [] 0 ((Config.imageBody (img a)).take 524288))
         ∧ (¬ good a → good (1 - a) → t.hub.dead = false ∧ aget 0 t.hub.lastSlot 1 = 1 - a ∧ t.thread (stewRef 0) = {})
         ∧ (¬ good a → ¬ good (1 - a) → t.hub.dead = true ∧ t.hub.ready = false ∧ t.hub.starting = false
            ∧ t.hub.startSeq = (s.hub.startSeq + 1) % 2 ^ 64 ∧ t.hub.stopped = 0)))
    ∧ (s.hub.starting = false → exec .startStepComplete s = .next s)
    ∧ (s.hub.starting = true → s.hub.step = 9 → ∃ t, exec .startStepComplete s = .next t ∧ t.hub.step = 10 ∧ t.mem = s.mem
        ∧ (∀ b old, newestCopy tableLength s.wear.tables = some (b, old) → t.wear.seq = copySeq b
            ∧ ∀ c < 160, t.coreRec c = coreRecOf ((b.drop (64 + 64 * c)).take 64))
        ∧ ∀ k < 8, s.mem.live.getLsbD k = true → ∃ v, event .mtrCalibration { stack := k, val := v } ∈ t.agenda)
    ∧ (s.hub.starting = true → s.hub.step = 10 →
        (s.trained = false → exec .startStepComplete s = .next s)
        ∧ (s.trained = true → ∃ t, exec .startStepComplete s = .next t
            ∧ (s.mem.live = 0 → t.hub.stopped = 11 ∧ t.hub.starting = false ∧ t.hub.ready = false)
            ∧ (s.mem.live ≠ 0 → t.hub.step = 12 ∧ 2 ^ t.mem.span ≤ (setBits 8 s.mem.live.toNat).length
                ∧ (setBits 8 s.mem.live.toNat).length < 2 ^ (t.mem.span + 1))))
    ∧ (s.hub.starting = true → s.hub.step = 12 → s.ev.cause = 13 → ∃ t, exec .startStepComplete s = .next t ∧ t.hub.stopped = 13
        ∧ t.hub.starting = false ∧ t.hub.ready = false)
    ∧ (s.hub.starting = true → s.hub.step = 12 → s.arm.topo = 0 → s.ev.cause = 15 → ∃ t, exec .startStepComplete s = .next t
        ∧ t.hub.stopped = 15 ∧ t.hub.starting = false ∧ t.hub.ready = false)
    ∧ (s.hub.starting = true → s.hub.step = 12 → s.arm.topo = 0 → s.ev.cause ≠ 13 → s.ev.cause ≠ 15 → s.hub.stopped = 0 →
        s.hub.dead = false →
        ∃ t, exec .startStepComplete s = .next t ∧ t.hub.hdm = true ∧ t.hub.starting = false ∧ t.hub.ready = true
          ∧ t.mem.l2 = [] ∧ t.mem.llc = [] ∧ t.mem.dir = [] ∧ t.hub.filter = [] ∧ t.hub.hostdir = [] ∧ t.mem.data = s.mem.data
          ∧ (∀ c ∈ s.ev.words, c < 160 → (t.coreRec c).state = .retired))
    ∧ (s.hub.starting = true → s.hub.step = 14 →
        ((s.arm.links.all fun p => p.2.step = 0) = false → exec .startStepComplete s = .next s)
        ∧ ((s.arm.links.all fun p => p.2.step = 0) = true → s.ev.cause = 15 → ∃ t, exec .startStepComplete s = .next t
            ∧ t.hub.stopped = 15 ∧ t.hub.starting = false ∧ t.hub.ready = false)
        ∧ ((s.arm.links.all fun p => p.2.step = 0) = true → s.ev.cause ≠ 15 → ∃ t, exec .startStepComplete s = .next t ∧ t.hub.hdm = true
            ∧ t.hub.starting = false ∧ t.hub.ready = (s.hub.stopped = 0 && !s.hub.dead) ∧ t.hub.step = 16))
    ∧ ∃ t, exec .powerLoss s = .next t ∧ t.threads = [] ∧ t.teams = [] ∧ t.launches = [] ∧ t.agenda = [] ∧ t.power.resume = true
        ∧ t.power.rail = 0 ∧ t.wear.tables = s.wear.tables ∧ t.hub.records = s.hub.records ∧ t.hub.images = s.hub.images
        ∧ t.hub.nextCopy = s.hub.nextCopy ∧ t.hub.minSvn = s.hub.minSvn
        ∧ (∀ p ∈ t.ctxs, p.1 = 0 ∨ p.2.state = .live)
        ∧ ∀ c x, aget? s.ctxs c = some x → x.state = .live → ∃ y, aget? t.ctxs c = some y ∧ y.state = .live ∧ y.key = x.key
            ∧ y.cur = x.cur ∧ y.valid = x.valid ∧ y.seq = x.seq ∧ y.wear = x.wear ∧ y.bufa = x.bufa ∧ y.bufb = x.bufb

/-- R23 to R31: wear. A sample renews the record of a core that is not retired: its life never rises and its state moves forward only; a
drained core that is empty retires. The lifetime table alternates between its copies, and reading a record back gives what was
written. The host's wear registers capture a core once the start is complete (the model's choice before that: notes/assumptions/78.md), and
reading the event count clears it. -/
def Obligations.Wear : Prop :=
  (∀ s : State,
    let c := s.ev.core
    let r := s.coreRec c
    (r.state = .retired → exec .patinaSample s = .next s)
    ∧ (r.state ≠ .retired → ∃ t, exec .patinaSample s = .next t
        ∧ (let r' := t.coreRec c
           let bti := btiOf c (s.ev.words.take 8)
           let em := emOf c ((s.ev.words.drop 8).take 4)
           let add := accrual (s.ev.words.getD 12 0) (s.ev.words.getD 13 0) 1 1
           r'.bti = bti ∧ r'.em = em ∧ r'.life = min r.life (1000 - max (bti / 60) (em / 100)) ∧ r'.cycles = (r.cycles + 2 ^ 31) % 2 ^ 64
           ∧ min (2 ^ 64 - 1) (r.wear + add) ≤ r'.wear ∧ r'.wear ≤ min (2 ^ 64 - 1) (r.wear + add + 1)
           ∧ (r.state = .drained → (∀ u T, (u, T) ∈ s.teams → T.core ≠ c) → r'.state = .retired ∧ r'.cause = 1)
           ∧ (r.state ≠ .drained → r'.state.code =
                max r.state.code (if 200 ≤ r'.life then 0 else if 50 ≤ r'.life then 1 else 2))
           ∧ (r'.state = r.state → t.wear.evt = s.wear.evt) ∧ (r'.state ≠ r.state → t.wear.evt = min 0xFF (s.wear.evt + 1)))
        ∧ (∀ k, k ≠ c → t.coreRec k = s.coreRec k) ∧ t.mem = s.mem ∧ t.threads = s.threads))
  ∧ (∀ s : State, ∃ t, exec .lifetimeTableWrite s = .next t ∧ t.wear.seq = (s.wear.seq + 1) % 2 ^ 64
      ∧ aget [] t.wear.tables (t.wear.seq % 2) = signed (s.tableBody t.wear.seq)
      ∧ (∀ k, k ≠ t.wear.seq % 2 → aget [] t.wear.tables k = aget [] s.wear.tables k) ∧ t.wear.recs = s.wear.recs)
  ∧ (∀ (r : CoreRec) (c : Nat), r.life < 2 ^ 16 → r.bti < 2 ^ 32 → r.em < 2 ^ 32 → r.cycles < 2 ^ 64 → r.wear < 2 ^ 64 → r.cause < 2 ^ 8 →
      (r.bytes c).length = 64 ∧ coreRecOf (r.bytes c) = r)
  ∧ (∀ s : State, ∃ t, exec .pwearIdxWrite s = .next t ∧ t.wear.idx.toNat = s.ev.val.toNat % 256 ∧ t.mem = s.mem
      ∧ (let c := s.ev.val.toNat % 256
         (s.hub.step ≠ 16 → t.wear = { s.wear with idx := BitVec.ofNat 8 c })
         ∧ (s.hub.step = 16 → c < 160 → t.wear.core = (s.coreRec c).word ∧ t.wear.bti = BitVec.ofNat 32 (s.coreRec c).bti
            ∧ t.wear.em = BitVec.ofNat 32 (s.coreRec c).em)
         ∧ (s.hub.step = 16 → 160 ≤ c → t.wear.core = 0 ∧ t.wear.bti = 0 ∧ t.wear.em = 0)))
  ∧ ∀ s : State, ∃ t, exec .pwearEvtRead s = .next t ∧ t.hub.rdata = BitVec.ofNat 32 s.wear.evt ∧ t.wear.evt = 0

/-- R14, R17, R31, R43, R85, R93, R105, R139, R169: REGISTER_WRITE. A write of CMD, of a link's UP, of a context's OP or of a fault's answer
has its event follow; write-one-to-clear bits clear; fields take their bits; an offset that no map names changes nothing. A read of a
register (the model's own form of the event: notes/assumptions/94.md) returns it, and clears the count of SCHED_PRE. -/
def Obligations.RegisterWrites : Prop :=
  ∀ s : State, ∃ t, exec .registerWrite s = .next t
    ∧ (s.ev.keep = true →
        (∀ d < 4, s.ev.off = 0x6000C + 0x40 * d → t.hub.rdata = BitVec.ofNat 32 (s.sched d).pre ∧ (t.sched d).pre = 0)
        ∧ (s.ev.off = 0x20014 → t.hub.rdata = BitVec.ofNat 32 (s.power.flow.toNat + s.power.tmax.toNat * 2 ^ 24) ∧ t.power = s.power)
        ∧ t.mem = s.mem ∧ t.ctxs = s.ctxs)
    ∧ (s.ev.keep = false →
       let o := s.ev.off
       let v := s.ev.val
       (o = 0x20000 → (v.toNat % 4 = 1 → t = s.prepend [event .powerUp]) ∧ (v.toNat % 4 = 2 → t = s.prepend [event .powerDown])
         ∧ (v.toNat % 4 = 0 → t = s))
       ∧ (o = 0x20004 → t.power = { s.power with emerg := s.power.emerg && !v.getLsbD 17, fail := s.power.fail && !v.getLsbD 16 })
       ∧ (o = 0x20008 → t.power = { s.power with rail := v &&& 0x00FFFFFF })
       ∧ (o = 0x20100 → t = s.prepend [event .pwearIdxWrite { val := v }])
       ∧ (o = 0x10000 → t.hub.len = v.toNat / 2 ^ 16 ∧ t.hub.opc = v.setWidth 8)
       ∧ (o = 0x10008 → t.hub.irqen = v.getLsbD 1
           ∧ (v.getLsbD 0 = true → s.hub.busy = false → s.hub.opc = 1 → t.hub.busy = true ∧ t.agenda = event .ident :: s.agenda))
       ∧ (∀ i < 1024, o = 0x11000 + 4 * i → s.hub.busy = false → t.hub.buf = s.hub.buf.writeAll (4 * i) (wordBytes v))
       ∧ (∀ g < 32, o = 0x30800 + 16 * g → t = s.prepend [event (if v.getLsbD 0 then .linkUp else .linkDown) { link := g }])
       ∧ (o = 0x50004 → s.ctxregs.op = 0 → v.toNat % 8 = 1 → t.ctxregs.op = 1
           ∧ t.agenda = event .ctxCreate { ctx := s.ctxregs.idx } :: s.agenda)
       ∧ (o = 0x50004 → s.ctxregs.op ≠ 0 → t = s)
       ∧ (∀ d < 4, o = 0x60000 + 0x40 * d → (t.sched d).preen = v.getLsbD 8 ∧ (t.sched d).resv = v.toNat % 32)
       ∧ (∀ d < 4, o = 0x7000C + 0x20 * d → t = s.prepend
           [event (if v.getLsbD 16 then .pfRespFail else .pfRespReplay) { die := d, id := v.toNat % 256 }])
       ∧ (∀ k < 8, o = 0x100000 + 0x10000 * k → v.toNat % 8 = 1 → t = s.prepend [event .mtrCalibration { stack := k, val := v }])
       ∧ (0x180000 ≤ o → t = s))
    ∧ t.mem.data = s.mem.data ∧ t.threads = s.threads

/-! ## The Armature -/

/-- R39, R40, R46 to R49: the messages of other packages. A request for another package is discarded and sets PROTERR; one that must wait
for a recall, the host or another package waits; RDW leaves its words shared remotely, RDO and nothing else makes the requester their
one modifier; the writes of WRW and MCW are stamped on entry by the die that owns the link, and are performed at the home in their
order; so is the atomic of ATW. EVW and WBK bring modified words back as writes of that die, and each is answered. A reply ends the wait
of its tag only, whose place a request that waits for a tag takes; the recall that it answers goes on. PEERDN takes a package down: its
route is cleared, no word stays modified at it, it leaves the sharer lists, and nothing waits for it. What a discarded message does (log
27), the tag that a waiting request takes and the reply that never comes (log 112), the order of remote writes (log 111), the words,
masks and poison of a message (log 110), AOP (log 14) and the link that mailbox event 0x04 names (log 33) are the model's choices. -/
def Obligations.FabricMessages : Prop :=
  ∀ s : State,
    let m := s.ev.msg
    let g := s.ev.link
    let comp := dieOfLink g
    let words := m.named.map (·.2)
    let waitsBy := fun (op : Instr) (write : Bool) (but : Option Nat) => words.findSome? (s.remoteHold write but (s.againTaken op))
    let taken := fun (id : List Nat) (i : Instr) => event i { s.ev with keep := true, words := id }
    (∀ i ∈ [Instr.rdw, .rdo, .evw], m.unit / 2 ^ 31 ≠ s.arm.pkgid → exec i s = .next (s.discardMsg g))
    ∧ (∀ i ∈ [Instr.wrw, .mcw, .atw], s.ev.keep = false → m.unit / 2 ^ 31 ≠ s.arm.pkgid → exec i s = .next (s.discardMsg g))
    ∧ ((s.discardMsg g).link g).proterr = true
    ∧ (s.ev.keep = false → 27 ≤ m.aop ∨ (13 ≤ m.aop ∧ m.aop < 16) → exec .atw s = .next (s.discardMsg g))
    ∧ (m.unit / 2 ^ 31 = s.arm.pkgid →
        (∀ y, waitsBy .rdw false none = some y → exec .rdw s = .next y)
        ∧ (waitsBy .rdw false none = none → ∃ t, exec .rdw s = .next t
            ∧ ∀ p, m.named.getLast? = some p → (t.dirWord p.2).rst = 1)
        ∧ (∀ y, waitsBy .rdo true (some m.srcPkg) = some y → exec .rdo s = .next y)
        ∧ (waitsBy .rdo true (some m.srcPkg) = none →
            (∀ y, s.slotHold (m.unit % 2 ^ 31 * 64) m.srcPkg (s.againTaken .rdo) = some y → exec .rdo s = .next y)
            ∧ (s.slotHold (m.unit % 2 ^ 31 * 64) m.srcPkg (s.againTaken .rdo) = none → ∃ t, exec .rdo s = .next t
              ∧ ∀ p, m.named.getLast? = some p → (t.dirWord p.2).rst = 2 ∧ (t.dirWord p.2).sh = 0
                ∧ (t.remotes p.2).getD (t.dirWord p.2).ridx 1024 = m.srcPkg))
        ∧ (s.ev.keep = false →
            (∀ p, m.named = [p] →
              let x := s.remoteKid p.2
              x.2.admits x.1 p.2 false = true → ∃ t, exec .wrw s = .next t
                ∧ aget? t.mem.writes s.nextId = some
                    { comp := comp, core := none, kid := x.1, w := p.2, data := m.words.getD 0 0, mask := m.be.getD 0 15,
                      psn := m.pmask.getLsbD p.1, stamp := some ((s.vc comp).bump comp), togo := [] }
                ∧ t.vc comp = (s.vc comp).bump comp
                ∧ aget [] t.arm.writes m.srcPkg = aget [] s.arm.writes m.srcPkg ++ [taken [s.nextId] .wrw]
                ∧ t.agenda = (if (aget [] s.arm.writes m.srcPkg).isEmpty then [taken [s.nextId] .wrw] else []) ++ s.agenda
                ∧ t.mem.data = s.mem.data ∧ t.mem.llc = s.mem.llc)
            ∧ ((m.named.any fun p => (s.mcwEntry p.2).isNone) = true → exec .mcw s = .next (s.discardMsg g))
            ∧ ∀ p c x, m.named = [p] → s.mcwEntry p.2 = some (c, x) →
              ∃ t, exec .mcw s = .next t ∧ t.mem.data = s.mem.data ∧ t.mem.llc = s.mem.llc
                ∧ ∀ i < 4, let w := p.2 - aget 0 x.pa 0 * 2 ^ 19 + aget 0 x.pa i * 2 ^ 19
                    s.admits c w false = true → ∃ id k, aget? t.mem.writes id = some k ∧ k.comp = comp ∧ k.kid = c ∧ k.w = w
                      ∧ k.data = m.words.getD 0 0 ∧ k.mask = m.be.getD 0 15 ∧ k.psn = m.pmask.getLsbD p.1
                      ∧ k.stamp.isSome = true ∧ k.togo = [])
        ∧ (s.ev.keep = false → m.aop < 13 ∨ (16 ≤ m.aop ∧ m.aop < 27) → ∀ p, m.named = [p] →
            let x := s.remoteKid p.2
            x.2.admits x.1 p.2 false = true → ∃ t, exec .atw s = .next t
              ∧ aget? t.mem.writes s.nextId = some
                  { comp := comp, core := none, kid := x.1, w := p.2, data := m.words.getD 0 0, mask := 15, psn := false,
                    atom := some (m.aop % 16), stamp := some ((s.vc comp).bump comp), togo := [] }
              ∧ t.vc comp = (s.vc comp).bump comp ∧ t.agenda = taken [s.nextId] .atw :: s.agenda
              ∧ t.mem.data = s.mem.data ∧ t.mem.llc = s.mem.llc)
        ∧ (∀ p, m.named = [p] →
            let x := s.remoteKid p.2
            exec .evw s = .next ((((if ahas s.mem.recalls p.2 then x.2 else x.2.copyFirst x.1 p.2).homeWriteBy comp x.1 p.2
              (m.words.getD 0 0) (m.be.getD 0 15) (m.pmask.getLsbD p.1) true).modDir p.2 fun y => { y with rst := 0 }).reply m 0x21 5
                m.mask 0 []))
        ∧ (∃ t, exec .evw s = .next t ∧ ∀ p, m.named.getLast? = some p → (t.dirWord p.2).rst = 0))
    ∧ (s.ev.keep = true → ∀ id k, s.ev.words = [id] → aget? s.mem.writes id = some k →
        let own := (s.copyFirst k.kid k.w).homeOnly k.w
        (∀ i ∈ [Instr.wrw, .mcw], (∀ y, s.takenHold none (s.again i) [id] = some y → exec i s = .next y)
          ∧ (s.takenHold none (s.again i) [id] = none → ∃ t, exec i s = .next t
              ∧ aget [] t.arm.writes m.srcPkg = (aget [] s.arm.writes m.srcPkg).drop 1
              ∧ (∀ e ∈ ((aget [] s.arm.writes m.srcPkg).drop 1).take 1, e ∈ t.agenda)
              ∧ (∀ e ∈ applyEvents id k.comp, e ∈ t.agenda)
              ∧ (s.isLost k.w = true → t.mem.data = s.mem.data ∧ t.mem.llc = s.mem.llc)
              ∧ (s.isLost k.w = false → t.mem.data = (own.homeStore k.kid k.w .normal k.data k.mask k.psn).mem.data
                  ∧ t.mem.llc = (own.homeStore k.kid k.w .normal k.data k.mask k.psn).mem.llc)))
        ∧ (∀ y, s.takenHold (some m.srcPkg) (s.again .atw) [id] = some y → exec .atw s = .next y)
        ∧ (s.takenHold (some m.srcPkg) (s.again .atw) [id] = none → ∀ p, m.named = [p] → k.w = p.2 →
            let r := own.homeWord k.kid k.w .normal
            let psn := r.2.1 || r.2.2.isLost k.w
            exec .atw s = .next (((if psn then r.2.2 else r.2.2.homeStore k.kid k.w .normal
              (atomNew (k.atom.getD 0) r.1 k.data (m.words.getD 1 0)) 15 false).performed id k).replyData m 0x20 5
                [(p.1, r.1, psn)])))
    ∧ exec .invMsg s = .next (s.reply m 0x22 0 m.mask 0 [])
    ∧ (∀ i ∈ [Instr.dataMsg, .doneMsg, .invack],
        (aget? s.arm.waits m.tag = none → exec i s = .next s)
        ∧ ∀ pkg k x, aget? s.arm.waits m.tag = some (pkg, k, x) → ∃ t, exec i s = .next t
            ∧ (s.arm.unsent = [] → aget? t.arm.waits m.tag = none)
            ∧ (∀ r rs, s.arm.unsent = r :: rs → m.tag < 4096 → t.arm.unsent = rs)
            ∧ (k ≠ 0 → s.arm.unsent = [] → aget? s.mem.recalls x = some [pkg] →
                let q := aget [] s.mem.homeq x
                ¬ ahas t.mem.recalls x = true ∧ ¬ ahas t.mem.homeq x = true
                ∧ t.agenda = (if i = .doneMsg ∧ m.opc = 0 then q.map (·.losing x) else q) ++ s.agenda
                ∧ ((s.dirWord x).rst = 2 → (s.remotes x).getD (s.dirWord x).ridx 1024 = pkg → (t.dirWord x).rst = 0)))
    ∧ (∃ t, exec .wbk s = .next t ∧ (s.arm.unsent = [] → aget? t.arm.waits m.tag = none))
    ∧ (∀ p, m.named = [p] →
        let x := s.remoteKid p.2
        exec .wbk s = .next ((x.2.homeWriteBy comp x.1 p.2 (m.words.getD 0 0) (m.be.getD 0 15) (m.pmask.getLsbD p.1) true).answerTag
          m.tag))
    ∧ (let p := m.unit / 2 ^ 31 % 1024
       (p ∈ s.arm.down → exec .peerdn s = .next s)
       ∧ (p ∉ s.arm.down → ∃ t, exec .peerdn s = .next t ∧ p ∈ t.arm.down ∧ t.routeTo p = none
          ∧ (∀ q, q ≠ p → t.routeTo q = s.routeTo q) ∧ t.mem.modifiedAt p = []
          ∧ (∀ e ∈ t.mem.dir, p ∉ e.2.rlist) ∧ (∀ k x, aget? t.arm.waits k = some x → x.1 ≠ p)
          ∧ ∀ w, s.mem.modifiedAt p = [w] → t.mem.storedData w = 0 ∧ t.mem.storedCheck w = poisonCheck (sigOf w))
       ∧ (p ∉ s.arm.down → s.mem.modifiedAt p = [] → s.arm.waits = [] → s.arm.unsent = [] → s.hub.evq.length < 64 →
          ∃ t, exec .peerdn s = .next t ∧ t.hub.evq = s.hub.evq ++ [(0x04, p, BitVec.ofNat 32 g)]))
    ∧ ∃ t, exec .armIdent s = .next t ∧ (t.link g).peerv = true ∧ (t.link g).peerpkg = m.srcPkg ∧ t.mem = s.mem

/-- R34 to R37, R41 to R45, and the layout of R39: links. A link comes up with its credits when a port has lock and the topology allows it,
and goes down with its routes; training moves step by step and a step's limit leaves the link down (which ports fail is log 36's
reading, what a start leaves off log 113's); a port that is not enabled or has no SerDes rail receives nothing; a good flit in order is
accepted and its messages act next, a bad one is counted and changes nothing else but the retry request; a link that loses one of its
ports replays on the other what is unacknowledged (the order of flits over two ports is log 115's); the counters clear when read. A
message laid out in its slots is read back as it was. -/
def Obligations.FabricLinks : Prop :=
  (∀ s : State,
    let g := s.ev.link
    let p := s.ev.port
    let l := s.link g
    (l.up = true ∨ s.arm.topo = 0 ∨ s.lockedPorts g = [] → exec .linkUp s = .next (s.setWant g true))
    ∧ (∀ b, (s.setWant g b).link g = { l with want := b })
    ∧ (l.up = false → s.arm.topo ≠ 0 → s.lockedPorts g ≠ [] → ∃ t, exec .linkUp s = .next t ∧ (t.link g).up = true
        ∧ (t.link g).want = true ∧ (t.link g).creq = 128 ∧ (t.link g).crep = 128 ∧ (t.link g).cctl = 16
        ∧ ((t.link g).half = true ↔ (s.lockedPorts g).length = 1) ∧ ∀ h, h ≠ g → t.link h = s.link h)
    ∧ (l.up = false → exec .linkDown s = .next (s.setWant g false))
    ∧ (l.up = true → ∃ t, exec .linkDown s = .next t ∧ (t.link g).up = false ∧ (t.link g).want = false
        ∧ (t.link g).peerdn = true ∧ (∀ r ∈ t.arm.routes, r.2.group = g → r.2.valid = false)
        ∧ ∀ q, q ≠ s.arm.pkgid → (∃ r ∈ s.arm.routes, r.1 = q ∧ r.2.valid = true ∧ r.2.group = g) → q ∈ t.arm.down)
    ∧ (l.step = 3 → (∃ q ∈ s.trainPorts g, 128 < (s.port q).feccor ∨ 0 < (s.port q).bad) → exec .linkTrainStepDone s = .next s)
    ∧ ((l.step = 1 ∨ l.step = 2 ∨ l.step = 3) →
        (l.step = 3 → ∀ q ∈ s.trainPorts g, (s.port q).feccor ≤ 128 ∧ (s.port q).bad = 0) →
        ∃ t, exec .linkTrainStepDone s = .next t ∧ (t.link g).step = l.step + 1
        ∧ ∀ q ∈ s.trainPorts g, (l.step = 1 → (t.port q).sig = true)
          ∧ (l.step = 2 → (t.port q).eqdone = true ∧ (t.port q).tmode = 2)
          ∧ (l.step = 3 → (t.port q).lock = true ∧ (t.port q).tmode = 0))
    ∧ (l.step = 4 → (s.peerOk g = false → exec .linkTrainStepDone s = .next s)
        ∧ (s.peerOk g = true → ∃ t, exec .linkTrainStepDone s = .next t ∧ (t.link g).step = 5
            ∧ ((t.link g).up = true ↔ l.up = true ∨ (s.arm.topo ≠ 0 ∧ s.lockedPorts g ≠ []))))
    ∧ (l.step = 5 → (l.up = false → exec .linkTrainStepDone s = .next s)
        ∧ (l.up = true → ∃ t, exec .linkTrainStepDone s = .next t ∧ (t.link g).step = 0 ∧ (t.link g).up = true))
    ∧ (l.step = 0 → exec .linkTrainStepLimit s = .next s)
    ∧ (let failed := (s.trainPorts g).filter fun q => s.ev.val.getLsbD (q % 2)
       (1 ≤ l.step → l.step ≤ 3 → (s.trainPorts g).length = 2 → failed.length = 1 → ∃ t, exec .linkTrainStepLimit s = .next t
          ∧ (∀ q ∈ failed, (t.port q).en = false ∧ q ∈ t.hub.portsOff) ∧ (t.link g).half = true ∧ (t.link g).step = l.step)
       ∧ (l.step ≠ 0 → ¬ (l.step ≤ 3 ∧ (s.trainPorts g).length = 2 ∧ failed.length = 1) → ∃ t, exec .linkTrainStepLimit s = .next t
          ∧ (t.link g).step = 0 ∧ (t.link g).up = false ∧ (t.link g).want = false ∧ (∀ q ∈ s.trainPorts g, (t.port q).en = false)
          ∧ (l.step = 1 ∨ 4 ≤ l.step → 2 * g ∈ t.hub.portsOff ∧ 2 * g + 1 ∈ t.hub.portsOff)
          ∧ ∀ r ∈ t.arm.routes, r.2.group = g → r.2.valid = false))
    ∧ (s.portLive p = false ∨ (s.port p).tmode = 1 → exec .flitReceive s = .next s)
    ∧ (s.portLive p = true → (s.port p).tmode ≠ 1 →
       let h := p / 2
       let live := (s.port p).tmode = 0 ∧ (s.link h).up = true
       (correctFlit s.ev.bytes = none → ∃ t, exec .flitReceive s = .next t ∧ (t.port p).bad = min 0xFFFF ((s.port p).bad + 1)
          ∧ (live → (t.link h).waiting = true) ∧ (t.link h).rxseq = (s.link h).rxseq ∧ t.agenda = s.agenda ∧ t.mem = s.mem)
       ∧ ∀ bs n, correctFlit s.ev.bytes = some (bs, n) →
          let hd : Word := BitVec.ofNat 32 (leNats (bs.take 4))
          let seq := bitsOf hd 29 20
          let payload := ((bs.drop 4).take 240).map fun b => (BitVec.ofNat 8 b : Byte)
          let ms := parseSlots 15 payload
          (∃ t, exec .flitReceive s = .next t ∧ (t.port p).feccor = min 0xFFFF ((s.port p).feccor + n))
          ∧ (live → bitsOf hd 31 30 ≠ 3 → hd.getLsbD 8 = false → seq = ((s.link h).rxseq + 1) % 1024 → (s.link h).early = [] →
              s.arm.down = [] → ∃ t, exec .flitReceive s = .next t ∧ (t.link h).rxseq = seq ∧ (t.link h).acked = true
                ∧ (t.link h).waiting = false
                ∧ ((t.link h).proterr = true ↔ (s.link h).proterr = true ∨ none ∈ ms)
                ∧ t.agenda = (ms.filterMap fun m => m.bind fun m => (msgInstr m.opc).map fun i => event i { msg := m, link := h })
                    ++ s.agenda)
          ∧ (live → bitsOf hd 31 30 ≠ 3 → seq ≠ ((s.link h).rxseq + 1) % 1024 → ∃ t, exec .flitReceive s = .next t
              ∧ (t.link h).rxseq = (s.link h).rxseq ∧ t.agenda = s.agenda
              ∧ (seqBefore seq (s.link h).rxseq < 512 → t.link h = s.link h)
              ∧ (512 ≤ seqBefore seq (s.link h).rxseq → (s.link h).waiting = false → seq = (s.link h).expects (p % 2) →
                  t.link h = { s.link h with early := aset (s.link h).early seq (hd, payload) }))
          ∧ (¬ live → (∀ m, some m ∈ ms → m.opc ≠ 0x41) → ∃ t, exec .flitReceive s = .next t ∧ t.agenda = s.agenda))
    ∧ (∃ t, exec .portLockLoss s = .next t ∧ (t.port p).lock = false
        ∧ ((s.link (p / 2)).up = true → s.lockedPorts (p / 2) = [p] → (t.link (p / 2)).up = false)
        ∧ ((s.link (p / 2)).up = true → p ∈ s.lockedPorts (p / 2) → (∃ q ∈ s.lockedPorts (p / 2), q ≠ p) →
            (t.link (p / 2)).up = true ∧ (t.link (p / 2)).half = true ∧ (t.link (p / 2)).side = 1 - p % 2
            ∧ ((s.link (p / 2)).outq = [] → (t.link (p / 2)).replay = (s.link (p / 2)).replay)
            ∧ ∀ q ∈ s.lockedPorts (p / 2), q ≠ p →
                ((s.port q).tmode = 0 → (t.link (p / 2)).replayDue = none
                  ∧ (t.link (p / 2)).replays = min 0xFFFF ((s.link (p / 2)).replays + 1))
                ∧ ((s.port q).tmode ≠ 0 → (t.link (p / 2)).replayDue.isSome = true ∧ (t.link (p / 2)).wire = (s.link (p / 2)).wire)))
    ∧ (∃ t, exec .alnkErrRead s = .next t ∧ (t.port p).bad = 0 ∧ (t.port p).feccor = 0
        ∧ t.hub.rdata = BitVec.ofNat 32 ((s.port p).bad * 65536 + (s.port p).feccor))
    ∧ ∃ t, exec .agrpRetryRead s = .next t ∧ (t.link g).replays = 0 ∧ (t.link g).limit = l.limit
        ∧ t.hub.rdata = BitVec.ofNat 32 (l.limit * 65536 + l.replays))
  ∧ (∀ (hd : Word) (bs : List Byte), crcOk ((buildFlit hd bs).map fun b => b.toNat) = true)
  ∧ ∀ m : FabMsg, knownOpc m.opc = true → m.srcComp < 6 → m.srcPkg < 1024 → m.dstPkg < 1024 → m.tag < 4096 → m.unit < 2 ^ 41 →
      (if m.opc = 4 then m.aop < 256 ∧ (maskWords m.mask).length ≤ 4 ∧ m.words.length = 4 ∧ m.be = []
       else m.aop = 0 ∧ m.words.length = (if carriesData m.opc then (maskWords m.mask).length else 0)
        ∧ (m.be = [] ∨ m.be.length = m.words.length)) →
      (msgBytes m).length ≤ 240 →
      parseSlots 15 (msgBytes m ++ List.replicate (240 - (msgBytes m).length) 0) = [some m]

/-! ## Homes, stored words and the stacks -/

/-- R80 to R82, R89, R174, R175, R190: what a word's home and a die's L2 do. A request for an unbacked word or a dead key id does nothing
(an atomic answers poison), one that must wait is held; a read for modification leaves the die as the one holder; a write at the home
leaves no copy in any die; a write performed at its die advances the die's own clock component only, and every component applies it as
soon as CanApply holds, with what it has kept waiting. A write of host memory leaves the word modified in the writer's die and in no
other, its line the hub's (04 R89). A write that a package which is down has held up is discarded (02 R48). Where the caches keep the
words of host memory is log 107's choice. -/
def Obligations.Homes : Prop :=
  ∀ s : State,
    let e := s.ev
    let at' (d w : Nat) (t : State) : Prop := ∀ k, t.l2Word d k w = none
    let fits (d u : Nat) : Prop := (∀ p ∈ s.mem.l2, s.pinned p.2 = false) ∧ u < 2 ^ 46
      ∧ (s.mem.l2.filter fun p => p.1 / 2 ^ 46 = d ∧ l2Set (p.1 % 2 ^ 46) = l2Set u).length ≤ 16
    let readBy := s.readHold e.die e.w (event .homeReadShared e)
    let ownBy := s.dieHold e.kid e.w (event .homeReadForModification e)
    (∀ i ∈ [Instr.homeReadShared, .homeReadForModification], s.serves e.kid e.w = false → exec i s = .next s)
    ∧ (s.isLost e.w = true → exec .homeReadForModification s = .next s)
    ∧ (s.serves e.kid e.w = true →
        (∀ y, readBy = some y → exec .homeReadShared s = .next y)
        ∧ (readBy = none → 4 ≤ e.die → exec .homeReadShared s = .next s)
        ∧ (readBy = none → e.die < 4 → ∃ t, exec .homeReadShared s = .next t ∧ t.threads = s.threads
          ∧ (∀ c, s.l2Word e.die e.kid e.w = some c → c.st = .shared → c.judge e.w ≠ .bad → t.dirWord e.w = s.dirWord e.w)
          ∧ (s.l2Word e.die e.kid e.w = none → fits e.die (e.w / 64) → ∃ c, (t.dirWord e.w).sh.getLsbD e.die = true
              ∧ t.l2Word e.die e.kid e.w = some c ∧ c.st = .shared))
        ∧ (s.isLost e.w = false →
            (∀ y, ownBy = some y → exec .homeReadForModification s = .next y)
            ∧ (ownBy = none → e.die < 4 →
                ∃ t, exec .homeReadForModification s = .next t ∧ (t.dirWord e.w).m = true ∧ (t.dirWord e.w).rst = 0
                  ∧ (∀ d < 4, ((t.dirWord e.w).sh.getLsbD d = true ↔ d = e.die)) ∧ ∀ d < 4, d ≠ e.die → at' d e.w t)))
    ∧ (∀ i ∈ [Instr.homeWrite, .homeAtomic, .performAtDie], aget? s.mem.writes e.id = none → exec i s = .next s)
    ∧ (∀ x, aget? s.mem.writes e.id = some x →
        let refused := s.serves x.kid x.w = false ∨ s.isLost x.w = true
        let waits := fun (i : Instr) => s.writeHold x.kid x.w (event i e)
        let dieWaits := if x.atHome then waits .performAtDie else s.dieHold x.kid x.w (event .performAtDie e)
        (refused → exec .homeWrite s = .next s ∧ ∃ t, exec .homeAtomic s = .next t ∧ aget? t.mem.writes e.id = none)
        ∧ (¬ refused →
            (∀ i ∈ [Instr.homeWrite, .homeAtomic], ∀ y, waits i = some y → exec i s = .next y)
            ∧ (waits .homeWrite = none → ∃ t, exec .homeWrite s = .next t
                ∧ (x.mask = 15 ∨ x.fill = 0 → ∃ c, t.llcWord x.kid x.w = some c ∧ c.st = .modified
                    ∧ (x.mask = 15 → c.d = x.data ∧ c.psn = x.psn))
                ∧ (t.dirWord x.w).sh = 0 ∧ ∀ d < 4, at' d x.w t)
            ∧ (waits .homeAtomic = none → ∃ t, exec .homeAtomic s = .next t
                ∧ ∀ op, x.atom = some op → (s.ctx x.kid).build = none → (t.dirWord x.w).sh = 0 ∧ ∀ d < 4, at' d x.w t))
        ∧ (∀ m, x.mcw = some m → ∃ t, exec .performAtDie s = .next t ∧ aget? t.mem.writes e.id = some { x with mcw := none })
        ∧ (x.mcw = none → x.out = some Loc.none → exec .performAtDie s = .next s)
        ∧ (x.mcw = none → x.out = none → x.stamp ≠ none → exec .performAtDie s = .next s)
        ∧ (x.mcw = none → x.out = none → x.stamp = none → refused → ∃ t, exec .performAtDie s = .next t
            ∧ aget? t.mem.writes e.id = none ∧ t.mem.data = s.mem.data ∧ t.mem.llc = s.mem.llc ∧ t.mem.l2 = s.mem.l2)
        ∧ (x.mcw = none → x.out = none → x.stamp = none → ¬ refused →
            (∀ y, dieWaits = some y → exec .performAtDie s = .next y)
            ∧ (dieWaits = none → (s.ctx x.kid).build = none → ∃ t, exec .performAtDie s = .next t
                ∧ aget? t.mem.writes e.id = some { x with stamp := some ((s.vc x.comp).bump x.comp), core := none, togo := (otherComps x.comp) }
                ∧ t.vc x.comp = (s.vc x.comp).bump x.comp ∧ (∀ k, k ≠ x.comp → t.vc k = s.vc k)
                ∧ applyEvents e.id x.comp ++ x.next <+: t.agenda
                ∧ (x.atHome = false → x.comp < 4 → x.mask = 15 → fits x.comp (x.w / 64) →
                    ∃ c, t.l2Word x.comp x.kid x.w = some c ∧ c.d = x.data ∧ c.psn = x.psn ∧ c.st = .modified)))
        ∧ (x.mcw = none → ∀ w, x.out = some (.host w) → x.atom = none → x.comp < 4 → ∃ t, exec .performAtDie s = .next t
            ∧ aget? t.mem.writes e.id = none
            ∧ (fits x.comp (hostWord w / 64) →
                (t.dirWord (hostWord w)).sh = setBit 0 x.comp true ∧ (t.dirWord (hostWord w)).m = true)
            ∧ aget? t.hub.lines (w / 16) = some true ∧ (∀ d < 4, d ≠ x.comp → t.hostHeld d w = none)
            ∧ (x.mask = 15 → fits x.comp (hostWord w / 64) →
                ∃ c, t.hostHeld x.comp w = some c ∧ c.st = .modified ∧ c.d = x.data ∧ c.psn = x.psn)))
    ∧ (∀ u, u = e.w / 64 → (∀ x, aget? s.mem.l2 (l2Key e.die u) = some x →
          (s.pinned x = true → exec .homeWriteBack s = .next s)
          ∧ (s.pinned x = false → ∃ t, exec .homeWriteBack s = .next t ∧ aget? t.mem.l2 (l2Key e.die u) = none))
        ∧ (aget? s.mem.l2 (l2Key e.die u) = none → exec .homeWriteBack s = .next s))
    ∧ (∃ t, exec .l2Invalidation s = .next t
        ∧ (e.keep = false → at' e.die e.w t ∧ (t.dirWord e.w).sh.getLsbD e.die = false)
        ∧ (e.keep = true → ∀ k c, s.l2Word e.die k e.w = some c → c.judge e.w ≠ .bad → ∃ x, t.l2Word e.die k e.w = some x ∧ x.st = .shared))
    ∧ (let y := s.tryApply e.die e.id
       exec .writeApply s = .next (y.applyAll e.die)
       ∧ (∀ x st, aget? s.mem.writes e.id = some x → x.stamp = some st → e.die ∈ x.togo →
            (st.comp x.comp = (s.vc e.die).comp x.comp + 1 ∧ (∀ k < 6, k ≠ x.comp → st.comp k ≤ (s.vc e.die).comp k) →
              y.vc e.die = (s.vc e.die).join st ∧ ∀ z, aget? y.mem.writes e.id = some z → e.die ∉ z.togo)
            ∧ (¬ (st.comp x.comp = (s.vc e.die).comp x.comp + 1 ∧ ∀ k < 6, k ≠ x.comp → st.comp k ≤ (s.vc e.die).comp k) → y = s))
       ∧ (aget? s.mem.writes e.id = none → y = s)
       ∧ ∀ id z st, aget? (y.applyAll e.die).mem.writes id = some z → z.stamp = some st → e.die ∈ z.togo →
            canApply z.comp st ((y.applyAll e.die).vc e.die) = false)

/-- R59 to R64: the check code. The columns and masks of H; the judgement of a syndrome, and what a read delivers and counts for each;
what is stored reads back clean; any one error among the 32 data bits and the eight check bits is corrected, any two are
uncorrectable; the poison code gives syndrome 0xFF, and one error in it a syndrome of weight 5 or 7; and a word that is read from an
address differing in one or two bits, in slice bits or in bank bits is uncorrectable. A word that is not held and is judged
uncorrectable or poison enters the LLC with data zero and its poison bit; what the LLC held of its unit under another key id has been
written back before (05 R108). -/
def Obligations.ErrorCode : Prop :=
  (∀ j : Fin 32, hColumn j.val = (if j.val < 8 then 2 ^ (j.val % 8) + 2 ^ ((j.val + 1) % 8) + 2 ^ ((j.val + 2) % 8)
      else if j.val < 16 then 2 ^ (j.val % 8) + 2 ^ ((j.val + 1) % 8) + 2 ^ ((j.val + 3) % 8)
      else if j.val < 24 then 2 ^ (j.val % 8) + 2 ^ ((j.val + 1) % 8) + 2 ^ ((j.val + 4) % 8)
      else 2 ^ (j.val % 8) + 2 ^ ((j.val + 2) % 8) + 2 ^ ((j.val + 4) % 8)))
  ∧ (∀ (sig : Nat) (d : Word), sig < 256 → ∀ p : Nat × Nat, p ∈ [(0, 0x5191A1C1), (1, 0xA2234383), (2, 0x45468607), (3, 0x8A8C0D0E),
      (4, 0x15191A1C), (5, 0x2A323438), (6, 0x54646870), (7, 0xA8C8D0E0)] →
      (encodeCheck sig d).getLsbD p.1 = (decide (popCount 32 (d.toNat &&& p.2) % 2 = 1) ^^ sig.testBit p.1))
  ∧ (∀ (sig : Nat) (d : Word) (c : Byte), sig < 256 →
      let y := hTimes d.toNat ^^^ c.toNat ^^^ sig
      (y = 0 → judge sig d c = .clean d) ∧ (popCount 8 y = 1 → judge sig d c = .fixed d)
      ∧ (∀ j : Fin 32, y = hColumn j.val → judge sig d c = .fixed (d ^^^ BitVec.ofNat 32 (2 ^ j.val)))
      ∧ (y = 0xFF → judge sig d c = .poison)
      ∧ (y ≠ 0 → popCount 8 y ≠ 1 → (∀ j : Fin 32, y ≠ hColumn j.val) → y ≠ 0xFF → judge sig d c = .bad))
  ∧ (∀ (s : State) (w : Nat),
      let r := s.readStored w
      let k := s.mem.stack (s.mem.stackOf w)
      let k' := r.2.2.mem.stack (s.mem.stackOf w)
      let j := judge (sigOf w) (s.mem.storedData w) (s.mem.storedCheck w)
      (∀ d, j = .clean d → r.1 = d ∧ r.2.1 = false ∧ k'.ce = k.ce ∧ k'.ue = k.ue)
      ∧ (∀ d, j = .fixed d → r.1 = d ∧ r.2.1 = false ∧ k'.ce = min 0xFFFF (k.ce + 1) ∧ k'.ue = k.ue)
      ∧ (j = .poison → r.2.1 = true ∧ k'.ce = k.ce ∧ k'.ue = k.ue)
      ∧ (j = .bad → r.2.1 = true ∧ k'.ce = k.ce ∧ k'.ue = min 0xFFFF (k.ue + 1)))
  ∧ (∀ w d, judge (sigOf w) d (encodeCheck (sigOf w) d) = .clean d)
  ∧ (∀ (w : Nat) (d e : Word) (c : Byte), popCount 32 e.toNat + popCount 8 c.toNat = 1 →
      judge (sigOf w) (d ^^^ e) (encodeCheck (sigOf w) d ^^^ c) = .fixed d)
  ∧ (∀ (w : Nat) (d e : Word) (c : Byte), popCount 32 e.toNat + popCount 8 c.toNat = 2 →
      judge (sigOf w) (d ^^^ e) (encodeCheck (sigOf w) d ^^^ c) = .bad)
  ∧ (∀ w, (poisonCheck (sigOf w)).toNat = sigOf w ^^^ 0xFF ∧ syndrome (sigOf w) 0 (poisonCheck (sigOf w)) = 0xFF)
  ∧ (∀ (w : Nat) (e : Word) (c : Byte), popCount 32 e.toNat + popCount 8 c.toNat = 1 →
      (popCount 8 (syndrome (sigOf w) e (poisonCheck (sigOf w) ^^^ c)) = 5
        ∨ popCount 8 (syndrome (sigOf w) e (poisonCheck (sigOf w) ^^^ c)) = 7)
      ∧ judge (sigOf w) e (poisonCheck (sigOf w) ^^^ c) = .bad)
  ∧ (∀ w x d, w < 2 ^ 37 → x < 2 ^ 37 → w ≠ x →
      popCount 37 (w ^^^ x) ≤ 2 ∨ w / 2 ^ 4 = x / 2 ^ 4 ∨ (w % 2 ^ 23 = x % 2 ^ 23 ∧ w / 2 ^ 28 = x / 2 ^ 28) →
      judge (sigOf x) d (encodeCheck (sigOf w) d) = .bad)
  ∧ (∀ w x d, sigOf w ≠ sigOf x →
      judge (sigOf x) d (encodeCheck (sigOf w) d) = .bad ∨ judge (sigOf x) d (encodeCheck (sigOf w) d) = .poison)
  ∧ ∀ (s : State) (kid w : Nat) (cls : EvClass), s.llcWord kid w = none →
      let x := (s.llcRoom kid (w / 64)).mem
      judge (sigOf w) (x.storedData w) (x.storedCheck w) = .bad ∨ judge (sigOf w) (x.storedData w) (x.storedCheck w) = .poison →
      ∃ c, (s.llcFill kid w cls).llcWord kid w = some c ∧ c.d = 0 ∧ c.psn = true

/-- R54 to R56, R66, R69 to R77, R83 to R85: the memory side of the home. A part's misses are read in burst cycles that take no slice twice;
a cycle brings its words into the LLC; rows close when idle or refreshed; a swap runs slice by slice and exchanges the rows' places;
patrol of a mapped stack advances by a burst, or past a page that checkpoint reads have read; a scrub write-back stores the corrected
word unless it was cancelled; training runs by phases, of which the last writes every word as zero, but on a start that resumes from
Casts; a stack that fails leaves the map, and a word that another cell then backs is zero (both the model's readings: log 85; that a
phase's limit leaves FAILCH as it was is log 127's); and two registers clear when read. -/
def Obligations.Stacks : Prop :=
  (∀ ws : List Nat, (formCycles ws.length ws).flatten.Perm ws
      ∧ ∀ c ∈ formCycles ws.length ws, c ≠ [] ∧ (c.map sliceOf).Nodup)
  ∧ ∀ s : State,
    let e := s.ev
    let dead := s.keyOf e.kid = none
    let miss := (e.words.filter fun w => backed s.mem.span w && (s.llcWord e.kid w).isNone).eraseDups
    let k := s.mem.stack e.stack
    let moves (t : State) : Prop := ∀ w, if s.mem.moved t.mem w then t.mem.storedData w = 0 ∧ t.mem.storedCheck w = encodeCheck (sigOf w) 0
      else t.mem.storedData w = s.mem.storedData w ∧ t.mem.storedCheck w = s.mem.storedCheck w
    (dead → exec .memoryPart s = .next s ∧ exec .burstCycleIssue s = .next s)
    ∧ (¬ dead → exec .memoryPart s = .next (s.prepend ((formCycles miss.length miss).map fun c =>
        event .burstCycleIssue { id := e.id, ch := e.ch, kid := e.kid, val := e.val, words := c })))
    ∧ (¬ dead → ∃ t, exec .burstCycleIssue s = .next t
        ∧ (∀ w, e.words.getLast? = some w → backed s.mem.span w = true → (t.llcWord e.kid w).isSome = true)
        ∧ ∀ w d, e.words = [w] → backed s.mem.span w = true → s.llcWord e.kid w = none →
            judge (sigOf w) ((s.llcRoom e.kid (w / 64)).mem.storedData w) ((s.llcRoom e.kid (w / 64)).mem.storedCheck w) = .clean d →
            ∃ c, t.llcWord e.kid w = some c ∧ c.d = d ^^^ keyWord ((s.keyOf e.kid).getD 0) w ∧ c.psn = false ∧ c.st = .shared
              ∧ (aget noUnit t.mem.llc (w / 64)).cls = classOf e.val w)
    ∧ (∃ t, exec .rowIdleClose s = .next t ∧ aget? t.mem.rows (sliceKey e.ch e.slice e.bank) = none
        ∧ (∀ r, r ≠ sliceKey e.ch e.slice e.bank → aget? t.mem.rows r = aget? s.mem.rows r) ∧ t.mem.data = s.mem.data)
    ∧ (∃ t, exec .refresh s = .next t ∧ (∀ i < 16, aget? t.mem.rows (sliceKey e.ch i e.bank) = none) ∧ t.mem.data = s.mem.data)
    ∧ (∃ t, exec .refreshWindow s = .next t ∧ ∀ b, aget [] t.mem.acts b = if b / 1024 = e.stack then [] else aget [] s.mem.acts b)
    ∧ (ahas s.mem.swaps e.ch = false → aget [] s.mem.swapq e.ch = [] → exec .rowSwap s = .next s)
    ∧ (ahas s.mem.swaps e.ch = false → ∀ b p l, aget [] s.mem.swapq e.ch = (b, p) :: l → ∃ t q, exec .rowSwap s = .next t
        ∧ q < 512 ∧ q ≠ p ∧ aget? t.mem.swaps e.ch = some { bank := b, p := p, q := q, count := 1 }
        ∧ l <+: aget [] t.mem.swapq e.ch ∧ event .rowSwap { ch := e.ch } ∈ t.agenda)
    ∧ (∀ x, aget? s.mem.swaps e.ch = some x →
        let a := s.mem.logicalRow e.ch x.bank x.p
        let b := s.mem.logicalRow e.ch x.bank x.q
        (x.count < 15 → ∃ t, exec .rowSwap s = .next t ∧ aget? t.mem.swaps e.ch = some { x with count := x.count + 1 }
          ∧ t.mem.indir = s.mem.indir)
        ∧ (15 ≤ x.count → a ≠ b → ∃ t, exec .rowSwap s = .next t ∧ aget? t.mem.swaps e.ch = none
          ∧ aget a t.mem.indir (rowKey e.ch x.bank a) = x.q ∧ aget b t.mem.indir (rowKey e.ch x.bank b) = x.p))
    ∧ (let n := aget 0 s.mem.patrol e.ch
       let w := patrolWord s.mem.span s.mem.smap e.ch n
       ((s.mem.stack (e.ch / 32)).en = false ∨ s.mem.mapped (e.ch / 32) = false → exec .patrolBurst s = .next s)
       ∧ ((s.mem.stack (e.ch / 32)).en = true → s.mem.mapped (e.ch / 32) = true → ∃ t, exec .patrolBurst s = .next t
          ∧ aget 0 t.mem.patrol e.ch =
              (let m := if aget false s.mem.skips (pageKey (e.ch / 32) w) then s.mem.pastPage e.ch n else n + 16
               if m < 2 ^ 29 then m else 0)
          ∧ t.mem.data = s.mem.data ∧ t.mem.chk = s.mem.chk ∧ t.threads = s.threads))
    ∧ (∀ n, let m := s.mem.pastPage e.ch n
          n < m ∧ ∀ i, n / 256 < i → i * 256 < m → patrolWord s.mem.span s.mem.smap e.ch (i * 256) / 16384 =
            patrolWord s.mem.span s.mem.smap e.ch n / 16384)
    ∧ (aget? s.mem.holds e.w = none → exec .scrubWriteback s = .next s)
    ∧ (∀ d, aget? s.mem.holds e.w = some d → ∃ t, exec .scrubWriteback s = .next t ∧ aget? t.mem.holds e.w = none
        ∧ t.mem.storedData e.w = d ∧ t.mem.storedCheck e.w = encodeCheck (sigOf e.w) d)
    ∧ (∀ (i : Instr) (p : Nat), (i, p) ∈ [(Instr.mtrCalibration, 1), (.mtrCaTraining, 2), (.mtrReadDeskew, 3), (.mtrWriteDeskew, 4),
          (.mtrPatternTest, 5), (.mtrInitialise, 6)] → ∃ t, exec i s = .next t ∧ (t.mem.stack e.stack).phase = p
        ∧ (t.mem.stack e.stack).busy = true ∧ (t.mem.stack e.stack).tset = e.val.getLsbD 5
        ∧ (p < 6 → t.mem.data = s.mem.data)
        ∧ (p = 6 → s.power.resume = true → t.mem.data = s.mem.data ∧ t.mem.chk = s.mem.chk ∧ t.mem.indir = s.mem.indir)
        ∧ (p = 6 → s.power.resume = false → ∀ w, (if s.mem.stackOf w = e.stack
            then t.mem.storedData w = 0 ∧ t.mem.storedCheck w = encodeCheck (sigOf w) 0
            else t.mem.storedData w = s.mem.storedData w ∧ t.mem.storedCheck w = s.mem.storedCheck w)))
    ∧ (∀ i ∈ [Instr.mtrPhaseEnd, .mtrPhaseLimit], k.busy = false → exec i s = .next s)
    ∧ (k.busy = true → ∃ t, exec .mtrPhaseEnd s = .next t ∧ (t.mem.stack e.stack).busy = false ∧ (t.mem.stack e.stack).failch = e.val
        ∧ (e.val = 0 → (t.mem.stack e.stack).fail = false ∧ (t.mem.stack e.stack).lastph = k.run ∧ t.mem.live = s.mem.live)
        ∧ (e.val ≠ 0 → (t.mem.stack e.stack).fail = true ∧ (e.stack < 8 → t.mem.live.getLsbD e.stack = false)
            ∧ moves t))
    ∧ (k.busy = true → ∃ t, exec .mtrPhaseLimit s = .next t ∧ (t.mem.stack e.stack).busy = false ∧ (t.mem.stack e.stack).fail = true
        ∧ (t.mem.stack e.stack).failch = k.failch ∧ (e.stack < 8 → t.mem.live.getLsbD e.stack = false) ∧ moves t)
    ∧ (∃ t, exec .plnErrRead s = .next t ∧ t.hub.rdata = BitVec.ofNat 32 (k.ue * 65536 + k.ce) ∧ (t.mem.stack e.stack).ue = 0
        ∧ (t.mem.stack e.stack).ce = 0)
    ∧ ∃ t, exec .plnFqHiRead s = .next t ∧ (t.mem.stack e.stack).fq = k.fq.drop 1 ∧ (t.mem.stack e.stack).ovf = false
        ∧ (t.mem.stack e.stack).fqlo = (match k.fq with
          | [] => 0
          | (_, w) :: _ => BitVec.ofNat 32 w)
        ∧ t.hub.rdata = (match k.fq with
          | [] => BitVec.ofNat 32 (if k.ovf then 2 ^ 30 else 0)
          | (kind, w) :: _ => BitVec.ofNat 32 (2 ^ 31 + (if k.ovf then 2 ^ 30 else 0) + kind * 2 ^ 28 + w / 2 ^ 32 % 32))

/-! ## The hub -/

/-- R82, R87 to R89, R108, R109: the host's accesses. Before the memory is open nothing happens; without a live host context a read is
poisoned and a write discarded; an access waits for what holds its words, and keeps the key id under which it was accepted; a read gives
the line, poisoned as a whole when a word is, and admits it to the filter; a write is made at the home as the hub. A snoop takes the
line of host memory from every die, with what a die has modified. Where the host's accesses wait and what a write without a context does
are log 90's readings. -/
def Obligations.HostAccess : Prop :=
  ∀ s : State,
    let e := s.ev
    let line := e.off / 64
    let kid := e.hostKid s
    let live := e.cause = 1 ∨ (s.ctx s.ctxregs.hostkid).state = .live
    let ws := (List.range 16).map (line * 16 + ·)
    let again (i : Instr) : Event := event i { e with kid := kid, cause := 1 }
    (kid = if e.cause = 1 then e.kid else s.ctxregs.hostkid)
    ∧ (s.hub.hdm = false → exec .hostMemRead s = .next s ∧ exec .hostMemWrite s = .next s)
    ∧ (s.hub.hdm = true → ¬ live → exec .hostMemWrite s = .next s ∧ ∃ t, exec .hostMemRead s = .next t ∧ t.hub.linePsn = true
        ∧ t.hub.line = List.replicate 64 0 ∧ t.mem = s.mem)
    ∧ (s.hub.hdm = true → live →
        (∀ v, s.hub.filterVictim line = some v → exec .hostMemRead s = .next (s.snoopLine v (again .hostMemRead)))
        ∧ (s.hub.filterVictim line = none →
            (∀ y, s.hostHolds kid false (again .hostMemRead) ws = some y → exec .hostMemRead s = .next y)
            ∧ (s.hostHolds kid false (again .hostMemRead) ws = none → ∃ t, exec .hostMemRead s = .next t
                ∧ t.hub.line.length = 64 ∧ ahas t.hub.filter line = true ∧ t.threads = s.threads
                ∧ (let r := (s.hostUnbacked line).hostWords kid true ws
                   t.hub.line = wordsBytes (r.1.map (·.1)) ∧ t.hub.linePsn = r.1.any (·.2))
                ∧ (backed s.mem.span (line * 16 + 15) = false → t.hub.linePsn = true)))
        ∧ (∀ y, s.hostHolds kid true (again .hostMemWrite) ws = some y → exec .hostMemWrite s = .next y)
        ∧ (s.hostHolds kid true (again .hostMemWrite) ws = none → ∃ t, exec .hostMemWrite s = .next t
            ∧ ((∀ i < 16, backed s.mem.span (line * 16 + i) = false) → t.mem = s.mem)
            ∧ (s.serves kid (line * 16 + 15) = true → s.isLost (line * 16 + 15) = false → e.be.toNat / 2 ^ 60 = 15 → (s.ctx kid).build = none →
                ∃ c, t.llcWord kid (line * 16 + 15) = some c ∧ c.d = BitVec.ofNat 32 (leAt e.bytes 60 4) ∧ c.psn = e.keep
                  ∧ c.st = .modified)))
    ∧ (let r := s.recallLine line
       (s.hub.hdm = true → ∀ w ∈ ws, ∀ d < 4, ∀ c, s.hostHeld d w = some c → c.st = .modified →
          (∃ x, c.judge (hostWord w) = .clean x) → (∀ k < 4, k ≠ d → ∀ i, s.l2Word k i (hostWord w) = none) →
          r.mem.hostData w = c.d ∧ ahas r.mem.hostbad w = c.psn)
       ∧ ∃ t, exec .hostSnoop s = .next t ∧ t.hub.line = r.mem.hostmem.readAll (64 * line) 64
        ∧ t.hub.linePsn = ws.any (fun w => ahas r.mem.hostbad w) ∧ ahas t.hub.lines line = false
        ∧ (∀ p ∈ t.hub.hostdir, p.1 / 16 ≠ line) ∧ (∀ w ∈ ws, ∀ d < 4, t.hostHeld d w = none) ∧ t.mem.data = s.mem.data
        ∧ t.mem.hostmem = (if e.bytes = [] then r.mem.hostmem else r.mem.hostmem.writeAll (64 * line) (e.bytes.take 64)))
    ∧ ∃ t, exec .birsp s = .next t ∧ ahas t.hub.snoops e.w = false ∧ t.agenda = aget [] s.hub.snoops e.w ++ s.agenda
        ∧ t.mem = s.mem

/-- R90, R91, R93 to R96, R98, R103, R117: the mailbox and the command queues. A command that has been started leaves its result and its
output; a queue is passed over when nothing can be read from it; an entry advances HEAD, whether it is taken, passed over or
rejected; a free entry that was granted to the queue and not taken is granted again (06 R123). The images
and their slots (log 80), the input and output of a command (log 87) and what the hub makes of an entry (log 88) are the model's choices. -/
def Obligations.MailboxAndQueues : Prop :=
  ∀ s : State,
    let h := s.hub
    let bs := h.buf.readAll 0 (min h.len 4096)
    let done (i : Instr) (r : BitVec 8) (out : List Byte) : Prop := ∃ t, exec i s = .next t ∧ t.hub.busy = false ∧ t.hub.result = r
      ∧ t.hub.outlen = min out.length 4096 ∧ t.hub.buf = h.buf.writeAll 0 (out.take 4096)
    (∀ i ∈ [Instr.ident, .attest, .getlog, .getrec, .clralt, .setfab, .fwwrite, .raisesvn, .ctxrep], h.busy = false →
      exec i s = .next s)
    ∧ (∀ i ∈ [Instr.attest, .raisesvn, .ctxrep], h.busy = true → h.ready = false → done i 3 [])
    ∧ (∀ (i : Instr) (n : Nat), (i, n) ∈ [(Instr.attest, 32), (.getlog, 4), (.getrec, 1), (.clralt, 5), (.setfab, 1026), (.fwwrite, 5),
          (.raisesvn, 5), (.ctxrep, 33)] → h.busy = true → h.ready = true → bs.length < n → done i 2 [])
    ∧ (h.busy = true → done .ident 0 (Config.identBytes.take 4096)
        ∧ (h.ready = true → 32 ≤ bs.length → done .attest 0 (signed (s.attestBody (bs.take 32))))
        ∧ (4 ≤ bs.length →
            (leAt bs 0 4 ≤ h.mlog.flatten.length → done .getlog 0 ((h.mlog.flatten.drop (leAt bs 0 4)).take 4096))
            ∧ (h.mlog.flatten.length < leAt bs 0 4 → done .getlog 2 []))
        ∧ (1 ≤ bs.length → (leAt bs 0 1 = 0 → done .getrec 0 s.currentRecord) ∧ (2 ≤ leAt bs 0 1 → done .getrec 2 [])
            ∧ (leAt bs 0 1 = 1 → done .getrec 0 (s.startRecord 1)))
        ∧ (5 ≤ bs.length →
            let n := leAt bs 0 1
            let v : Word := BitVec.ofNat 32 (leAt bs 1 4)
            (n = 0 ∨ 16 < n → done .clralt 2 [])
            ∧ (1 ≤ n → n ≤ 16 → done .clralt 0 [] ∧ ∀ t, exec .clralt s = .next t → t.hub.clralt = h.clralt ++ [(n, v)])
            ∧ (n = 0 ∨ 3 < n ∨ 4085 < bs.length ∨ 524288 + 5 < leAt bs 1 4 + bs.length → done .fwwrite 2 [])
            ∧ (1 ≤ n → n ≤ 3 → bs.length ≤ 4085 → leAt bs 1 4 + bs.length ≤ 524288 + 5 →
                done .fwwrite 0 [] ∧ ∀ t, exec .fwwrite s = .next t →
                  ∀ k, (k ≠ n * 2 + (1 - aget 0 h.lastSlot n) → aget [] t.hub.images k = aget [] h.images k)
                    ∧ (k = n * 2 + (1 - aget 0 h.lastSlot n) →
                        ((aget [] t.hub.images k).drop (leAt bs 1 4)).take (bs.length - 5) = bs.drop 5))
            ∧ (h.ready = true → (n = 0 ∨ 3 < n ∨ v < aget 0 h.minSvn n → done .raisesvn 2 [])
                ∧ (1 ≤ n → n ≤ 3 → aget 0 h.minSvn n ≤ v → done .raisesvn 0 [] ∧ ∀ t, exec .raisesvn s = .next t →
                    aget 0 t.hub.minSvn n = v)))
        ∧ (1026 ≤ bs.length → done .setfab 0 [] ∧ ∀ t, exec .setfab s = .next t → t.hub.setfab = some (bs.take 1026))
        ∧ (h.ready = true → 33 ≤ bs.length → (leAt bs 0 1 = 0 → done .ctxrep 2 [])
            ∧ (leAt bs 0 1 ≠ 0 → (s.ctx (leAt bs 0 1)).valid = false →
                done .ctxrep 0 (signed (natBytes 4 0x43585250 ++ natBytes 4 1 ++ (bs.drop 1).take 32 ++ natBytes 1 (leAt bs 0 1)
                  ++ natBytes 1 (s.ctx (leAt bs 0 1)).state.code ++ [0, 0] ++ wordBytes (s.ctx (leAt bs 0 1)).castWord
                  ++ List.replicate 8 0 ++ h.logd ++ List.replicate 64 0)))
            ∧ (leAt bs 0 1 ≠ 0 → (s.ctx (leAt bs 0 1)).valid = true → ∃ t, exec .ctxrep s = .next t ∧ t.hub.busy = false
                ∧ t.hub.result = 0 ∧ t.threads = s.threads)))
    ∧ (∃ t, exec .mbxEvtHiRead s = .next t ∧ t.hub.evq = h.evq.drop 1 ∧ t.hub.evovf = false
        ∧ (h.evq = [] → t.hub.evtlo = 0 ∧ t.hub.rdata = BitVec.ofNat 32 (if h.evovf then 2 ^ 30 else 0))
        ∧ ∀ code src arg rest, h.evq = (code, src, arg) :: rest → t.hub.evtlo = arg ∧ t.hub.rdata = BitVec.ofNat 32
            (2 ^ 31 + (if h.evovf then 2 ^ 30 else 0) + code % 256 * 65536 + src % 65536))
    ∧ (let q := s.ev.queue
       let c := aget {} h.cqs q
       let full := (s.ctx c.ctx).state = .restoring ∨ 4096 ≤ s.storeUsed c.die
       let rejected (t : State) : Prop := aget {} t.hub.cqs q = { c with badent := true, head := BitVec.ofNat 32 c.next }
       let ws := (List.range 16).map (c.entryAddr / 4 + ·)
       let seen := s.modHub fun x => { x with turn := (q + 1) % 16 }
       (∀ i ∈ [Instr.cqSubmit, .cqNop],
          (h.hdm = false ∨ c.waiting = false → exec i s = .next (s.regrant c.die))
          ∧ (h.hdm = true → c.waiting = true → full → exec i s = .next (seen.regrant c.die)))
       ∧ (∀ die, s.regrant die = if s.ev.keep then s.grantEntry die else s)
       ∧ (h.hdm = true → c.waiting = true → ¬ full →
          ((s.ctx c.ctx).state ≠ .live → ∃ t, exec .cqSubmit s = .next t ∧ rejected t
            ∧ (s.ev.keep = false → t.launches = s.launches))
          ∧ ((s.ctx c.ctx).state = .live →
              (∀ (i : Instr) (y : State), i = .cqSubmit ∨ i = .cqNop →
                (ws.findSome? fun w => seen.readHold 4 w (event i s.ev)) = some y → exec i s = .next y)
              ∧ ∀ r, (∀ i, i = Instr.cqSubmit ∨ i = .cqNop → (ws.findSome? fun w => seen.readHold 4 w (event i s.ev)) = none) →
                  seen.hostWords c.ctx false ws = r →
                  (cqEntry r.1 = .bad → ∃ t, exec .cqSubmit s = .next t ∧ rejected t ∧ (s.ev.keep = false → t.launches = s.launches))
                  ∧ (cqEntry r.1 = .nop → (∃ t, exec .cqSubmit s = .next t ∧ t.agenda.head? = some (event .cqNop { queue := q, keep := s.ev.keep }))
                      ∧ ∃ t, exec .cqNop s = .next t ∧ aget {} t.hub.cqs q = { c with head := BitVec.ofNat 32 c.next })
                  ∧ ∀ lrec, cqEntry r.1 = .submit lrec → ∀ ws ks y,
                      r.2.cqRecord c.site (event .cqSubmit s.ev) lrec = (.ok ws ks, y) →
                      ∃ t, exec .cqSubmit s = .next t ∧ aget {} t.hub.cqs q = { c with head := BitVec.ofNat 32 c.next }
                        ∧ (y.launchBad ws = false → ∃ id l, aget? t.launches id = some l ∧ l.die = c.die ∧ l.ctx = c.ctx
                            ∧ l.rc = launchRecOf ws ∧ l.k = constsOf ks ∧ l.addr = lrec ∧ l.status = none))))

/-! ## Contexts -/

/-- R105 to R115: contexts. Create makes a free context live with a new key and nothing of an earlier one; destroy is refused while the
context has work, refuses new requests and waits for those accepted, and then leaves the context free, without a key, and nothing cached
under its key id; restore removes every team of the context, and brings back the committed Cast, for whose words it waits, or leaves the
context restoring; a Cast is taken when no team is placed and every write is applied, copies page after page, and is built once its list
is written. What create and destroy do with replica entries and with work (logs 91, 92), what a restore drops (log 129), the
translations that it removes (log 122), and what counts as the cast point (logs 50, 93) are the model's readings. -/
def Obligations.Contexts : Prop :=
  ∀ s : State,
    let c := s.ev.ctx
    let x := s.ctx c
    let ends (i : Instr) (r : Nat) : Prop := ∃ t, exec i s = .next t ∧ (t.ctx c).result = r ∧ (t.ctx c).state = x.state
      ∧ (t.ctx c).key = x.key ∧ (∀ d, d ≠ c → t.ctx d = s.ctx d) ∧ t.mem = s.mem ∧ t.threads = s.threads ∧ t.launches = s.launches
    let again := event .ctxRestore { ctx := c, keep := true }
    let resumes (y : State) : Prop :=
      let z := { y with ev := { y.ev with lost := [] } }
      (∀ q, z.listHold c again = some q → exec .ctxRestore s = .next q)
      ∧ (z.listHold c again = none →
          ((z.readCast c).1 = none → ∃ t, exec .ctxRestore s = .next t ∧ (t.ctx c).state = .restoring ∧ (t.ctx c).result = 5
            ∧ t.teams = y.teams)
          ∧ ∀ vs r, z.readCast c = (some vs, r) →
              (∀ q, r.restorePages c vs again = (false, q) → exec .ctxRestore s = .next q)
              ∧ ∀ q, r.restorePages c vs again = (true, q) → ∃ t, exec .ctxRestore s = .next t ∧ (t.ctx c).state = .live
                  ∧ (t.ctx c).result = 0 ∧ (t.ctx c).key = x.key ∧ (t.ctx c).cur = x.cur ∧ (t.ctx c).seq = x.seq ∧ t.teams = y.teams
                  ∧ t.mem = q.mem)
    (c = 0 → ends .ctxCreate 3 ∧ ends .ctxDestroy 3 ∧ (s.ev.keep = false →
      (s.ev.cause = 0 → ends .ctxRestore 3) ∧ (s.ev.cause ≠ 0 → exec .ctxRestore s = .next s)))
    ∧ (s.ev.keep = true → (x.state ≠ .restoring → exec .ctxRestore s = .next s) ∧ (x.state = .restoring → resumes s))
    ∧ (c ≠ 0 →
        (x.state ≠ .free → ends .ctxCreate 2)
        ∧ (x.state = .free → ∃ t k, exec .ctxCreate s = .next t ∧ (t.ctx c).state = .live ∧ (t.ctx c).key = some k
            ∧ (t.ctx c).valid = false ∧ (t.ctx c).seq = 0 ∧ (t.ctx c).wear = 0 ∧ (t.ctx c).errs = [] ∧ (t.ctx c).build = none
            ∧ (t.ctx c).ptroot = x.ptroot ∧ (t.ctx c).bufa = x.bufa ∧ (t.ctx c).bufb = x.bufb ∧ (t.ctx c).result = 0
            ∧ (∀ d, d ≠ c → t.ctx d = s.ctx d) ∧ t.mem = s.mem
            ∧ ∀ i r, aget? x.reps i = some r → ∃ r', aget? (t.ctx c).reps i = some r' ∧ r'.va = r.va ∧ r'.pa = r.pa
                ∧ (r'.used = true → r'.len = r.len ∧ r.len ≠ 0 ∧ r.illPlaced s.mem.span = false))
        ∧ (x.state = .free → ends .ctxDestroy 2)
        ∧ (x.state = .live ∨ x.state = .restoring → s.hasWork c = true → ends .ctxDestroy 1)
        ∧ (x.state = .live ∨ x.state = .restoring → s.hasWork c = false → s.accepted c = true → ∃ t, exec .ctxDestroy s = .next t
            ∧ (t.ctx c).state = .destroying ∧ (t.ctx c).key = x.key ∧ t.mem = s.mem)
        ∧ (x.state = .destroying → s.accepted c = true → exec .ctxDestroy s = .next s)
        ∧ (∀ w acc, s.admits c w acc = true → acc = true ∨ x.state ≠ .destroying)
        ∧ (x.state = .destroying ∨ ((x.state = .live ∨ x.state = .restoring) ∧ s.hasWork c = false) → s.accepted c = false →
            ∃ t, exec .ctxDestroy s = .next t ∧ (t.ctx c).state = .free ∧ (t.ctx c).key = none ∧ (t.ctx c).valid = false
              ∧ (t.ctx c).result = 0 ∧ (∀ p ∈ t.mem.l1, p.2.kid ≠ c) ∧ (∀ p ∈ t.mem.l2, p.2.kid ≠ c)
              ∧ (∀ p ∈ t.mem.llc, p.2.kid ≠ c) ∧ t.threads = s.threads)
        ∧ (s.ev.keep = false →
            (x.state ≠ .live → (s.ev.cause = 0 → ends .ctxRestore 2) ∧ (s.ev.cause ≠ 0 → exec .ctxRestore s = .next s))
            ∧ (x.state = .live → x.valid = false → ∃ t, exec .ctxRestore s = .next t ∧ (t.ctx c).state = .restoring
                ∧ (t.ctx c).result = 4 ∧ (t.ctx c).build = none ∧ (t.ctx c).built = none ∧ (∀ p ∈ t.teams, p.2.ctx ≠ c)
                ∧ ((∀ p ∈ s.scheds, p.2.parked = []) → ∀ p ∈ t.launches, p.2.ctx ≠ c))
            ∧ (x.state = .live → x.valid = true →
                let y := (((s.removeWork c).dropUpper c).dropTranslations c).dropLlc c false
                (∀ p ∈ y.teams, p.2.ctx ≠ c) ∧ (y.ctx c).state = .restoring ∧ (y.ctx c).build = none ∧ (y.ctx c).built = none
                ∧ (∀ p ∈ y.mem.llc, p.2.kid ≠ c) ∧ resumes y)))
    ∧ (x.build = none → exec .castPoint s = .next s ∧ exec .castPageCopy s = .next s)
    ∧ ∀ b, x.build = some b →
        (b.point = true ∨ (∃ p ∈ s.teams, p.2.ctx = c) ∨ s.writesApplied c = false → exec .castPoint s = .next s)
        ∧ (b.point = false → (∀ p ∈ s.teams, p.2.ctx ≠ c) → s.writesApplied c = true →
            let after := fun (w : Nat) (y : State) => (y.readHold 5 w (s.again .castPoint)).getD y
            (∀ w y, s.castSet c = (.error w, y) → exec .castPoint s = .next (after w y))
            ∧ ∀ ps y, s.castSet c = (.ok ps, y) →
                (∀ w, y.strayWord (ps.map (·.2)) = some w → exec .castPoint s = .next (after w y))
                ∧ (y.strayWord (ps.map (·.2)) = none →
                    (x.buflen < listPages ps.length + ps.length → ∃ t, exec .castPoint s = .next t ∧ (t.ctx c).build = none
                      ∧ (t.ctx c).failed = true ∧ (t.ctx c).cur = x.cur ∧ (t.ctx c).valid = x.valid ∧ (t.ctx c).seq = x.seq)
                    ∧ (listPages ps.length + ps.length ≤ x.buflen → ∃ t, exec .castPoint s = .next t
                      ∧ (t.ctx c).build = some { b with point := true, pages := ps, all := ps.map (·.1) })))
        ∧ (b.point = false → exec .castPageCopy s = .next s)
        ∧ (b.point = true →
            (∀ p l, b.pages = p :: l →
              let h := s.pageHold p.2 (x.copyOf b p.1) (s.again .castPageCopy)
              (∀ y, h = some y → exec .castPageCopy s = .next y)
              ∧ (h = none → ∃ t, exec .castPageCopy s = .next t ∧ (t.ctx c).cur = x.cur ∧ (t.ctx c).seq = x.seq
                ∧ (((t.ctx c).build = none ∧ (t.ctx c).failed = true)
                  ∨ (t.ctx c).build = some { b with pages := b.pages.filter (· != p) })))
            ∧ (b.pages = [] →
                let h := s.spanHold (x.buffer b.toB * 16384) (4 + 2 * b.all.length) true (s.again .castPageCopy)
                (∀ y, h = some y → exec .castPageCopy s = .next y)
                ∧ (h = none → ∃ t, exec .castPageCopy s = .next t ∧ (t.ctx c).build = none ∧ (t.ctx c).built = some b.toB
                  ∧ (t.ctx c).cur = x.cur ∧ (t.ctx c).valid = x.valid ∧ (t.ctx c).seq = x.seq)))

/-! ## Dispatch and the life of teams -/

/-- R121, R125 to R134, R144: dispatch. A poll makes ready a launch whose dependences are met and ends one of which one has failed; a
decision places nothing for launches that may not place, never gives out more of a core than it has, and changes no launch of another
die; a launch passed over long enough reserves; and a lane array forms at most four bundles, each of ready threads of one launch at
one PC on lanes that rise. -/
def Obligations.Dispatch : Prop :=
  (∀ s : State,
    let e := s.ev
    let room (s : State) : Prop := ∀ c, (s.usedSlots c).length ≤ 32 ∧ sumOf (·.xpool) (s.coreTeams c) ≤ 48
      ∧ sumOf (·.accs) (s.coreTeams c) ≤ 32 ∧ sumOf (·.nbars) (s.coreTeams c) ≤ 128
    (∃ t, exec .dependencePoll s = .next t ∧ t.threads = s.threads ∧ t.teams = s.teams
        ∧ (∀ id l, e.id = id → id ≠ 0 → aget? s.launches id = some l → akeys (s.launches.filter fun p => p.1 = id) = [id] →
            l.die = e.die →
            (l.ready = true ∨ l.status ≠ none → t = s)
            ∧ (l.ready = false → l.status = none → (∃ k ∈ l.after, ahas s.reqs k = true) → t = s)
            ∧ (l.ready = false → l.status = none → (∀ k ∈ l.after, ahas s.reqs k = false) → ∀ ds y, s.readDeps id l l.rc.deps = (ds, y) →
                (.waits ∈ ds → t = y)
                ∧ (.waits ∉ ds → .failed ∈ ds → (t.launch id).status = some (4, BitVec.ofNat 32 (ds.idxOf .failed))
                    ∧ event .launchEnd { id := id } ∈ t.agenda)
                ∧ (.waits ∉ ds → .failed ∉ ds → .pending ∈ ds → t = y)
                ∧ (.waits ∉ ds → .failed ∉ ds → .pending ∉ ds → (t.launch id).ready = true ∧ (t.launch id).status = none))))
    ∧ (s.power.hold = true → exec .placementDecision s = .next s)
    ∧ (s.power.hold = false → (∀ id ∈ s.decisionOrder e.die, s.mayPlace id (s.launch id) = false) → exec .placementDecision s = .next s)
    ∧ (s.power.hold = false → ∃ t, exec .placementDecision s = .next t ∧ (room s → room t)
        ∧ ∀ id, id ∉ s.decisionOrder e.die → aget? t.launches id = aget? s.launches id)
    ∧ (aget? s.launches e.id = none → exec .reserving s = .next s)
    ∧ (∀ l, aget? s.launches e.id = some l →
        (l.ready = true ∧ l.status = none ∧ 2 ^ max 10 (s.sched l.die).resv ≤ l.passed → ∃ t, exec .reserving s = .next t
          ∧ (t.launch e.id).reserving = true ∧ t.teams = s.teams)
        ∧ (¬ (l.ready = true ∧ l.status = none ∧ 2 ^ max 10 (s.sched l.die).resv ≤ l.passed) → exec .reserving s = .next s))
    ∧ ∃ t, exec .bundleFormation s = .next t ∧ t.threads = s.threads ∧ t.mem = s.mem
        ∧ t.bundles.length ≤ s.bundles.length + 4
        ∧ ∀ b ∈ t.bundles, b ∈ s.bundles ∨ (b.cycle < 4 ∧ b ∈ formBundles (s.pool e.core e.la) 4 ∧ ∀ r ∈ b.refs, s.poolReady r = true))
  ∧ ∀ (pool : List Cand) (n : Nat), (∀ c ∈ pool, c.ref ∈ c.unit) → (formBundles pool n).length ≤ n
      ∧ ∀ b ∈ formBundles pool n, b.refs ≠ [] ∧ (b.refs.map refLane).Pairwise (· < ·)
        ∧ ∃ t0 ∈ pool, b.pc = t0.pc ∧ ∀ r ∈ b.refs, ∃ c ∈ pool, r ∈ c.unit ∧ c.pc = t0.pc ∧ c.launch = t0.launch

/-- R120, R134, R139, R168, R169, R276, R281, R282, R331: the ends of teams and launches. A team ends when all its threads have exited and
nothing of it is under way, once its log is published; a launch ends once and leaves its store; an abort stops every team of a launch
and records the cause; a saved cohort leaves its core, once the logs that it publishes are performed; a rollback of a drained team
starts it afresh or from its shadow, at most twice in a row, and is an abort when its writes have escaped (what drains, log 52, which
teams an abort counts, log 130, and the completion object, log 73, are the model's readings). The host pops a fault record, and its
answer frees the threads that wait on it. -/
def Obligations.TeamLifecycle : Prop :=
  ∀ s : State,
    let e := s.ev
    let T := s.team e.id
    let c : Byte := BitVec.ofNat 8 e.cause
    let f := s.faultsOf e.die
    (¬ (ahas s.teams e.id = true ∧ s.teamOver e.id = true) → exec .teamEnd s = .next s)
    ∧ (ahas s.teams e.id = true → s.teamOver e.id = true → T.log ≠ [] → ∃ t id q, exec .teamEnd s = .next t
        ∧ (t.team e.id).log = [] ∧ aget? t.reqs id = some q ∧ q.kind = .publish ∧ refTeam q.ref = e.id
        ∧ teamEndEvent e.id ∈ aget [] t.after id ∧ t.threads = s.threads)
    ∧ (ahas s.teams e.id = true → s.teamOver e.id = true → T.log = [] → ∃ t, exec .teamEnd s = .next t ∧ aget? t.teams e.id = none
        ∧ (ahas s.launches T.launch = true → (t.launch T.launch).done = (s.launch T.launch).done + 1) ∧ event .launchEnd { id := T.launch } ∈ t.agenda
        ∧ (∀ u, u ≠ e.id → ahas t.teams u = ahas s.teams u)
        ∧ ∀ p ∈ t.threads, refKind p.1 ≠ .steward → refTeam p.1 ≠ e.id)
    ∧ (aget? s.launches e.id = none → exec .launchEnd s = .next s ∧ exec .launchAbort s = .next s)
    ∧ (∀ l, aget? s.launches e.id = some l →
        (l.status = none → s.launchOver e.id l = false → exec .launchEnd s = .next s)
        ∧ (∀ cause, l.status = some (2, cause) → (∃ p ∈ s.teams, p.2.launch = e.id) → exec .launchEnd s = .next s)
        ∧ ((l.status = none ∧ s.launchOver e.id l = true) ∨ (∃ st cause, l.status = some (st, cause) ∧ st ≠ 2) →
            ∃ t, exec .launchEnd s = .next t
              ∧ (l.rc.cplt.toNat % 16 ≠ 0 → (∀ p ∈ s.scheds, p.2.parked = []) → aget? t.launches e.id = none))
        ∧ (∀ st cause, l.status = some (st, cause) → st ≠ 2 → exec .launchAbort s = .next s)
        ∧ (l.status = none → ∃ t, exec .launchAbort s = .next t ∧ (t.launch e.id).status = some (2, e.val)
            ∧ (t.launch e.id).endTid = e.tid ∧ (∀ u U, aget? t.teams u = some U → U.launch = e.id → U.halt = some .abort)
            ∧ ∀ u, u ∉ akeys (s.teams.filter fun p => p.2.launch = e.id) → aget? t.teams u = aget? s.teams u))
    ∧ (let us := akeys (s.teams.filter fun p => p.2.launch = e.id ∧ ((s.launch e.id).resident ∨ p.2.coh = e.ix))
       let due := us ≠ [] ∧ (∀ u ∈ us, s.drained u = true)
         ∧ ∀ p ∈ s.teams, p.2.launch = e.id → ((s.launch e.id).resident = true ∨ p.2.coh = e.ix) →
             p.2.halt = some .save ∧ p.2.shadow = false
       (¬ due → exec .preemptSave s = .next s)
       ∧ (due → ∃ t, exec .preemptSave s = .next t
          ∧ ∀ es y, s.squashTeams us = (es, y) →
              (us.all y.drained = false → t = y.prepend es)
              ∧ (us.all y.drained = true → ∀ z, y.saveTeams (event .preemptSave e) us = (.done, z) →
                  ∀ u ∈ us, aget? t.teams u = none)))
    ∧ (ahas s.teams e.id = false ∨ T.halt = some .abort → exec .rollback s = .next s)
    ∧ (ahas s.teams e.id = true → T.halt = none ∨ T.halt = some .save →
        (T.escaped = true → exec .rollback s = .next (s.prepend
          [abortEvent T.launch (c.toNat + 512 + if e.keep then 256 else 0) (BitVec.ofNat 32 T.tid)]))
        ∧ (T.escaped = false →
            let y := (s.squashAp e.id).modTeam e.id fun x => { x with halt := some (.roll c e.keep T.halt.isSome) }
            (y.drained e.id = false ∨ T.shadow = true → exec .rollback s = .next y)
            ∧ (y.drained e.id = true → T.shadow = false → (s.launch T.launch).countFault = none →
                (2 ≤ T.streak → exec .rollback s = .next (y.prepend
                  [abortEvent T.launch (0x21 + 512 + if e.keep then 256 else 0) (BitVec.ofNat 32 T.tid)]))
                ∧ (T.streak < 2 → T.phased = false → ∃ t, exec .rollback s = .next t ∧ (t.team e.id).streak = T.streak + 1
                    ∧ (t.team e.id).log = [] ∧ (t.team e.id).ext = [] ∧ (t.team e.id).acc = [] ∧ (t.team e.id).bars = []
                    ∧ (t.team e.id).halt = T.halt
                    ∧ ∀ i < 32 * (s.launch T.launch).rc.groups,
                        (t.thread (laneRef e.id (i / 32) (i % 32))).pc = (s.launch T.launch).rc.code.setWidth 57 + 4)
                ∧ (T.streak < 2 → T.phased = true → ∃ t, exec .rollback s = .next t))))
    ∧ (∀ b h w, T.halt = some (.roll b h w) → ahas s.teams e.id = true → ∃ t, exec .rollback s = .next t
        ∧ (s.drained e.id = false ∨ T.shadow = true → t.threads = s.threads ∧ (t.team e.id).halt = some (.roll b (h || e.keep) w)))
    ∧ ((∀ x ∈ f.recs, x.read = true) → ∃ t, exec .pfHiRead s = .next t ∧ (t.faultsOf e.die).recs = f.recs
        ∧ (t.faultsOf e.die).ovf = false ∧ t.hub.rdata = (if f.ovf then BitVec.ofNat 32 (2 ^ 30) else 0))
    ∧ (∀ x, f.recs.find? (fun y => !y.read) = some x → ∃ t, exec .pfHiRead s = .next t
        ∧ (t.faultsOf e.die).valo = BitVec.ofNat 32 x.va ∧ (t.faultsOf e.die).info = BitVec.ofNat 32 (x.ctx * 65536 + x.id)
        ∧ (t.faultsOf e.die).ovf = false
        ∧ (∀ y ∈ (t.faultsOf e.die).recs, y.id = x.id → y.read = true)
        ∧ t.hub.rdata = BitVec.ofNat 32 (2 ^ 31 + (if f.ovf then 2 ^ 30 else 0) + x.kind * 2 ^ 27 + x.tlb * 2 ^ 25 + x.va / 2 ^ 32))
    ∧ ∀ (i : Instr) (fail : Bool), (i, fail) ∈ [(Instr.pfRespReplay, false), (.pfRespFail, true)] → ∃ t, exec i s = .next t
        ∧ ((∀ x ∈ f.recs, x.id ≠ e.id) → t.threads = s.threads ∧ (t.faultsOf e.die).recs = f.recs)
        ∧ ((∃ x ∈ f.recs, x.id = e.id) → (∀ x ∈ (t.faultsOf e.die).recs, x.id ≠ e.id)
            ∧ ∀ r va, (s.thread r).park = .fault e.die e.id va → (t.thread r).park = .none)

/-! ## Steps, encodings and the whole machine -/

/-- One step (notes/assumptions/5.md, 6.md): the event at the head of the agenda runs; with no event, the oldest bundle is tried, and where
its chain decodes and no lane waits, its words execute in order, each by its own meaning in the lanes whose guard holds, after the PCs
have moved past the chain, and the lanes whose guard is poisoned trap after each word; and with no bundle a window passes. The words of
a chain are the decoded ones. -/
def Obligations.StepRunsDecodedInstruction : Prop :=
  (∀ (s : State) (e : Event) (rest : List Event), s.agenda = e :: rest →
      step s = exec e.op { s with agenda := rest, ev := e.arg })
  ∧ (∀ s : State, s.agenda = [] → s.bundles = [] → step s = .next (s.window exec))
  ∧ (∀ (k : RefKind) (T : Allot) (c : Chain) (ws : List ChainWord), checkChain k T c = .ok ws →
      ws.map (fun x => (x.pc, x.word)) = c.words ∧ ∀ x ∈ ws, decode x.word.toNat = .ok x.instr)
  ∧ ∀ (s : State) (b : Bundle) (rest : List Bundle) (l : Lane) (ls : List Lane) (c : Chain) (f : State)
      (ws : List ChainWord), s.agenda = [] → s.bundles = b :: rest →
      let s0 := { s with bundles := rest }
      let lanes := l :: ls
      let refs := lanes.map fun x => x.ref
      let s1 := { s0 with issue := { act := lanes, all := refs, first := s.nextId,
                                     teams := amap s.teams fun _ t => t.seenAt (s.cyc + b.cycle), cycle := b.cycle, pc := b.pc,
                                     here := b.pc } }
      s0.lanesOf b = lanes → s1.fetchChain l.ref b.pc = (.ok c, f) →
      checkChain (refKind l.ref) (f.allotOf lanes) c = .ok ws →
      (∀ x ∈ lanes, clauseWaits x.pre c.hdr = false ∧ flagWaits x.pre c ws = false) →
      let f1 := { f with issue := { f.issue with left := [], all := refs } }
      let start := f1.openChain lanes c ws b.pc
      (∀ t, runWords exec lanes ws start = .next t → (t.comparePcs lanes).issue.left = [] →
        step s = .next ((t.comparePcs lanes).finish lanes))
      ∧ ∀ w t, ws = [w] → exec w.instr (start.openWord lanes w) = .next t → (t.closeWord.comparePcs lanes).issue.left = [] →
        step s = .next ((t.closeWord.comparePcs lanes).finish lanes)

/-- R293 to R299, R310 to R321: words written out from the spec's encodings decode to the instructions they stand for, and three that
the spec reserves are refused by name. -/
def Obligations.WordsDecode : Prop :=
  (∀ (w : Nat) (i : Instr), (w, i) ∈
      [(0x10098443, Instr.iaddi (.n 3) 8 (.reg (.n 3))), (0x0C044045, .iadd (.n 1) (.q 0) (.reg (.n 5))),
       (0x08091A42, .movi 0x1234 (.reg (.n 2))), (0x06800042, .trapi 0x42), (0x0A930244, .sel (.n 3) (.q 0) 2 (.reg (.n 4))),
       (0x14444982, .icmpLtI64 (.n 1) (.n 3) 0 2), (0x18088043, .fadd (.n 1) (.q 0) .dyn (.reg (.n 3))),
       (0x1C04A644, .ffma (.q 0) (.n 2) (.n 3) .dyn (.reg (.n 4))), (0x60013000, .plc 0 false (.n 3)),
       (0x44048800, .binit 1 (.n 1)), (0x64098000, .launch (.n 3)), (0x6CC00001, .trapret 1)] →
    decode w = .ok i)
  ∧ decode 0x0CA09000 = .error .noDestination ∧ decode 0x10098403 = .error .destination
  ∧ decode 0x70000000 = .error .reservedMajor

/-- R296, R310 to R321: the encodings lose nothing and shut nothing out. A well-formed instruction that has an encoding is what its word
decodes to; a word that decodes is, but for its chain bit, the encoding of its instruction, which is well formed; and the
decoder does not read the chain bit. -/
def Obligations.EncodingsRoundTrip : Prop :=
  (∀ (i : Instr) (w : Nat), i.wf = true → encode i = some w → w < 2 ^ 31 ∧ decode w = .ok i)
  ∧ (∀ (w : Nat) (i : Instr), w < 2 ^ 31 → decode w = .ok i → encode i = some w ∧ i.wf = true)
  ∧ ∀ w : Nat, w < 2 ^ 31 → decode (w + 2 ^ 31) = decode w

/-- The byte memories of the package keep their canonical form in every step: equal memories are equal data. -/
def Obligations.MemoryStaysCanonical : Prop :=
  ∀ s t : State, s.memoriesWf → step s = .next t → t.memoriesWf

/-- R17, R31, R42, R53, R85, R105, R139: the machine after reset. Its memories are in canonical form and every stored word reads as zero
without an error; nothing is under way; and the registers hold the values that the register maps state. -/
def Obligations.ResetState : Prop :=
  State.reset.memoriesWf
  ∧ (∀ w, judge (sigOf w) (State.reset.mem.storedData w) (State.reset.mem.storedCheck w) = .clean 0)
  ∧ State.reset.teams = [] ∧ State.reset.threads = [] ∧ State.reset.launches = [] ∧ State.reset.agenda = []
  ∧ State.reset.bundles = [] ∧ State.reset.ops = []
  ∧ State.reset.power.rail = 0 ∧ State.reset.power.cmd = 0 ∧ State.reset.power.fail = false ∧ State.reset.power.emerg = false
  ∧ (State.reset.coreRec 0).state = .nominal ∧ (State.reset.coreRec 0).life = 1000
  ∧ State.reset.mem.span = 3 ∧ State.reset.mem.live = 0xFF ∧ State.reset.mem.smap = 0xFAC688
  ∧ (∀ p, (State.reset.mem.stack p).idle = 64 ∧ (State.reset.mem.stack p).swapth = 2048 ∧ (State.reset.mem.stack p).en = true
      ∧ (State.reset.mem.stack p).interval = 4096)
  ∧ (∀ g, (State.reset.link g).up = false ∧ (State.reset.link g).limit = 8)
  ∧ (State.reset.ctx 0).state = .live ∧ (∀ c, c ≠ 0 → (State.reset.ctx c).state = .free) ∧ State.reset.ctxregs.hostkid = 1
  ∧ ∀ d, (State.reset.sched d).resv = 20 ∧ (State.reset.sched d).preen = true

/-! ## Families stated together -/

/-- R339, R341 and R342: the integer instructions: arithmetic, logic and shifts, and the bit and field instructions. -/
def Obligations.IntegerInstructions : Prop := IntegerArithmetic ∧ LogicAndShifts ∧ BitFields

/-- R156, R343, R345, R355: the predicates, and the compares and predicate instructions that write them. -/
def Obligations.Predicates : Prop := PredicateWrites ∧ PredicateRegisters ∧ FloatCompares

/-- R346, R348 to R354, R356: the arithmetic of f32, f64 and the packed halves. -/
def Obligations.FloatInstructions : Prop := FloatArithmetic ∧ PackedAndSigns

/-- R213, R353, R357 to R365: the narrow formats, the mode registers, and the trap of an invalid format register. The XINFO of that trap
(notes/assumptions/11.md), what FPCTL pushes in a chain that has raised flags (21.md) and the order of stochastic draws (22.md) are the
model's readings. -/
def Obligations.NarrowFormats : Prop := NarrowConversions ∧ ModeRegisters ∧ InvalidFormatTraps

/-- R148, R347, R368 to R370: the instructions of the group's crossbar, and the trap where a group is not whole. -/
def Obligations.CrossbarInstructions : Prop := Shuffles ∧ GroupReductions ∧ CrossbarNeedsWholeGroups

/-- R253, R324 to R326, R330, R333: transfers of control in lanes and in access-processor programs. -/
def Obligations.ControlTransfers : Prop := Transfers ∧ BranchPrediction

/-- R382, R383: the atomics and what each makes of the old word. -/
def Obligations.AtomicInstructions : Prop := AtomicsBegin ∧ AtomicsPerformed ∧ AtomicOperations

/-- R188, R189, R378, R384 to R386, R458: fences, policy words, scopes, cache control and multicast stores. -/
def Obligations.MemoryControl : Prop := FencesAndPolicy ∧ MutualScopes ∧ CacheControl ∧ MulticastStores

/-- R392, R393, R396: arrivals at a barrier, and the threads that a completed phase releases. Which accesses an arrival that releases waits
for is the model's reading (notes/assumptions/44.md), and so is that arrivals wait while a full phase cannot complete (98.md). -/
def Obligations.BarrierPhases : Prop := BarrierArrivals ∧ PhaseReleasesWaiters

/-! ## Where a form completes -/

/-- R332, R273, R301: TRAPI in a bundle of threads that are not in handler mode and whose launches name a handler: each of them enters
its handler, with the cause, the information, the address, the PC and the queue saved, and goes on at slot 1 of the handler's
packet. That the thread's wait count starts again is R131's, that a steward in handler mode enters its handler anew is the model's
choice (notes/assumptions/16.md). -/
def TrapCompletes : Prop :=
  ∀ (imm : BitVec 15) (s : State), s.bundleOk →
    (∀ l ∈ s.issue.act, refKind l.ref = .steward
      ∨ (refKind l.ref = .lane ∧ l.pre.handler = false ∧ (s.launchOf l.ref).rc.trap ≠ 0)) →
    ∃ t, exec (.trapi imm) s = .next t ∧ t.mem = s.mem
      ∧ (∀ r, r ∉ s.bundleRefs → t.thread r = s.thread r)
      ∧ ∀ l ∈ s.issue.act,
          let handler : Dword := if refKind l.ref = .steward then aget 0 s.hub.xvec (refSid l.ref) else (s.launchOf l.ref).rc.trap
          t.thread l.ref =
            { l.pre with xcause := 0x0F, xinfo := imm.setWidth 32, xaddr := 0, xpc := s.issue.pc.signExtend 64, xq := l.pre.q,
                         handler := true, pc := handler.setWidth 57 + 4, entered := true, park := .none,
                         wait := 0, late := s.issue.cycle, redo := none, back := none }

/-- R366, R367: the quad instructions where every member of the active lanes' quads has its value `v`: what each active lane pushes, and
what its destination among n0 to n15 and its floating-point flags become. Only active lanes push: a lane whose guard is false stays
as it was. -/
def QuadsComplete : Prop :=
  ∀ (a b : Src) (d : Dst) (s : State) (v : Lane → Nat → Val), s.bundleOk →
    (∀ l ∈ s.issue.act, ∀ j < 4, s.memberRead s (s.quadRef l.ref j) a = (some (v l j), s)) →
    let gives : Instr → (Lane → Val) → (Lane → Word) → Prop := fun i x fl => ∃ t, exec i s = .next t ∧ t.mem = s.mem ∧
      (∀ l ∈ s.issue.act, t.thread l.ref =
        ({ (s.thread l.ref).pushed (x l) with fpctl := (s.thread l.ref).fpctl ||| fl l }).named d (x l))
      ∧ ∀ l ∈ s.issue.off, t.thread l.ref = s.thread l.ref
    let member : Lane → Nat → Val := fun l j => { v := (v l j).v, psn := (v l j).psn }
    let me : Lane → Nat := fun l => s.visLane l.ref % 4
    let part : Lane → Nat → Part := fun l j => { v := (v l j).v, psn := (v l j).psn }
    let p : RedOp → Lane → Part := fun op l =>
      op.join (s.quadLead l) (op.join (s.quadLead l) (part l 0) (part l 1)) (op.join (s.quadLead l) (part l 2) (part l 3))
    (s.readable [a] d →
      gives (.qswp1 a d) (fun l => member l (me l ^^^ 1)) (fun _ => 0)
      ∧ gives (.qswp2 a d) (fun l => member l (me l ^^^ 2)) (fun _ => 0)
      ∧ gives (.qswp3 a d) (fun l => member l (me l ^^^ 3)) (fun _ => 0)
      ∧ ∀ i op, (i, op) ∈ [(Instr.qredAddI64 a d, RedOp.addI64), (.qredAddF32 a d, .addF32), (.qredMinI64 a d, .minI64),
            (.qredMaxI64 a d, .maxI64), (.qredMinF32 a d, .minF32), (.qredMaxF32 a d, .maxF32), (.qredAnd a d, .and),
            (.qredOr a d, .or)] →
          gives i (fun l => { v := (p op l).v, psn := (p op l).psn }) (fun l => (p op l).fl.word))
    ∧ ∀ sb : Lane → List Val, (∀ l ∈ s.issue.act, readAll s l [a, b] d = .ok (sb l)) →
        gives (.qbc a b d)
          (fun l => { v := (v l ((argAt (sb l) 1).toNat % 4)).v, psn := (v l ((argAt (sb l) 1).toNat % 4)).psn || ((sb l).getD 1 {}).psn })
          (fun _ => 0)

/-- R376, R171, R172: a store by one lane to words that exist, under a policy word that a store may use, with operands that are
unpoisoned and agree between a pair, in a launch without rollback. Its words are writes under way, and its flag is set. -/
def StoresComplete : Prop :=
  ∀ (m : Fin 8) (fs : Bool) (a c : Src) (off : BitVec 4) (i : Instr) (size : Nat) (srcs : List Src),
    (i, size, srcs) ∈ [(Instr.stB8 m fs a c off, 1, [a, c]), (.stB16 m fs a c off, 2, [a, c]), (.stB32 m fs a c off, 4, [a, c]),
      (.stB64 m fs a c off, 8, [a, c]), (.stB128 m fs a c off, 16, [a, c, nextSrc c])] →
    ∀ (s y : State) (l : Lane) (vs : List Val) (ls : List Loc), s.issue.act = [l] →
      policyOk .store (l.pol m) = true → readConsumed s l srcs = .ok vs →
      s.pairDiffersBy (lowData (8 * min size 8)) l srcs = false → s.shadowed l = false →
      let adr := argAt vs 0 + off.signExtend 64 * BitVec.ofNat 64 size
      let data := if size = 16 then (argAt vs 1).toNat + (argAt vs 2).toNat * 2 ^ 64 else (argAt vs 1).toNat % 2 ^ (8 * size)
      s.reach l (l.pol m) adr size true = (.ok ls, y) → ls ≠ [] → y.isRollback l.ref = false → Loc.none ∉ ls →
      ∃ t, exec i s = .next t ∧ t.thread l.ref = flagged (y.thread l.ref) (s.issue.flag fs) ∧ { t.mem with writes := y.mem.writes } = y.mem
        ∧ ∀ j (h : j < ls.length), ∃ id k, aget? t.mem.writes id = some k
          ∧ k.comp = y.compOf l.ref ∧ k.kid = y.ctxOf l.ref ∧ k.w = ls[j].word ∧ k.out = ls[j].out ∧ k.psn = false ∧ k.atom = none
          ∧ k.data = (if size < 4 then BitVec.ofNat 32 (data * 2 ^ (8 * (adr.toNat % 4))) else BitVec.ofNat 32 (data / 2 ^ (32 * j)))
          ∧ k.mask = (if size < 4 then BitVec.ofNat 4 ((2 ^ size - 1) * 2 ^ (adr.toNat % 4)) else 15)
          ∧ t.causes l.ref (event .performAtDie { id := id, die := k.comp, w := k.w })

/-- R107, R109, R111, R114: the operations of a context other than 0, where each has its own effect: a free context is created, a live
one without work is destroyed or restored from its Cast, and a build takes its point, copies its pages and completes. -/
def ContextsComplete : Prop :=
  ∀ (s : State), s.ev.ctx ≠ 0 →
    let c := s.ev.ctx
    let x := s.ctx c
    (x.state = .free → ∃ t k, exec .ctxCreate s = .next t ∧ (t.ctx c).state = .live ∧ (t.ctx c).key = some k ∧ (t.ctx c).result = 0)
    ∧ (x.state = .live → s.hasWork c = false → s.accepted c = false →
        ∃ t, exec .ctxDestroy s = .next t ∧ (t.ctx c).state = .free ∧ (t.ctx c).key = none ∧ (t.ctx c).result = 0)
    ∧ (x.state = .live → x.valid = true → s.ev.keep = false →
        let y := (((s.removeWork c).dropUpper c).dropTranslations c).dropLlc c false
        let z := { y with ev := { y.ev with lost := [] } }
        let again := event .ctxRestore { ctx := c, keep := true }
        z.listHold c again = none → ∀ vs r q, z.readCast c = (some vs, r) → r.restorePages c vs again = (true, q) →
        ∃ t, exec .ctxRestore s = .next t ∧ (t.ctx c).state = .live ∧ (t.ctx c).result = 0 ∧ ∀ p ∈ t.teams, p.2.ctx ≠ c)
    ∧ ∀ b, x.build = some b →
        (b.point = false → (∀ p ∈ s.teams, p.2.ctx ≠ c) → s.writesApplied c = true → ∀ ps y, s.castSet c = (.ok ps, y) →
          y.strayWord (ps.map (·.2)) = none → listPages ps.length + ps.length ≤ x.buflen →
          ∃ t, exec .castPoint s = .next t ∧ (t.ctx c).build = some { b with point := true, pages := ps, all := ps.map (·.1) })
        ∧ (b.point = true → b.pages = [] →
            s.spanHold (x.buffer b.toB * 16384) (4 + 2 * b.all.length) true (s.again .castPageCopy) = none →
            ∃ t, exec .castPageCopy s = .next t ∧ (t.ctx c).build = none ∧ (t.ctx c).built = some b.toB)

/-- R422, R425, R426: CHPRE, CHINV and CHRD in a bundle of one team, under a policy that an engine may use and with operands that are
produced and unpoisoned: CHPRE enters a compile, CHINV makes stale what its scope picks, and CHRD pushes the status and a micro-op of
the entry, when nothing compiles into it. -/
def ChiselComplete : Prop :=
  ∀ (fs : Bool) (hs : Fin 4) (cl : Fin 8) (s : State) (u : Nat) (l : Lane) (rest : List Lane) (rc : List Word),
    s.bundleOk → s.actTeams = [u] → s.issue.act = l :: rest → (∀ k ∈ rest, refTeam k.ref = refTeam l.ref) → refTeam l.ref = u →
    enginePolicyOk l.pre.m[0] = true → l.pre.n[8].psn = false → l.pre.n[8].pend = none →
    let here := s.preTeam l.ref
    let n8 := l.pre.n[8].v
    aget? here.handles (8 * hs.val) = some rc → 3 ≤ (tensorOf rc).etype →
    (classBad (classA (tensorOf rc) cl.val l.pre.f[0]) = none →
      (badCorner ((tensorOf rc).kCorners n8 (here.groupOf l.ref).m 48) = none → coordC0 n8 % 16 = 0 →
        ∃ t o, exec (.chpre fs hs cl) s = .next t ∧ aget? t.ops s.nextId = some (.tile o)
          ∧ o.kind = .chpre ∧ o.ra = rc ∧ o.ca = n8 ∧ o.cl = cl.val ∧ o.lanes = (l :: rest).map (·.ref)
          ∧ t.causes l.ref (event .chiselCompileEnd { id := s.nextId }) ∧ t.mem = s.mem)
      ∧ ∀ e, e = (s.core here.core).chEntry
            { ctx := here.ctx, rc := rc, coord := n8, fmt := idFormat (tensorOf rc).etype cl.val l.pre.f[0], cl := cl.val / 2,
              m := (here.groupOf l.ref).m } →
          e.bind s.compiling = none → (∀ k ∈ l :: rest, k.pre.n[9].psn = false ∧ k.pre.n[9].pend = none) →
          ∃ t, exec (.chrd fs hs cl) s = .next t ∧ t.mem = s.mem
            ∧ ∀ k ∈ l :: rest, t.thread k.ref =
                (s.thread k.ref).pushed { v := chStatus e ++ chOp e (k.pre.n[9].v.toNat % 2 ^ 11) })
    ∧ ∀ imm : BitVec 8, imm ∈ [0, 1, 2] → ∃ t, exec (.chinv fs hs imm) s = .next t ∧ t.mem = s.mem ∧ t.threads = s.threads
        ∧ ∀ c k, aget? s.cores c = some k → ∃ k', aget? t.cores c = some k' ∧ ∀ e ∈ k.chisel,
            e.ctx = here.ctx → dieOfCore c = dieOfCore here.core → e.busy = none →
            (imm = 2 ∨ (e.rc = rc ∧ (imm = 1 ∨ (e.coord = n8 ∧ e.m = (here.groupOf l.ref).m
              ∧ e.fmt = idFormat (tensorOf rc).etype (2 * e.cl) l.pre.f[0])))) →
            { e with stale := true } ∈ k'.chisel

/-- Forms at their own effect, on conditions of the state and the operands alone: TRAPI enters the handler, the quad instructions push
and write, a store's words are under way, CHPRE, CHINV and CHRD act, and the operations of a context change it. -/
def Obligations.FormsComplete : Prop := TrapCompletes ∧ QuadsComplete ∧ StoresComplete ∧ ChiselComplete ∧ ContextsComplete
end

