-- ==== Sys2Proof/Laws/Assoc.lean ====
section
/-!
SUPPORT. Laws/Assoc.lean: reading a map or a byte memory after a write, and that every operation keeps the canonical form.
-/

namespace Sys2Proof.Machine

/-! ## Reading after writing -/

@[simp] theorem aget?_nil {α : Type} (k : Nat) : aget? ([] : AMap α) k = none := rfl

@[simp] theorem aget_nil {α : Type} (d : α) (k : Nat) : aget d ([] : AMap α) k = d := rfl

@[simp] theorem aget?_aset_same {α : Type} (m : AMap α) (k : Nat) (v : α) : aget? (aset m k v) k = some v := by
  induction m with
  | nil => simp [aset, aget?]
  | cons p m ih =>
    obtain ⟨j, u⟩ := p
    simp only [aset]
    split
    · simp [aget?]
    · split
      · simp [aget?]
      · rename_i h1 h2
        simp [aget?, Ne.symm h2, ih]

theorem aget?_aset_ne {α : Type} (m : AMap α) {k i : Nat} (v : α) (h : i ≠ k) : aget? (aset m k v) i = aget? m i := by
  induction m with
  | nil => simp [aset, aget?, Ne.symm h]
  | cons p m ih =>
    obtain ⟨j, u⟩ := p
    simp only [aset]
    split
    · simp [aget?, Ne.symm h]
    · split
      · rename_i h1 h2
        subst h2
        simp [aget?, Ne.symm h]
      · simp only [aget?]; split <;> simp_all

@[simp] theorem aget_aset_same {α : Type} (d : α) (m : AMap α) (k : Nat) (v : α) : aget d (aset m k v) k = v := by
  simp [aget]

theorem aget_aset_ne {α : Type} (d : α) (m : AMap α) {k i : Nat} (v : α) (h : i ≠ k) :
    aget d (aset m k v) i = aget d m i := by
  simp [aget, aget?_aset_ne m v h]

@[simp] theorem aget_amod_same {α : Type} (d : α) (m : AMap α) (k : Nat) (f : α → α) :
    aget d (amod d m k f) k = f (aget d m k) := by
  simp [amod]

theorem aget_amod_ne {α : Type} (d : α) (m : AMap α) {k i : Nat} (f : α → α) (h : i ≠ k) :
    aget d (amod d m k f) i = aget d m i := by
  simp [amod, aget_aset_ne d m _ h]

theorem aget?_adel_ne {α : Type} (m : AMap α) {k i : Nat} (h : i ≠ k) : aget? (adel m k) i = aget? m i := by
  induction m with
  | nil => rfl
  | cons p m ih =>
    obtain ⟨j, u⟩ := p
    simp only [adel]
    split
    · rename_i hj
      subst hj
      simp [aget?, Ne.symm h, ih]
    · simp only [aget?]; split <;> simp_all

/-! ## The canonical form of a map -/

theorem awf_cons {α : Type} (j : Nat) (v : α) (m : AMap α) :
    awf ((j, v) :: m) = true ↔ (∀ p ∈ m, j < p.1) ∧ awf m = true := by
  induction m generalizing j v with
  | nil => simp [awf]
  | cons p m ih =>
    obtain ⟨k, u⟩ := p
    have h := ih k u
    simp only [awf, Bool.and_eq_true, decide_eq_true_eq]
    constructor
    · rintro ⟨hjk, hm⟩
      refine ⟨?_, hm⟩
      intro q hq
      rcases List.mem_cons.1 hq with rfl | hq
      · exact hjk
      · exact Nat.lt_trans hjk ((h.1 hm).1 q hq)
    · rintro ⟨hall, hm⟩
      exact ⟨hall (k, u) (by simp), hm⟩

theorem mem_aset {α : Type} {m : AMap α} {k : Nat} {v : α} {p : Nat × α} (h : p ∈ aset m k v) : p = (k, v) ∨ p ∈ m := by
  induction m with
  | nil => simpa [aset] using h
  | cons q m ih =>
    obtain ⟨j, u⟩ := q
    simp only [aset] at h
    split at h
    · simpa using h
    · split at h
      · rcases List.mem_cons.1 h with h | h
        · exact .inl h
        · exact .inr (List.mem_cons_of_mem _ h)
      · rcases List.mem_cons.1 h with h | h
        · exact .inr (h ▸ List.mem_cons_self)
        · exact (ih h).imp id (List.mem_cons_of_mem _)

theorem awf_aset {α : Type} {m : AMap α} (k : Nat) (v : α) (h : awf m = true) : awf (aset m k v) = true := by
  induction m with
  | nil => rfl
  | cons p m ih =>
    obtain ⟨j, u⟩ := p
    obtain ⟨hj, hm⟩ := (awf_cons j u m).1 h
    simp only [aset]
    split
    · rename_i hk
      refine (awf_cons _ _ _).2 ⟨?_, h⟩
      intro q hq
      rcases List.mem_cons.1 hq with rfl | hq
      · exact hk
      · exact Nat.lt_trans hk (hj q hq)
    · split
      · rename_i hk
        subst hk
        exact (awf_cons _ _ _).2 ⟨hj, hm⟩
      · refine (awf_cons _ _ _).2 ⟨?_, ih hm⟩
        intro q hq
        rcases mem_aset hq with rfl | hq
        · simp only; omega
        · exact hj q hq

theorem mem_adel {α : Type} {m : AMap α} {k : Nat} {p : Nat × α} (h : p ∈ adel m k) : p ∈ m := by
  induction m with
  | nil => exact h
  | cons q m ih =>
    obtain ⟨j, u⟩ := q
    simp only [adel] at h
    split at h
    · exact List.mem_cons_of_mem _ (ih h)
    · rcases List.mem_cons.1 h with h | h
      · exact h ▸ List.mem_cons_self
      · exact List.mem_cons_of_mem _ (ih h)

theorem awf_adel {α : Type} {m : AMap α} (k : Nat) (h : awf m = true) : awf (adel m k) = true := by
  induction m with
  | nil => rfl
  | cons p m ih =>
    obtain ⟨j, u⟩ := p
    obtain ⟨hj, hm⟩ := (awf_cons j u m).1 h
    simp only [adel]
    split
    · exact ih hm
    · exact (awf_cons _ _ _).2 ⟨fun q hq => hj q (mem_adel hq), ih hm⟩

theorem awf_amod {α : Type} (d : α) {m : AMap α} (k : Nat) (f : α → α) (h : awf m = true) : awf (amod d m k f) = true :=
  awf_aset k _ h

@[simp] theorem aget?_adel_same {α : Type} (m : AMap α) (k : Nat) : aget? (adel m k) k = none := by
  induction m with
  | nil => rfl
  | cons p m ih =>
    obtain ⟨j, u⟩ := p
    simp only [adel]
    split
    · exact ih
    · rename_i hk
      simp [aget?, hk, ih]

@[simp] theorem aget_adel_same {α : Type} (d : α) (m : AMap α) (k : Nat) : aget d (adel m k) k = d := by simp [aget]

theorem aget_adel_ne {α : Type} (d : α) (m : AMap α) {k i : Nat} (h : i ≠ k) : aget d (adel m k) i = aget d m i := by
  simp [aget, aget?_adel_ne m h]

/-- A test of keys keeps the value at every key that passes. -/
theorem aget?_filter_key {α : Type} (f : Nat → Bool) (m : AMap α) (k : Nat) :
    aget? (m.filter fun p => f p.1) k = if f k then aget? m k else none := by
  induction m with
  | nil => simp
  | cons p m ih =>
    obtain ⟨j, u⟩ := p
    by_cases hf : f j <;> by_cases hk : j = k <;> simp_all [aget?]

/-- A map of values acts at each key. -/
theorem aget?_amap {α β : Type} (f : Nat → α → β) (m : AMap α) (k : Nat) : aget? (amap m f) k = (aget? m k).map (f k) := by
  induction m with
  | nil => rfl
  | cons p m ih =>
    obtain ⟨j, u⟩ := p
    simp only [amap, List.map_cons, aget?] at ih ⊢
    split
    · rename_i h; subst h; rfl
    · exact ih

theorem awf_filter {α : Type} (f : Nat × α → Bool) {m : AMap α} (h : awf m = true) : awf (m.filter f) = true := by
  induction m with
  | nil => rfl
  | cons p m ih =>
    obtain ⟨j, u⟩ := p
    obtain ⟨hj, hm⟩ := (awf_cons j u m).1 h
    simp only [List.filter_cons]
    split
    · exact (awf_cons _ _ _).2 ⟨fun q hq => hj q ((List.mem_filter.1 hq).1), ih hm⟩
    · exact ih hm

/-! ## Byte memories -/

theorem Memory.filter_wf (f : Host.Cell → Bool) {m : Memory} (h : Memory.wf m = true) : Memory.wf (m.filter f) = true := by
  simp only [Memory.wf, Memory.nonDefault, Bool.and_eq_true, List.all_eq_true] at h ⊢
  exact ⟨awf_filter f h.1, fun c hc => h.2 c ((List.mem_filter.1 hc).1)⟩

theorem Memory.wf_iff (m : Memory) : Memory.wf m = true ↔ awf m = true ∧ ∀ c ∈ m, c.2 ≠ Memory.unlisted := by
  simp [Memory.wf, Memory.nonDefault, bne_iff_ne]

theorem Memory.write_wf {m : Memory} (a : Nat) (b : Byte) (h : Memory.wf m = true) : Memory.wf (Memory.write m a b) = true := by
  obtain ⟨hw, hn⟩ := (Memory.wf_iff m).1 h
  rw [Memory.wf_iff]
  unfold Memory.write
  split
  · exact ⟨awf_adel a hw, fun c hc => hn c (mem_adel hc)⟩
  · rename_i hb
    refine ⟨awf_aset a b hw, fun c hc => ?_⟩
    rcases mem_aset hc with rfl | hc
    · exact hb
    · exact hn c hc

theorem Memory.writeAll_wf {m : Memory} (a : Nat) (bs : List Byte) (h : Memory.wf m = true) :
    Memory.wf (Memory.writeAll m a bs) = true := by
  induction bs generalizing m a with
  | nil => exact h
  | cons b bs ih => exact ih (a + 1) (Memory.write_wf a b h)

@[simp] theorem Memory.read_write_same (m : Memory) (a : Nat) (b : Byte) : Memory.read (Memory.write m a b) a = b := by
  unfold Memory.write Memory.read
  split
  · rename_i hb
    simp [aget, hb]
  · simp

theorem Memory.read_write_ne (m : Memory) {a i : Nat} (b : Byte) (h : i ≠ a) :
    Memory.read (Memory.write m a b) i = Memory.read m i := by
  unfold Memory.write Memory.read
  split
  · simp [aget, aget?_adel_ne m h]
  · simp [aget_aset_ne _ m b h]

theorem Memory.read_writeAll_out (m : Memory) (a i : Nat) (bs : List Byte) (h : i < a ∨ a + bs.length ≤ i) :
    Memory.read (Memory.writeAll m a bs) i = Memory.read m i := by
  induction bs generalizing m a with
  | nil => rfl
  | cons b bs ih =>
    simp only [List.length_cons] at h
    simp only [Memory.writeAll]
    rw [ih (Memory.write m a b) (a + 1) (by omega), Memory.read_write_ne m b (by omega)]

theorem Memory.read_writeAll_in (m : Memory) (a : Nat) (bs : List Byte) (i : Nat) (h : i < bs.length) : Memory.read (Memory.writeAll m a bs) (a + i) = bs[i] := by
  induction bs generalizing m a i with
  | nil => simp at h
  | cons b bs ih =>
    simp only [Memory.writeAll]
    cases i with
    | zero =>
      rw [Memory.read_writeAll_out _ _ _ _ (by omega)]
      simp
    | succ n =>
      have := ih (Memory.write m a b) (a + 1) n (by simpa using h)
      simpa [Nat.add_assoc, Nat.add_comm 1 n] using this

theorem Memory.readAll_writeAll (m : Memory) (a : Nat) (bs : List Byte) :
    Memory.readAll (Memory.writeAll m a bs) a bs.length = bs := by
  induction bs generalizing m a with
  | nil => rfl
  | cons b bs ih =>
    simp only [Memory.writeAll, List.length_cons, Memory.readAll]
    rw [ih (Memory.write m a b) (a + 1), Memory.read_writeAll_out _ _ _ _ (by omega), Memory.read_write_same]

end Sys2Proof.Machine
end

