-- ==== Sys2Proof/Laws/State.lean ====
section
/-!
SUPPORT. Laws/State.lean: for each update of the state, what every field of it is afterwards, and what the accessors read.
-/

namespace Sys2Proof.Machine

/-! ## setThread -/

@[simp] theorem State.setThread_cyc (s : State) (r : Nat) (t : Thread) : (s.setThread r t).cyc = s.cyc := rfl
@[simp] theorem State.setThread_teams (s : State) (r : Nat) (t : Thread) : (s.setThread r t).teams = s.teams := rfl
@[simp] theorem State.setThread_launches (s : State) (r : Nat) (t : Thread) : (s.setThread r t).launches = s.launches := rfl
@[simp] theorem State.setThread_scheds (s : State) (r : Nat) (t : Thread) : (s.setThread r t).scheds = s.scheds := rfl
@[simp] theorem State.setThread_cores (s : State) (r : Nat) (t : Thread) : (s.setThread r t).cores = s.cores := rfl
@[simp] theorem State.setThread_tlbs (s : State) (r : Nat) (t : Thread) : (s.setThread r t).tlbs = s.tlbs := rfl
@[simp] theorem State.setThread_faults (s : State) (r : Nat) (t : Thread) : (s.setThread r t).faults = s.faults := rfl
@[simp] theorem State.setThread_reqs (s : State) (r : Nat) (t : Thread) : (s.setThread r t).reqs = s.reqs := rfl
@[simp] theorem State.setThread_ops (s : State) (r : Nat) (t : Thread) : (s.setThread r t).ops = s.ops := rfl
@[simp] theorem State.setThread_mem (s : State) (r : Nat) (t : Thread) : (s.setThread r t).mem = s.mem := rfl
@[simp] theorem State.setThread_power (s : State) (r : Nat) (t : Thread) : (s.setThread r t).power = s.power := rfl
@[simp] theorem State.setThread_wear (s : State) (r : Nat) (t : Thread) : (s.setThread r t).wear = s.wear := rfl
@[simp] theorem State.setThread_arm (s : State) (r : Nat) (t : Thread) : (s.setThread r t).arm = s.arm := rfl
@[simp] theorem State.setThread_hub (s : State) (r : Nat) (t : Thread) : (s.setThread r t).hub = s.hub := rfl
@[simp] theorem State.setThread_ctxs (s : State) (r : Nat) (t : Thread) : (s.setThread r t).ctxs = s.ctxs := rfl
@[simp] theorem State.setThread_ctxregs (s : State) (r : Nat) (t : Thread) : (s.setThread r t).ctxregs = s.ctxregs := rfl
@[simp] theorem State.setThread_issue (s : State) (r : Nat) (t : Thread) : (s.setThread r t).issue = s.issue := rfl
@[simp] theorem State.setThread_bundles (s : State) (r : Nat) (t : Thread) : (s.setThread r t).bundles = s.bundles := rfl
@[simp] theorem State.setThread_agenda (s : State) (r : Nat) (t : Thread) : (s.setThread r t).agenda = s.agenda := rfl
@[simp] theorem State.setThread_after (s : State) (r : Nat) (t : Thread) : (s.setThread r t).after = s.after := rfl
@[simp] theorem State.setThread_ev (s : State) (r : Nat) (t : Thread) : (s.setThread r t).ev = s.ev := rfl
@[simp] theorem State.setThread_free (s : State) (r : Nat) (t : Thread) : (s.setThread r t).free = s.free := rfl
@[simp] theorem State.setThread_nextId (s : State) (r : Nat) (t : Thread) : (s.setThread r t).nextId = s.nextId := rfl
@[simp] theorem State.setThread_threads (s : State) (r : Nat) (t : Thread) : (s.setThread r t).threads = aset s.threads r t := rfl

/-! ## modThread -/

@[simp] theorem State.modThread_cyc (s : State) (r : Nat) (f : Thread → Thread) : (s.modThread r f).cyc = s.cyc := rfl
@[simp] theorem State.modThread_teams (s : State) (r : Nat) (f : Thread → Thread) : (s.modThread r f).teams = s.teams := rfl
@[simp] theorem State.modThread_launches (s : State) (r : Nat) (f : Thread → Thread) : (s.modThread r f).launches = s.launches := rfl
@[simp] theorem State.modThread_scheds (s : State) (r : Nat) (f : Thread → Thread) : (s.modThread r f).scheds = s.scheds := rfl
@[simp] theorem State.modThread_cores (s : State) (r : Nat) (f : Thread → Thread) : (s.modThread r f).cores = s.cores := rfl
@[simp] theorem State.modThread_tlbs (s : State) (r : Nat) (f : Thread → Thread) : (s.modThread r f).tlbs = s.tlbs := rfl
@[simp] theorem State.modThread_faults (s : State) (r : Nat) (f : Thread → Thread) : (s.modThread r f).faults = s.faults := rfl
@[simp] theorem State.modThread_reqs (s : State) (r : Nat) (f : Thread → Thread) : (s.modThread r f).reqs = s.reqs := rfl
@[simp] theorem State.modThread_ops (s : State) (r : Nat) (f : Thread → Thread) : (s.modThread r f).ops = s.ops := rfl
@[simp] theorem State.modThread_mem (s : State) (r : Nat) (f : Thread → Thread) : (s.modThread r f).mem = s.mem := rfl
@[simp] theorem State.modThread_power (s : State) (r : Nat) (f : Thread → Thread) : (s.modThread r f).power = s.power := rfl
@[simp] theorem State.modThread_wear (s : State) (r : Nat) (f : Thread → Thread) : (s.modThread r f).wear = s.wear := rfl
@[simp] theorem State.modThread_arm (s : State) (r : Nat) (f : Thread → Thread) : (s.modThread r f).arm = s.arm := rfl
@[simp] theorem State.modThread_hub (s : State) (r : Nat) (f : Thread → Thread) : (s.modThread r f).hub = s.hub := rfl
@[simp] theorem State.modThread_ctxs (s : State) (r : Nat) (f : Thread → Thread) : (s.modThread r f).ctxs = s.ctxs := rfl
@[simp] theorem State.modThread_ctxregs (s : State) (r : Nat) (f : Thread → Thread) : (s.modThread r f).ctxregs = s.ctxregs := rfl
@[simp] theorem State.modThread_issue (s : State) (r : Nat) (f : Thread → Thread) : (s.modThread r f).issue = s.issue := rfl
@[simp] theorem State.modThread_bundles (s : State) (r : Nat) (f : Thread → Thread) : (s.modThread r f).bundles = s.bundles := rfl
@[simp] theorem State.modThread_agenda (s : State) (r : Nat) (f : Thread → Thread) : (s.modThread r f).agenda = s.agenda := rfl
@[simp] theorem State.modThread_after (s : State) (r : Nat) (f : Thread → Thread) : (s.modThread r f).after = s.after := rfl
@[simp] theorem State.modThread_ev (s : State) (r : Nat) (f : Thread → Thread) : (s.modThread r f).ev = s.ev := rfl
@[simp] theorem State.modThread_free (s : State) (r : Nat) (f : Thread → Thread) : (s.modThread r f).free = s.free := rfl
@[simp] theorem State.modThread_nextId (s : State) (r : Nat) (f : Thread → Thread) : (s.modThread r f).nextId = s.nextId := rfl

/-! ## modTeam -/

@[simp] theorem State.modTeam_cyc (s : State) (u : Nat) (f : Team → Team) : (s.modTeam u f).cyc = s.cyc := by unfold State.modTeam; split <;> rfl
@[simp] theorem State.modTeam_threads (s : State) (u : Nat) (f : Team → Team) : (s.modTeam u f).threads = s.threads := by unfold State.modTeam; split <;> rfl
@[simp] theorem State.modTeam_launches (s : State) (u : Nat) (f : Team → Team) : (s.modTeam u f).launches = s.launches := by unfold State.modTeam; split <;> rfl
@[simp] theorem State.modTeam_scheds (s : State) (u : Nat) (f : Team → Team) : (s.modTeam u f).scheds = s.scheds := by unfold State.modTeam; split <;> rfl
@[simp] theorem State.modTeam_cores (s : State) (u : Nat) (f : Team → Team) : (s.modTeam u f).cores = s.cores := by unfold State.modTeam; split <;> rfl
@[simp] theorem State.modTeam_tlbs (s : State) (u : Nat) (f : Team → Team) : (s.modTeam u f).tlbs = s.tlbs := by unfold State.modTeam; split <;> rfl
@[simp] theorem State.modTeam_faults (s : State) (u : Nat) (f : Team → Team) : (s.modTeam u f).faults = s.faults := by unfold State.modTeam; split <;> rfl
@[simp] theorem State.modTeam_reqs (s : State) (u : Nat) (f : Team → Team) : (s.modTeam u f).reqs = s.reqs := by unfold State.modTeam; split <;> rfl
@[simp] theorem State.modTeam_ops (s : State) (u : Nat) (f : Team → Team) : (s.modTeam u f).ops = s.ops := by unfold State.modTeam; split <;> rfl
@[simp] theorem State.modTeam_mem (s : State) (u : Nat) (f : Team → Team) : (s.modTeam u f).mem = s.mem := by unfold State.modTeam; split <;> rfl
@[simp] theorem State.modTeam_power (s : State) (u : Nat) (f : Team → Team) : (s.modTeam u f).power = s.power := by unfold State.modTeam; split <;> rfl
@[simp] theorem State.modTeam_wear (s : State) (u : Nat) (f : Team → Team) : (s.modTeam u f).wear = s.wear := by unfold State.modTeam; split <;> rfl
@[simp] theorem State.modTeam_arm (s : State) (u : Nat) (f : Team → Team) : (s.modTeam u f).arm = s.arm := by unfold State.modTeam; split <;> rfl
@[simp] theorem State.modTeam_hub (s : State) (u : Nat) (f : Team → Team) : (s.modTeam u f).hub = s.hub := by unfold State.modTeam; split <;> rfl
@[simp] theorem State.modTeam_ctxs (s : State) (u : Nat) (f : Team → Team) : (s.modTeam u f).ctxs = s.ctxs := by unfold State.modTeam; split <;> rfl
@[simp] theorem State.modTeam_ctxregs (s : State) (u : Nat) (f : Team → Team) : (s.modTeam u f).ctxregs = s.ctxregs := by unfold State.modTeam; split <;> rfl
@[simp] theorem State.modTeam_issue (s : State) (u : Nat) (f : Team → Team) : (s.modTeam u f).issue = s.issue := by unfold State.modTeam; split <;> rfl
@[simp] theorem State.modTeam_bundles (s : State) (u : Nat) (f : Team → Team) : (s.modTeam u f).bundles = s.bundles := by unfold State.modTeam; split <;> rfl
@[simp] theorem State.modTeam_agenda (s : State) (u : Nat) (f : Team → Team) : (s.modTeam u f).agenda = s.agenda := by unfold State.modTeam; split <;> rfl
@[simp] theorem State.modTeam_after (s : State) (u : Nat) (f : Team → Team) : (s.modTeam u f).after = s.after := by unfold State.modTeam; split <;> rfl
@[simp] theorem State.modTeam_ev (s : State) (u : Nat) (f : Team → Team) : (s.modTeam u f).ev = s.ev := by unfold State.modTeam; split <;> rfl
@[simp] theorem State.modTeam_free (s : State) (u : Nat) (f : Team → Team) : (s.modTeam u f).free = s.free := by unfold State.modTeam; split <;> rfl
@[simp] theorem State.modTeam_nextId (s : State) (u : Nat) (f : Team → Team) : (s.modTeam u f).nextId = s.nextId := by unfold State.modTeam; split <;> rfl

/-! ## modLaunch -/

@[simp] theorem State.modLaunch_cyc (s : State) (u : Nat) (f : Launch → Launch) : (s.modLaunch u f).cyc = s.cyc := by unfold State.modLaunch; split <;> rfl
@[simp] theorem State.modLaunch_threads (s : State) (u : Nat) (f : Launch → Launch) : (s.modLaunch u f).threads = s.threads := by unfold State.modLaunch; split <;> rfl
@[simp] theorem State.modLaunch_teams (s : State) (u : Nat) (f : Launch → Launch) : (s.modLaunch u f).teams = s.teams := by unfold State.modLaunch; split <;> rfl
@[simp] theorem State.modLaunch_scheds (s : State) (u : Nat) (f : Launch → Launch) : (s.modLaunch u f).scheds = s.scheds := by unfold State.modLaunch; split <;> rfl
@[simp] theorem State.modLaunch_cores (s : State) (u : Nat) (f : Launch → Launch) : (s.modLaunch u f).cores = s.cores := by unfold State.modLaunch; split <;> rfl
@[simp] theorem State.modLaunch_tlbs (s : State) (u : Nat) (f : Launch → Launch) : (s.modLaunch u f).tlbs = s.tlbs := by unfold State.modLaunch; split <;> rfl
@[simp] theorem State.modLaunch_faults (s : State) (u : Nat) (f : Launch → Launch) : (s.modLaunch u f).faults = s.faults := by unfold State.modLaunch; split <;> rfl
@[simp] theorem State.modLaunch_reqs (s : State) (u : Nat) (f : Launch → Launch) : (s.modLaunch u f).reqs = s.reqs := by unfold State.modLaunch; split <;> rfl
@[simp] theorem State.modLaunch_ops (s : State) (u : Nat) (f : Launch → Launch) : (s.modLaunch u f).ops = s.ops := by unfold State.modLaunch; split <;> rfl
@[simp] theorem State.modLaunch_mem (s : State) (u : Nat) (f : Launch → Launch) : (s.modLaunch u f).mem = s.mem := by unfold State.modLaunch; split <;> rfl
@[simp] theorem State.modLaunch_power (s : State) (u : Nat) (f : Launch → Launch) : (s.modLaunch u f).power = s.power := by unfold State.modLaunch; split <;> rfl
@[simp] theorem State.modLaunch_wear (s : State) (u : Nat) (f : Launch → Launch) : (s.modLaunch u f).wear = s.wear := by unfold State.modLaunch; split <;> rfl
@[simp] theorem State.modLaunch_arm (s : State) (u : Nat) (f : Launch → Launch) : (s.modLaunch u f).arm = s.arm := by unfold State.modLaunch; split <;> rfl
@[simp] theorem State.modLaunch_hub (s : State) (u : Nat) (f : Launch → Launch) : (s.modLaunch u f).hub = s.hub := by unfold State.modLaunch; split <;> rfl
@[simp] theorem State.modLaunch_ctxs (s : State) (u : Nat) (f : Launch → Launch) : (s.modLaunch u f).ctxs = s.ctxs := by unfold State.modLaunch; split <;> rfl
@[simp] theorem State.modLaunch_ctxregs (s : State) (u : Nat) (f : Launch → Launch) : (s.modLaunch u f).ctxregs = s.ctxregs := by unfold State.modLaunch; split <;> rfl
@[simp] theorem State.modLaunch_issue (s : State) (u : Nat) (f : Launch → Launch) : (s.modLaunch u f).issue = s.issue := by unfold State.modLaunch; split <;> rfl
@[simp] theorem State.modLaunch_bundles (s : State) (u : Nat) (f : Launch → Launch) : (s.modLaunch u f).bundles = s.bundles := by unfold State.modLaunch; split <;> rfl
@[simp] theorem State.modLaunch_agenda (s : State) (u : Nat) (f : Launch → Launch) : (s.modLaunch u f).agenda = s.agenda := by unfold State.modLaunch; split <;> rfl
@[simp] theorem State.modLaunch_after (s : State) (u : Nat) (f : Launch → Launch) : (s.modLaunch u f).after = s.after := by unfold State.modLaunch; split <;> rfl
@[simp] theorem State.modLaunch_ev (s : State) (u : Nat) (f : Launch → Launch) : (s.modLaunch u f).ev = s.ev := by unfold State.modLaunch; split <;> rfl
@[simp] theorem State.modLaunch_free (s : State) (u : Nat) (f : Launch → Launch) : (s.modLaunch u f).free = s.free := by unfold State.modLaunch; split <;> rfl
@[simp] theorem State.modLaunch_nextId (s : State) (u : Nat) (f : Launch → Launch) : (s.modLaunch u f).nextId = s.nextId := by unfold State.modLaunch; split <;> rfl

/-! ## modCtx -/

@[simp] theorem State.modCtx_cyc (s : State) (c : Nat) (f : Ctx → Ctx) : (s.modCtx c f).cyc = s.cyc := rfl
@[simp] theorem State.modCtx_threads (s : State) (c : Nat) (f : Ctx → Ctx) : (s.modCtx c f).threads = s.threads := rfl
@[simp] theorem State.modCtx_teams (s : State) (c : Nat) (f : Ctx → Ctx) : (s.modCtx c f).teams = s.teams := rfl
@[simp] theorem State.modCtx_launches (s : State) (c : Nat) (f : Ctx → Ctx) : (s.modCtx c f).launches = s.launches := rfl
@[simp] theorem State.modCtx_scheds (s : State) (c : Nat) (f : Ctx → Ctx) : (s.modCtx c f).scheds = s.scheds := rfl
@[simp] theorem State.modCtx_cores (s : State) (c : Nat) (f : Ctx → Ctx) : (s.modCtx c f).cores = s.cores := rfl
@[simp] theorem State.modCtx_tlbs (s : State) (c : Nat) (f : Ctx → Ctx) : (s.modCtx c f).tlbs = s.tlbs := rfl
@[simp] theorem State.modCtx_faults (s : State) (c : Nat) (f : Ctx → Ctx) : (s.modCtx c f).faults = s.faults := rfl
@[simp] theorem State.modCtx_reqs (s : State) (c : Nat) (f : Ctx → Ctx) : (s.modCtx c f).reqs = s.reqs := rfl
@[simp] theorem State.modCtx_ops (s : State) (c : Nat) (f : Ctx → Ctx) : (s.modCtx c f).ops = s.ops := rfl
@[simp] theorem State.modCtx_mem (s : State) (c : Nat) (f : Ctx → Ctx) : (s.modCtx c f).mem = s.mem := rfl
@[simp] theorem State.modCtx_power (s : State) (c : Nat) (f : Ctx → Ctx) : (s.modCtx c f).power = s.power := rfl
@[simp] theorem State.modCtx_wear (s : State) (c : Nat) (f : Ctx → Ctx) : (s.modCtx c f).wear = s.wear := rfl
@[simp] theorem State.modCtx_arm (s : State) (c : Nat) (f : Ctx → Ctx) : (s.modCtx c f).arm = s.arm := rfl
@[simp] theorem State.modCtx_hub (s : State) (c : Nat) (f : Ctx → Ctx) : (s.modCtx c f).hub = s.hub := rfl
@[simp] theorem State.modCtx_ctxregs (s : State) (c : Nat) (f : Ctx → Ctx) : (s.modCtx c f).ctxregs = s.ctxregs := rfl
@[simp] theorem State.modCtx_issue (s : State) (c : Nat) (f : Ctx → Ctx) : (s.modCtx c f).issue = s.issue := rfl
@[simp] theorem State.modCtx_bundles (s : State) (c : Nat) (f : Ctx → Ctx) : (s.modCtx c f).bundles = s.bundles := rfl
@[simp] theorem State.modCtx_agenda (s : State) (c : Nat) (f : Ctx → Ctx) : (s.modCtx c f).agenda = s.agenda := rfl
@[simp] theorem State.modCtx_after (s : State) (c : Nat) (f : Ctx → Ctx) : (s.modCtx c f).after = s.after := rfl
@[simp] theorem State.modCtx_ev (s : State) (c : Nat) (f : Ctx → Ctx) : (s.modCtx c f).ev = s.ev := rfl
@[simp] theorem State.modCtx_free (s : State) (c : Nat) (f : Ctx → Ctx) : (s.modCtx c f).free = s.free := rfl
@[simp] theorem State.modCtx_nextId (s : State) (c : Nat) (f : Ctx → Ctx) : (s.modCtx c f).nextId = s.nextId := rfl
@[simp] theorem State.modCtx_ctxs (s : State) (c : Nat) (f : Ctx → Ctx) : (s.modCtx c f).ctxs = amod {} s.ctxs c f := rfl

/-! ## modCore -/

@[simp] theorem State.modCore_cyc (s : State) (c : Nat) (f : Core → Core) : (s.modCore c f).cyc = s.cyc := rfl
@[simp] theorem State.modCore_threads (s : State) (c : Nat) (f : Core → Core) : (s.modCore c f).threads = s.threads := rfl
@[simp] theorem State.modCore_teams (s : State) (c : Nat) (f : Core → Core) : (s.modCore c f).teams = s.teams := rfl
@[simp] theorem State.modCore_launches (s : State) (c : Nat) (f : Core → Core) : (s.modCore c f).launches = s.launches := rfl
@[simp] theorem State.modCore_scheds (s : State) (c : Nat) (f : Core → Core) : (s.modCore c f).scheds = s.scheds := rfl
@[simp] theorem State.modCore_tlbs (s : State) (c : Nat) (f : Core → Core) : (s.modCore c f).tlbs = s.tlbs := rfl
@[simp] theorem State.modCore_faults (s : State) (c : Nat) (f : Core → Core) : (s.modCore c f).faults = s.faults := rfl
@[simp] theorem State.modCore_reqs (s : State) (c : Nat) (f : Core → Core) : (s.modCore c f).reqs = s.reqs := rfl
@[simp] theorem State.modCore_ops (s : State) (c : Nat) (f : Core → Core) : (s.modCore c f).ops = s.ops := rfl
@[simp] theorem State.modCore_mem (s : State) (c : Nat) (f : Core → Core) : (s.modCore c f).mem = s.mem := rfl
@[simp] theorem State.modCore_power (s : State) (c : Nat) (f : Core → Core) : (s.modCore c f).power = s.power := rfl
@[simp] theorem State.modCore_wear (s : State) (c : Nat) (f : Core → Core) : (s.modCore c f).wear = s.wear := rfl
@[simp] theorem State.modCore_arm (s : State) (c : Nat) (f : Core → Core) : (s.modCore c f).arm = s.arm := rfl
@[simp] theorem State.modCore_hub (s : State) (c : Nat) (f : Core → Core) : (s.modCore c f).hub = s.hub := rfl
@[simp] theorem State.modCore_ctxs (s : State) (c : Nat) (f : Core → Core) : (s.modCore c f).ctxs = s.ctxs := rfl
@[simp] theorem State.modCore_ctxregs (s : State) (c : Nat) (f : Core → Core) : (s.modCore c f).ctxregs = s.ctxregs := rfl
@[simp] theorem State.modCore_issue (s : State) (c : Nat) (f : Core → Core) : (s.modCore c f).issue = s.issue := rfl
@[simp] theorem State.modCore_bundles (s : State) (c : Nat) (f : Core → Core) : (s.modCore c f).bundles = s.bundles := rfl
@[simp] theorem State.modCore_agenda (s : State) (c : Nat) (f : Core → Core) : (s.modCore c f).agenda = s.agenda := rfl
@[simp] theorem State.modCore_after (s : State) (c : Nat) (f : Core → Core) : (s.modCore c f).after = s.after := rfl
@[simp] theorem State.modCore_ev (s : State) (c : Nat) (f : Core → Core) : (s.modCore c f).ev = s.ev := rfl
@[simp] theorem State.modCore_free (s : State) (c : Nat) (f : Core → Core) : (s.modCore c f).free = s.free := rfl
@[simp] theorem State.modCore_nextId (s : State) (c : Nat) (f : Core → Core) : (s.modCore c f).nextId = s.nextId := rfl
@[simp] theorem State.modCore_cores (s : State) (c : Nat) (f : Core → Core) : (s.modCore c f).cores = amod {} s.cores c f := rfl

/-! ## modSched -/

@[simp] theorem State.modSched_cyc (s : State) (d : Nat) (f : Sched → Sched) : (s.modSched d f).cyc = s.cyc := rfl
@[simp] theorem State.modSched_threads (s : State) (d : Nat) (f : Sched → Sched) : (s.modSched d f).threads = s.threads := rfl
@[simp] theorem State.modSched_teams (s : State) (d : Nat) (f : Sched → Sched) : (s.modSched d f).teams = s.teams := rfl
@[simp] theorem State.modSched_launches (s : State) (d : Nat) (f : Sched → Sched) : (s.modSched d f).launches = s.launches := rfl
@[simp] theorem State.modSched_cores (s : State) (d : Nat) (f : Sched → Sched) : (s.modSched d f).cores = s.cores := rfl
@[simp] theorem State.modSched_tlbs (s : State) (d : Nat) (f : Sched → Sched) : (s.modSched d f).tlbs = s.tlbs := rfl
@[simp] theorem State.modSched_faults (s : State) (d : Nat) (f : Sched → Sched) : (s.modSched d f).faults = s.faults := rfl
@[simp] theorem State.modSched_reqs (s : State) (d : Nat) (f : Sched → Sched) : (s.modSched d f).reqs = s.reqs := rfl
@[simp] theorem State.modSched_ops (s : State) (d : Nat) (f : Sched → Sched) : (s.modSched d f).ops = s.ops := rfl
@[simp] theorem State.modSched_mem (s : State) (d : Nat) (f : Sched → Sched) : (s.modSched d f).mem = s.mem := rfl
@[simp] theorem State.modSched_power (s : State) (d : Nat) (f : Sched → Sched) : (s.modSched d f).power = s.power := rfl
@[simp] theorem State.modSched_wear (s : State) (d : Nat) (f : Sched → Sched) : (s.modSched d f).wear = s.wear := rfl
@[simp] theorem State.modSched_arm (s : State) (d : Nat) (f : Sched → Sched) : (s.modSched d f).arm = s.arm := rfl
@[simp] theorem State.modSched_hub (s : State) (d : Nat) (f : Sched → Sched) : (s.modSched d f).hub = s.hub := rfl
@[simp] theorem State.modSched_ctxs (s : State) (d : Nat) (f : Sched → Sched) : (s.modSched d f).ctxs = s.ctxs := rfl
@[simp] theorem State.modSched_ctxregs (s : State) (d : Nat) (f : Sched → Sched) : (s.modSched d f).ctxregs = s.ctxregs := rfl
@[simp] theorem State.modSched_issue (s : State) (d : Nat) (f : Sched → Sched) : (s.modSched d f).issue = s.issue := rfl
@[simp] theorem State.modSched_bundles (s : State) (d : Nat) (f : Sched → Sched) : (s.modSched d f).bundles = s.bundles := rfl
@[simp] theorem State.modSched_agenda (s : State) (d : Nat) (f : Sched → Sched) : (s.modSched d f).agenda = s.agenda := rfl
@[simp] theorem State.modSched_after (s : State) (d : Nat) (f : Sched → Sched) : (s.modSched d f).after = s.after := rfl
@[simp] theorem State.modSched_ev (s : State) (d : Nat) (f : Sched → Sched) : (s.modSched d f).ev = s.ev := rfl
@[simp] theorem State.modSched_free (s : State) (d : Nat) (f : Sched → Sched) : (s.modSched d f).free = s.free := rfl
@[simp] theorem State.modSched_nextId (s : State) (d : Nat) (f : Sched → Sched) : (s.modSched d f).nextId = s.nextId := rfl
@[simp] theorem State.modSched_scheds (s : State) (d : Nat) (f : Sched → Sched) : (s.modSched d f).scheds = amod {} s.scheds d f := rfl

/-! ## modMem -/

@[simp] theorem State.modMem_cyc (s : State) (f : MemSys → MemSys) : (s.modMem f).cyc = s.cyc := rfl
@[simp] theorem State.modMem_threads (s : State) (f : MemSys → MemSys) : (s.modMem f).threads = s.threads := rfl
@[simp] theorem State.modMem_teams (s : State) (f : MemSys → MemSys) : (s.modMem f).teams = s.teams := rfl
@[simp] theorem State.modMem_launches (s : State) (f : MemSys → MemSys) : (s.modMem f).launches = s.launches := rfl
@[simp] theorem State.modMem_scheds (s : State) (f : MemSys → MemSys) : (s.modMem f).scheds = s.scheds := rfl
@[simp] theorem State.modMem_cores (s : State) (f : MemSys → MemSys) : (s.modMem f).cores = s.cores := rfl
@[simp] theorem State.modMem_tlbs (s : State) (f : MemSys → MemSys) : (s.modMem f).tlbs = s.tlbs := rfl
@[simp] theorem State.modMem_faults (s : State) (f : MemSys → MemSys) : (s.modMem f).faults = s.faults := rfl
@[simp] theorem State.modMem_reqs (s : State) (f : MemSys → MemSys) : (s.modMem f).reqs = s.reqs := rfl
@[simp] theorem State.modMem_ops (s : State) (f : MemSys → MemSys) : (s.modMem f).ops = s.ops := rfl
@[simp] theorem State.modMem_power (s : State) (f : MemSys → MemSys) : (s.modMem f).power = s.power := rfl
@[simp] theorem State.modMem_wear (s : State) (f : MemSys → MemSys) : (s.modMem f).wear = s.wear := rfl
@[simp] theorem State.modMem_arm (s : State) (f : MemSys → MemSys) : (s.modMem f).arm = s.arm := rfl
@[simp] theorem State.modMem_hub (s : State) (f : MemSys → MemSys) : (s.modMem f).hub = s.hub := rfl
@[simp] theorem State.modMem_ctxs (s : State) (f : MemSys → MemSys) : (s.modMem f).ctxs = s.ctxs := rfl
@[simp] theorem State.modMem_ctxregs (s : State) (f : MemSys → MemSys) : (s.modMem f).ctxregs = s.ctxregs := rfl
@[simp] theorem State.modMem_issue (s : State) (f : MemSys → MemSys) : (s.modMem f).issue = s.issue := rfl
@[simp] theorem State.modMem_bundles (s : State) (f : MemSys → MemSys) : (s.modMem f).bundles = s.bundles := rfl
@[simp] theorem State.modMem_agenda (s : State) (f : MemSys → MemSys) : (s.modMem f).agenda = s.agenda := rfl
@[simp] theorem State.modMem_after (s : State) (f : MemSys → MemSys) : (s.modMem f).after = s.after := rfl
@[simp] theorem State.modMem_ev (s : State) (f : MemSys → MemSys) : (s.modMem f).ev = s.ev := rfl
@[simp] theorem State.modMem_free (s : State) (f : MemSys → MemSys) : (s.modMem f).free = s.free := rfl
@[simp] theorem State.modMem_nextId (s : State) (f : MemSys → MemSys) : (s.modMem f).nextId = s.nextId := rfl
@[simp] theorem State.modMem_mem (s : State) (f : MemSys → MemSys) : (s.modMem f).mem = f s.mem := rfl

/-! ## modHub -/

@[simp] theorem State.modHub_cyc (s : State) (f : Hub → Hub) : (s.modHub f).cyc = s.cyc := rfl
@[simp] theorem State.modHub_threads (s : State) (f : Hub → Hub) : (s.modHub f).threads = s.threads := rfl
@[simp] theorem State.modHub_teams (s : State) (f : Hub → Hub) : (s.modHub f).teams = s.teams := rfl
@[simp] theorem State.modHub_launches (s : State) (f : Hub → Hub) : (s.modHub f).launches = s.launches := rfl
@[simp] theorem State.modHub_scheds (s : State) (f : Hub → Hub) : (s.modHub f).scheds = s.scheds := rfl
@[simp] theorem State.modHub_cores (s : State) (f : Hub → Hub) : (s.modHub f).cores = s.cores := rfl
@[simp] theorem State.modHub_tlbs (s : State) (f : Hub → Hub) : (s.modHub f).tlbs = s.tlbs := rfl
@[simp] theorem State.modHub_faults (s : State) (f : Hub → Hub) : (s.modHub f).faults = s.faults := rfl
@[simp] theorem State.modHub_reqs (s : State) (f : Hub → Hub) : (s.modHub f).reqs = s.reqs := rfl
@[simp] theorem State.modHub_ops (s : State) (f : Hub → Hub) : (s.modHub f).ops = s.ops := rfl
@[simp] theorem State.modHub_mem (s : State) (f : Hub → Hub) : (s.modHub f).mem = s.mem := rfl
@[simp] theorem State.modHub_power (s : State) (f : Hub → Hub) : (s.modHub f).power = s.power := rfl
@[simp] theorem State.modHub_wear (s : State) (f : Hub → Hub) : (s.modHub f).wear = s.wear := rfl
@[simp] theorem State.modHub_arm (s : State) (f : Hub → Hub) : (s.modHub f).arm = s.arm := rfl
@[simp] theorem State.modHub_ctxs (s : State) (f : Hub → Hub) : (s.modHub f).ctxs = s.ctxs := rfl
@[simp] theorem State.modHub_ctxregs (s : State) (f : Hub → Hub) : (s.modHub f).ctxregs = s.ctxregs := rfl
@[simp] theorem State.modHub_issue (s : State) (f : Hub → Hub) : (s.modHub f).issue = s.issue := rfl
@[simp] theorem State.modHub_bundles (s : State) (f : Hub → Hub) : (s.modHub f).bundles = s.bundles := rfl
@[simp] theorem State.modHub_agenda (s : State) (f : Hub → Hub) : (s.modHub f).agenda = s.agenda := rfl
@[simp] theorem State.modHub_after (s : State) (f : Hub → Hub) : (s.modHub f).after = s.after := rfl
@[simp] theorem State.modHub_ev (s : State) (f : Hub → Hub) : (s.modHub f).ev = s.ev := rfl
@[simp] theorem State.modHub_free (s : State) (f : Hub → Hub) : (s.modHub f).free = s.free := rfl
@[simp] theorem State.modHub_nextId (s : State) (f : Hub → Hub) : (s.modHub f).nextId = s.nextId := rfl
@[simp] theorem State.modHub_hub (s : State) (f : Hub → Hub) : (s.modHub f).hub = f s.hub := rfl

/-! ## modPower -/

@[simp] theorem State.modPower_cyc (s : State) (f : Power → Power) : (s.modPower f).cyc = s.cyc := rfl
@[simp] theorem State.modPower_threads (s : State) (f : Power → Power) : (s.modPower f).threads = s.threads := rfl
@[simp] theorem State.modPower_teams (s : State) (f : Power → Power) : (s.modPower f).teams = s.teams := rfl
@[simp] theorem State.modPower_launches (s : State) (f : Power → Power) : (s.modPower f).launches = s.launches := rfl
@[simp] theorem State.modPower_scheds (s : State) (f : Power → Power) : (s.modPower f).scheds = s.scheds := rfl
@[simp] theorem State.modPower_cores (s : State) (f : Power → Power) : (s.modPower f).cores = s.cores := rfl
@[simp] theorem State.modPower_tlbs (s : State) (f : Power → Power) : (s.modPower f).tlbs = s.tlbs := rfl
@[simp] theorem State.modPower_faults (s : State) (f : Power → Power) : (s.modPower f).faults = s.faults := rfl
@[simp] theorem State.modPower_reqs (s : State) (f : Power → Power) : (s.modPower f).reqs = s.reqs := rfl
@[simp] theorem State.modPower_ops (s : State) (f : Power → Power) : (s.modPower f).ops = s.ops := rfl
@[simp] theorem State.modPower_mem (s : State) (f : Power → Power) : (s.modPower f).mem = s.mem := rfl
@[simp] theorem State.modPower_wear (s : State) (f : Power → Power) : (s.modPower f).wear = s.wear := rfl
@[simp] theorem State.modPower_arm (s : State) (f : Power → Power) : (s.modPower f).arm = s.arm := rfl
@[simp] theorem State.modPower_hub (s : State) (f : Power → Power) : (s.modPower f).hub = s.hub := rfl
@[simp] theorem State.modPower_ctxs (s : State) (f : Power → Power) : (s.modPower f).ctxs = s.ctxs := rfl
@[simp] theorem State.modPower_ctxregs (s : State) (f : Power → Power) : (s.modPower f).ctxregs = s.ctxregs := rfl
@[simp] theorem State.modPower_issue (s : State) (f : Power → Power) : (s.modPower f).issue = s.issue := rfl
@[simp] theorem State.modPower_bundles (s : State) (f : Power → Power) : (s.modPower f).bundles = s.bundles := rfl
@[simp] theorem State.modPower_agenda (s : State) (f : Power → Power) : (s.modPower f).agenda = s.agenda := rfl
@[simp] theorem State.modPower_after (s : State) (f : Power → Power) : (s.modPower f).after = s.after := rfl
@[simp] theorem State.modPower_ev (s : State) (f : Power → Power) : (s.modPower f).ev = s.ev := rfl
@[simp] theorem State.modPower_free (s : State) (f : Power → Power) : (s.modPower f).free = s.free := rfl
@[simp] theorem State.modPower_nextId (s : State) (f : Power → Power) : (s.modPower f).nextId = s.nextId := rfl
@[simp] theorem State.modPower_power (s : State) (f : Power → Power) : (s.modPower f).power = f s.power := rfl

/-! ## prepend -/

@[simp] theorem State.prepend_cyc (s : State) (es : List Event) : (s.prepend es).cyc = s.cyc := rfl
@[simp] theorem State.prepend_threads (s : State) (es : List Event) : (s.prepend es).threads = s.threads := rfl
@[simp] theorem State.prepend_teams (s : State) (es : List Event) : (s.prepend es).teams = s.teams := rfl
@[simp] theorem State.prepend_launches (s : State) (es : List Event) : (s.prepend es).launches = s.launches := rfl
@[simp] theorem State.prepend_scheds (s : State) (es : List Event) : (s.prepend es).scheds = s.scheds := rfl
@[simp] theorem State.prepend_cores (s : State) (es : List Event) : (s.prepend es).cores = s.cores := rfl
@[simp] theorem State.prepend_tlbs (s : State) (es : List Event) : (s.prepend es).tlbs = s.tlbs := rfl
@[simp] theorem State.prepend_faults (s : State) (es : List Event) : (s.prepend es).faults = s.faults := rfl
@[simp] theorem State.prepend_reqs (s : State) (es : List Event) : (s.prepend es).reqs = s.reqs := rfl
@[simp] theorem State.prepend_ops (s : State) (es : List Event) : (s.prepend es).ops = s.ops := rfl
@[simp] theorem State.prepend_mem (s : State) (es : List Event) : (s.prepend es).mem = s.mem := rfl
@[simp] theorem State.prepend_power (s : State) (es : List Event) : (s.prepend es).power = s.power := rfl
@[simp] theorem State.prepend_wear (s : State) (es : List Event) : (s.prepend es).wear = s.wear := rfl
@[simp] theorem State.prepend_arm (s : State) (es : List Event) : (s.prepend es).arm = s.arm := rfl
@[simp] theorem State.prepend_hub (s : State) (es : List Event) : (s.prepend es).hub = s.hub := rfl
@[simp] theorem State.prepend_ctxs (s : State) (es : List Event) : (s.prepend es).ctxs = s.ctxs := rfl
@[simp] theorem State.prepend_ctxregs (s : State) (es : List Event) : (s.prepend es).ctxregs = s.ctxregs := rfl
@[simp] theorem State.prepend_issue (s : State) (es : List Event) : (s.prepend es).issue = s.issue := rfl
@[simp] theorem State.prepend_bundles (s : State) (es : List Event) : (s.prepend es).bundles = s.bundles := rfl
@[simp] theorem State.prepend_after (s : State) (es : List Event) : (s.prepend es).after = s.after := rfl
@[simp] theorem State.prepend_ev (s : State) (es : List Event) : (s.prepend es).ev = s.ev := rfl
@[simp] theorem State.prepend_free (s : State) (es : List Event) : (s.prepend es).free = s.free := rfl
@[simp] theorem State.prepend_nextId (s : State) (es : List Event) : (s.prepend es).nextId = s.nextId := rfl
@[simp] theorem State.prepend_agenda (s : State) (es : List Event) : (s.prepend es).agenda = es ++ s.agenda := rfl

/-! ## append -/

@[simp] theorem State.append_cyc (s : State) (es : List Event) : (s.append es).cyc = s.cyc := rfl
@[simp] theorem State.append_threads (s : State) (es : List Event) : (s.append es).threads = s.threads := rfl
@[simp] theorem State.append_teams (s : State) (es : List Event) : (s.append es).teams = s.teams := rfl
@[simp] theorem State.append_launches (s : State) (es : List Event) : (s.append es).launches = s.launches := rfl
@[simp] theorem State.append_scheds (s : State) (es : List Event) : (s.append es).scheds = s.scheds := rfl
@[simp] theorem State.append_cores (s : State) (es : List Event) : (s.append es).cores = s.cores := rfl
@[simp] theorem State.append_tlbs (s : State) (es : List Event) : (s.append es).tlbs = s.tlbs := rfl
@[simp] theorem State.append_faults (s : State) (es : List Event) : (s.append es).faults = s.faults := rfl
@[simp] theorem State.append_reqs (s : State) (es : List Event) : (s.append es).reqs = s.reqs := rfl
@[simp] theorem State.append_ops (s : State) (es : List Event) : (s.append es).ops = s.ops := rfl
@[simp] theorem State.append_mem (s : State) (es : List Event) : (s.append es).mem = s.mem := rfl
@[simp] theorem State.append_power (s : State) (es : List Event) : (s.append es).power = s.power := rfl
@[simp] theorem State.append_wear (s : State) (es : List Event) : (s.append es).wear = s.wear := rfl
@[simp] theorem State.append_arm (s : State) (es : List Event) : (s.append es).arm = s.arm := rfl
@[simp] theorem State.append_hub (s : State) (es : List Event) : (s.append es).hub = s.hub := rfl
@[simp] theorem State.append_ctxs (s : State) (es : List Event) : (s.append es).ctxs = s.ctxs := rfl
@[simp] theorem State.append_ctxregs (s : State) (es : List Event) : (s.append es).ctxregs = s.ctxregs := rfl
@[simp] theorem State.append_issue (s : State) (es : List Event) : (s.append es).issue = s.issue := rfl
@[simp] theorem State.append_bundles (s : State) (es : List Event) : (s.append es).bundles = s.bundles := rfl
@[simp] theorem State.append_after (s : State) (es : List Event) : (s.append es).after = s.after := rfl
@[simp] theorem State.append_ev (s : State) (es : List Event) : (s.append es).ev = s.ev := rfl
@[simp] theorem State.append_free (s : State) (es : List Event) : (s.append es).free = s.free := rfl
@[simp] theorem State.append_nextId (s : State) (es : List Event) : (s.append es).nextId = s.nextId := rfl
@[simp] theorem State.append_agenda (s : State) (es : List Event) : (s.append es).agenda = s.agenda ++ es := rfl

/-! ## follow -/

@[simp] theorem State.follow_cyc (s : State) (id : Nat) (es : List Event) : (s.follow id es).cyc = s.cyc := rfl
@[simp] theorem State.follow_threads (s : State) (id : Nat) (es : List Event) : (s.follow id es).threads = s.threads := rfl
@[simp] theorem State.follow_teams (s : State) (id : Nat) (es : List Event) : (s.follow id es).teams = s.teams := rfl
@[simp] theorem State.follow_launches (s : State) (id : Nat) (es : List Event) : (s.follow id es).launches = s.launches := rfl
@[simp] theorem State.follow_scheds (s : State) (id : Nat) (es : List Event) : (s.follow id es).scheds = s.scheds := rfl
@[simp] theorem State.follow_cores (s : State) (id : Nat) (es : List Event) : (s.follow id es).cores = s.cores := rfl
@[simp] theorem State.follow_tlbs (s : State) (id : Nat) (es : List Event) : (s.follow id es).tlbs = s.tlbs := rfl
@[simp] theorem State.follow_faults (s : State) (id : Nat) (es : List Event) : (s.follow id es).faults = s.faults := rfl
@[simp] theorem State.follow_reqs (s : State) (id : Nat) (es : List Event) : (s.follow id es).reqs = s.reqs := rfl
@[simp] theorem State.follow_ops (s : State) (id : Nat) (es : List Event) : (s.follow id es).ops = s.ops := rfl
@[simp] theorem State.follow_mem (s : State) (id : Nat) (es : List Event) : (s.follow id es).mem = s.mem := rfl
@[simp] theorem State.follow_power (s : State) (id : Nat) (es : List Event) : (s.follow id es).power = s.power := rfl
@[simp] theorem State.follow_wear (s : State) (id : Nat) (es : List Event) : (s.follow id es).wear = s.wear := rfl
@[simp] theorem State.follow_arm (s : State) (id : Nat) (es : List Event) : (s.follow id es).arm = s.arm := rfl
@[simp] theorem State.follow_hub (s : State) (id : Nat) (es : List Event) : (s.follow id es).hub = s.hub := rfl
@[simp] theorem State.follow_ctxs (s : State) (id : Nat) (es : List Event) : (s.follow id es).ctxs = s.ctxs := rfl
@[simp] theorem State.follow_ctxregs (s : State) (id : Nat) (es : List Event) : (s.follow id es).ctxregs = s.ctxregs := rfl
@[simp] theorem State.follow_issue (s : State) (id : Nat) (es : List Event) : (s.follow id es).issue = s.issue := rfl
@[simp] theorem State.follow_bundles (s : State) (id : Nat) (es : List Event) : (s.follow id es).bundles = s.bundles := rfl
@[simp] theorem State.follow_agenda (s : State) (id : Nat) (es : List Event) : (s.follow id es).agenda = s.agenda := rfl
@[simp] theorem State.follow_ev (s : State) (id : Nat) (es : List Event) : (s.follow id es).ev = s.ev := rfl
@[simp] theorem State.follow_free (s : State) (id : Nat) (es : List Event) : (s.follow id es).free = s.free := rfl
@[simp] theorem State.follow_nextId (s : State) (id : Nat) (es : List Event) : (s.follow id es).nextId = s.nextId := rfl

/-! ## emitNow -/

@[simp] theorem State.emitNow_cyc (s : State) (r : Nat) (es : List Event) : (s.emitNow r es).cyc = s.cyc := rfl
@[simp] theorem State.emitNow_threads (s : State) (r : Nat) (es : List Event) : (s.emitNow r es).threads = s.threads := rfl
@[simp] theorem State.emitNow_teams (s : State) (r : Nat) (es : List Event) : (s.emitNow r es).teams = s.teams := rfl
@[simp] theorem State.emitNow_launches (s : State) (r : Nat) (es : List Event) : (s.emitNow r es).launches = s.launches := rfl
@[simp] theorem State.emitNow_scheds (s : State) (r : Nat) (es : List Event) : (s.emitNow r es).scheds = s.scheds := rfl
@[simp] theorem State.emitNow_cores (s : State) (r : Nat) (es : List Event) : (s.emitNow r es).cores = s.cores := rfl
@[simp] theorem State.emitNow_tlbs (s : State) (r : Nat) (es : List Event) : (s.emitNow r es).tlbs = s.tlbs := rfl
@[simp] theorem State.emitNow_faults (s : State) (r : Nat) (es : List Event) : (s.emitNow r es).faults = s.faults := rfl
@[simp] theorem State.emitNow_reqs (s : State) (r : Nat) (es : List Event) : (s.emitNow r es).reqs = s.reqs := rfl
@[simp] theorem State.emitNow_ops (s : State) (r : Nat) (es : List Event) : (s.emitNow r es).ops = s.ops := rfl
@[simp] theorem State.emitNow_mem (s : State) (r : Nat) (es : List Event) : (s.emitNow r es).mem = s.mem := rfl
@[simp] theorem State.emitNow_power (s : State) (r : Nat) (es : List Event) : (s.emitNow r es).power = s.power := rfl
@[simp] theorem State.emitNow_wear (s : State) (r : Nat) (es : List Event) : (s.emitNow r es).wear = s.wear := rfl
@[simp] theorem State.emitNow_arm (s : State) (r : Nat) (es : List Event) : (s.emitNow r es).arm = s.arm := rfl
@[simp] theorem State.emitNow_hub (s : State) (r : Nat) (es : List Event) : (s.emitNow r es).hub = s.hub := rfl
@[simp] theorem State.emitNow_ctxs (s : State) (r : Nat) (es : List Event) : (s.emitNow r es).ctxs = s.ctxs := rfl
@[simp] theorem State.emitNow_ctxregs (s : State) (r : Nat) (es : List Event) : (s.emitNow r es).ctxregs = s.ctxregs := rfl
@[simp] theorem State.emitNow_bundles (s : State) (r : Nat) (es : List Event) : (s.emitNow r es).bundles = s.bundles := rfl
@[simp] theorem State.emitNow_agenda (s : State) (r : Nat) (es : List Event) : (s.emitNow r es).agenda = s.agenda := rfl
@[simp] theorem State.emitNow_after (s : State) (r : Nat) (es : List Event) : (s.emitNow r es).after = s.after := rfl
@[simp] theorem State.emitNow_ev (s : State) (r : Nat) (es : List Event) : (s.emitNow r es).ev = s.ev := rfl
@[simp] theorem State.emitNow_free (s : State) (r : Nat) (es : List Event) : (s.emitNow r es).free = s.free := rfl
@[simp] theorem State.emitNow_nextId (s : State) (r : Nat) (es : List Event) : (s.emitNow r es).nextId = s.nextId := rfl

/-! ## emit -/

@[simp] theorem State.emit_cyc (s : State) (r : Nat) (e : Event) : (s.emit r e).cyc = s.cyc := by unfold State.emit; split <;> rfl
@[simp] theorem State.emit_threads (s : State) (r : Nat) (e : Event) : (s.emit r e).threads = s.threads := by unfold State.emit; split <;> rfl
@[simp] theorem State.emit_teams (s : State) (r : Nat) (e : Event) : (s.emit r e).teams = s.teams := by unfold State.emit; split <;> rfl
@[simp] theorem State.emit_launches (s : State) (r : Nat) (e : Event) : (s.emit r e).launches = s.launches := by unfold State.emit; split <;> rfl
@[simp] theorem State.emit_scheds (s : State) (r : Nat) (e : Event) : (s.emit r e).scheds = s.scheds := by unfold State.emit; split <;> rfl
@[simp] theorem State.emit_cores (s : State) (r : Nat) (e : Event) : (s.emit r e).cores = s.cores := by unfold State.emit; split <;> rfl
@[simp] theorem State.emit_tlbs (s : State) (r : Nat) (e : Event) : (s.emit r e).tlbs = s.tlbs := by unfold State.emit; split <;> rfl
@[simp] theorem State.emit_faults (s : State) (r : Nat) (e : Event) : (s.emit r e).faults = s.faults := by unfold State.emit; split <;> rfl
@[simp] theorem State.emit_reqs (s : State) (r : Nat) (e : Event) : (s.emit r e).reqs = s.reqs := by unfold State.emit; split <;> rfl
@[simp] theorem State.emit_ops (s : State) (r : Nat) (e : Event) : (s.emit r e).ops = s.ops := by unfold State.emit; split <;> rfl
@[simp] theorem State.emit_mem (s : State) (r : Nat) (e : Event) : (s.emit r e).mem = s.mem := by unfold State.emit; split <;> rfl
@[simp] theorem State.emit_power (s : State) (r : Nat) (e : Event) : (s.emit r e).power = s.power := by unfold State.emit; split <;> rfl
@[simp] theorem State.emit_wear (s : State) (r : Nat) (e : Event) : (s.emit r e).wear = s.wear := by unfold State.emit; split <;> rfl
@[simp] theorem State.emit_arm (s : State) (r : Nat) (e : Event) : (s.emit r e).arm = s.arm := by unfold State.emit; split <;> rfl
@[simp] theorem State.emit_hub (s : State) (r : Nat) (e : Event) : (s.emit r e).hub = s.hub := by unfold State.emit; split <;> rfl
@[simp] theorem State.emit_ctxs (s : State) (r : Nat) (e : Event) : (s.emit r e).ctxs = s.ctxs := by unfold State.emit; split <;> rfl
@[simp] theorem State.emit_ctxregs (s : State) (r : Nat) (e : Event) : (s.emit r e).ctxregs = s.ctxregs := by unfold State.emit; split <;> rfl
@[simp] theorem State.emit_bundles (s : State) (r : Nat) (e : Event) : (s.emit r e).bundles = s.bundles := by unfold State.emit; split <;> rfl
@[simp] theorem State.emit_agenda (s : State) (r : Nat) (e : Event) : (s.emit r e).agenda = s.agenda := by unfold State.emit; split <;> rfl
@[simp] theorem State.emit_ev (s : State) (r : Nat) (e : Event) : (s.emit r e).ev = s.ev := by unfold State.emit; split <;> rfl
@[simp] theorem State.emit_free (s : State) (r : Nat) (e : Event) : (s.emit r e).free = s.free := by unfold State.emit; split <;> rfl
@[simp] theorem State.emit_nextId (s : State) (r : Nat) (e : Event) : (s.emit r e).nextId = s.nextId := by unfold State.emit; split <;> rfl

/-! ## push -/

@[simp] theorem State.push_cyc (s : State) (r : Nat) (v : Val) : (s.push r v).cyc = s.cyc := rfl
@[simp] theorem State.push_teams (s : State) (r : Nat) (v : Val) : (s.push r v).teams = s.teams := rfl
@[simp] theorem State.push_launches (s : State) (r : Nat) (v : Val) : (s.push r v).launches = s.launches := rfl
@[simp] theorem State.push_scheds (s : State) (r : Nat) (v : Val) : (s.push r v).scheds = s.scheds := rfl
@[simp] theorem State.push_cores (s : State) (r : Nat) (v : Val) : (s.push r v).cores = s.cores := rfl
@[simp] theorem State.push_tlbs (s : State) (r : Nat) (v : Val) : (s.push r v).tlbs = s.tlbs := rfl
@[simp] theorem State.push_faults (s : State) (r : Nat) (v : Val) : (s.push r v).faults = s.faults := rfl
@[simp] theorem State.push_reqs (s : State) (r : Nat) (v : Val) : (s.push r v).reqs = s.reqs := rfl
@[simp] theorem State.push_ops (s : State) (r : Nat) (v : Val) : (s.push r v).ops = s.ops := rfl
@[simp] theorem State.push_mem (s : State) (r : Nat) (v : Val) : (s.push r v).mem = s.mem := rfl
@[simp] theorem State.push_power (s : State) (r : Nat) (v : Val) : (s.push r v).power = s.power := rfl
@[simp] theorem State.push_wear (s : State) (r : Nat) (v : Val) : (s.push r v).wear = s.wear := rfl
@[simp] theorem State.push_arm (s : State) (r : Nat) (v : Val) : (s.push r v).arm = s.arm := rfl
@[simp] theorem State.push_hub (s : State) (r : Nat) (v : Val) : (s.push r v).hub = s.hub := rfl
@[simp] theorem State.push_ctxs (s : State) (r : Nat) (v : Val) : (s.push r v).ctxs = s.ctxs := rfl
@[simp] theorem State.push_ctxregs (s : State) (r : Nat) (v : Val) : (s.push r v).ctxregs = s.ctxregs := rfl
@[simp] theorem State.push_issue (s : State) (r : Nat) (v : Val) : (s.push r v).issue = s.issue := rfl
@[simp] theorem State.push_bundles (s : State) (r : Nat) (v : Val) : (s.push r v).bundles = s.bundles := rfl
@[simp] theorem State.push_agenda (s : State) (r : Nat) (v : Val) : (s.push r v).agenda = s.agenda := rfl
@[simp] theorem State.push_after (s : State) (r : Nat) (v : Val) : (s.push r v).after = s.after := rfl
@[simp] theorem State.push_ev (s : State) (r : Nat) (v : Val) : (s.push r v).ev = s.ev := rfl
@[simp] theorem State.push_free (s : State) (r : Nat) (v : Val) : (s.push r v).free = s.free := rfl
@[simp] theorem State.push_nextId (s : State) (r : Nat) (v : Val) : (s.push r v).nextId = s.nextId := rfl

/-! ## Accessors -/

@[simp] theorem State.setThread_thread (s : State) (r : Nat) (t : Thread) : (s.setThread r t).thread r = t := by
  simp [State.thread]

theorem State.setThread_thread_ne (s : State) {r i : Nat} (t : Thread) (h : i ≠ r) :
    (s.setThread r t).thread i = s.thread i := by
  simp [State.thread, aget_aset_ne _ _ _ h]

@[simp] theorem State.modThread_thread (s : State) (r : Nat) (f : Thread → Thread) :
    (s.modThread r f).thread r = f (s.thread r) := by
  simp [State.modThread]

theorem State.modThread_thread_ne (s : State) {r i : Nat} (f : Thread → Thread) (h : i ≠ r) :
    (s.modThread r f).thread i = s.thread i := by
  simp [State.modThread, State.setThread_thread_ne s _ h]

theorem State.modTeam_teams_of_none (s : State) (u : Nat) (f : Team → Team) (h : aget? s.teams u = none) :
    s.modTeam u f = s := by
  simp [State.modTeam, h]

theorem State.modTeam_team_of_some (s : State) (u : Nat) (f : Team → Team) (t : Team) (h : aget? s.teams u = some t) :
    (s.modTeam u f).team u = f t := by
  simp [State.modTeam, State.team, h]

theorem State.modTeam_team_ne (s : State) {u i : Nat} (f : Team → Team) (h : i ≠ u) :
    (s.modTeam u f).team i = s.team i := by
  unfold State.modTeam
  split
  · simp [State.team, aget_aset_ne _ _ _ h]
  · rfl

@[simp] theorem State.modTeam_thread (s : State) (u i : Nat) (f : Team → Team) : (s.modTeam u f).thread i = s.thread i := by
  simp [State.thread]

@[simp] theorem State.modCtx_ctx (s : State) (c : Nat) (f : Ctx → Ctx) : (s.modCtx c f).ctx c = f (s.ctx c) := by
  simp [State.ctx]

theorem State.modCtx_ctx_ne (s : State) {c i : Nat} (f : Ctx → Ctx) (h : i ≠ c) : (s.modCtx c f).ctx i = s.ctx i := by
  simp [State.ctx, aget_amod_ne _ _ _ h]

@[simp] theorem State.modCore_core (s : State) (c : Nat) (f : Core → Core) : (s.modCore c f).core c = f (s.core c) := by
  simp [State.core]

@[simp] theorem State.modSched_sched (s : State) (d : Nat) (f : Sched → Sched) : (s.modSched d f).sched d = f (s.sched d) := by
  simp [State.sched]

/-! ## Registers of a thread -/

theorem pushQ_head (q : Vector Val 16) (v : Val) : (pushQ q v)[0] = v := rfl

theorem pushQ_next (q : Vector Val 16) (v : Val) (i : Nat) (h : i < 15) : (pushQ q v)[i + 1] = q[i] := by
  obtain ⟨⟨l⟩, hl⟩ := q
  simp [pushQ]

@[simp] theorem State.push_thread (s : State) (r : Nat) (v : Val) :
    (s.push r v).thread r = { s.thread r with q := pushQ (s.thread r).q v } := by
  simp [State.push]

theorem State.push_thread_ne (s : State) {r i : Nat} (v : Val) (h : i ≠ r) : (s.push r v).thread i = s.thread i :=
  State.modThread_thread_ne s _ h

theorem State.writeDest_none (s : State) (r : Nat) (v : Val) : s.writeDest r .none v = s := rfl

theorem State.writeDest_n (s : State) (r : Nat) (i : Fin 16) (v : Val) :
    s.writeDest r (.reg (.n i)) v = s.modThread r fun t => { t with n := t.n.set i v } := rfl

/-- Everything the one operation that writes a named register can do: it changes nothing but the threads and the teams, and
in another place's thread nothing. -/
theorem State.writeDest_frame (s : State) (r : Nat) (d : Dst) (v : Val) :
    s.writeDest r d v = { s with threads := (s.writeDest r d v).threads, teams := (s.writeDest r d v).teams } := by
  unfold State.writeDest
  split
  · rfl
  · rfl
  · unfold State.modTeam; split <;> rfl

theorem State.writeDest_thread_ne (s : State) {r i : Nat} (d : Dst) (v : Val) (h : i ≠ r) :
    (s.writeDest r d v).thread i = s.thread i := by
  unfold State.writeDest
  split
  · rfl
  · exact State.modThread_thread_ne s _ h
  · exact State.modTeam_thread ..

theorem State.produce_thread_ne (s : State) {r i : Nat} (d : Dst) (v : Val) (h : i ≠ r) :
    (s.produce r d v).thread i = s.thread i := by
  rw [State.produce, State.writeDest_thread_ne _ d v h, State.push_thread_ne s v h]

end Sys2Proof.Machine
end

