-- ==== Sys2Proof/Laws/Lanes.lean ====
section
/-!
SUPPORT. Laws/Lanes.lean: what an instruction that acts lane by lane does to its bundle, from what it does to one lane.
-/

namespace Sys2Proof.Machine

/-! ## Reading operands in a state that the earlier lanes have changed -/

/-- A state in which earlier lanes of the bundle have acted. -/
structure State.Agree (s x : State) : Prop where
  rest : x.aside = s.aside
  teams : ∀ u, (x.team u).aside = (s.team u).aside

theorem State.Agree.refl (s : State) : s.Agree s := ⟨rfl, fun _ => rfl⟩

theorem State.Agree.issue {s x : State} (h : s.Agree x) : x.issue = s.issue := congrArg (·.issue) h.rest

theorem State.Agree.launches {s x : State} (h : s.Agree x) : x.launches = s.launches := congrArg (·.launches) h.rest

theorem State.Agree.launch {s x : State} (h : s.Agree x) (u : Nat) : (x.team u).launch = (s.team u).launch :=
  congrArg (·.launch) (h.teams u)

theorem State.Agree.groups {s x : State} (h : s.Agree x) (u : Nat) : (x.team u).groups = (s.team u).groups :=
  congrArg (·.groups) (h.teams u)

theorem State.Agree.launchOf {s x : State} (h : s.Agree x) (r : Nat) : x.launchOf r = s.launchOf r := by
  simp [State.launchOf, State.launch, h.launches, h.launch]

theorem State.Agree.isProtected {s x : State} (h : s.Agree x) (r : Nat) : x.isProtected r = s.isProtected r := by
  simp [State.isProtected, h.launchOf]

theorem State.Agree.visLane {s x : State} (h : s.Agree x) (r : Nat) : x.visLane r = s.visLane r := by
  simp [State.visLane, h.isProtected]

theorem State.Agree.preTeam {s x : State} (h : s.Agree x) (r : Nat) : x.preTeam r = s.preTeam r := by
  simp [State.preTeam, h.issue]

theorem State.Agree.heldBlock {s x : State} (h : s.Agree x) (u r k : Nat) :
    (x.team u).heldBlock r k = (s.team u).heldBlock r k := by
  simp [Team.heldBlock, Team.groupOf, h.groups u]

theorem State.Agree.readFeed {s x : State} (h : s.Agree x) (r k i : Nat) : x.readFeed r k i = s.readFeed r k i := by
  have ho : x.ops = s.ops := congrArg (·.ops) h.rest
  have hf : x.feedOver (refTeam r) i = s.feedOver (refTeam r) i := by
    simp only [State.feedOver, State.gathering, h.issue, ho]
  simp only [State.readFeed, h.preTeam, hf]

theorem agree_readSrc {s x : State} (h : s.Agree x) (l : Lane) (a : Src) : readSrc x l a = readSrc s l a := by
  cases a <;> simp [readSrc, h.preTeam, h.visLane, h.launchOf, h.readFeed]

theorem agree_readAll {s x : State} (h : s.Agree x) (l : Lane) (srcs : List Src) (d : Dst) :
    readAll x l srcs d = readAll s l srcs d := by
  have h1 : readSrc x l = readSrc s l := funext (agree_readSrc h l)
  have h2 : checkDest x l d = checkDest s l d := by
    cases d with
    | none => rfl
    | reg r => cases r <;> simp [checkDest, h.preTeam]
  simp [readAll, h1, h2]

/-! ## One lane -/

/-- What one lane does to the state. -/
structure LaneStep (x y : State) (l : Lane) (srcs : List Src) (d : Dst) (draws : Bool) (v : Val) (g : Thread → Thread) :
    Prop where
  thread : y.thread l.ref = (g (x.thread l.ref)).named d v
  others : ∀ r, r ≠ l.ref → y.thread r = x.thread r
  extended : ∀ i b, d = .reg (.e i) → (x.team (refTeam l.ref)).heldBlock l.ref (i.val / 16) = some b →
    aget {} (y.team (refTeam l.ref)).ext (extKey b i.val (refLane l.ref)) = v
  extFrame : ∀ u k, (∀ i b, d = .reg (.e i) → refTeam l.ref = u → (x.team u).heldBlock l.ref (i.val / 16) = some b →
    k ≠ extKey b i.val (refLane l.ref)) → aget {} (y.team u).ext k = aget {} (x.team u).ext k
  feeds : (∀ i, Src.dq i ∉ srcs) → ∀ u, (y.team u).dq = (x.team u).dq
  teams : ∀ u, (y.team u).aside = (x.team u).aside
  free : draws = false → y.free = x.free
  rest : y.aside = x.aside

theorem LaneStep.agree {s x y : State} {l : Lane} {srcs : List Src} {d : Dst} {draws : Bool} {v : Val} {g : Thread → Thread}
    (h : LaneStep x y l srcs d draws v g) (hx : s.Agree x) : s.Agree y :=
  ⟨h.rest.trans hx.rest, fun u => (h.teams u).trans (hx.teams u)⟩

/-! ## Popping the sources -/

theorem modTeam_dq_frame (s : State) (u v : Nat) (f : Team → AMap Feed) :
    ((s.modTeam u fun t => { t with dq := f t }).team v).aside = (s.team v).aside ∧
    ((s.modTeam u fun t => { t with dq := f t }).team v).ext = (s.team v).ext := by
  by_cases h : v = u
  · subst h
    unfold State.modTeam
    split
    · rename_i t ht
      simp [State.team, aget, ht, Team.aside]
    · exact ⟨rfl, rfl⟩
  · rw [State.modTeam_team_ne s _ h]; exact ⟨rfl, rfl⟩

theorem modTeam_aside (s : State) (u : Nat) (f : Team → Team) : (s.modTeam u f).aside = s.aside := by
  unfold State.modTeam; split <;> rfl

/-- Popping the sources changes only feed queues of teams, and those only when a source is one. -/
structure Popped (s y : State) : Prop where
  rest : y.aside = s.aside
  threads : y.threads = s.threads
  free : y.free = s.free
  teams : ∀ u, (y.team u).aside = (s.team u).aside
  ext : ∀ u, (y.team u).ext = (s.team u).ext

theorem Popped.trans {a b c : State} (h : Popped b c) (k : Popped a b) : Popped a c :=
  ⟨h.rest.trans k.rest, h.threads.trans k.threads, h.free.trans k.free, fun u => (h.teams u).trans (k.teams u),
    fun u => (h.ext u).trans (k.ext u)⟩

theorem popSrcs_popped (srcs : List Src) (l : Lane) (s : State) : Popped s (popSrcs s l srcs) := by
  induction srcs generalizing s with
  | nil => exact ⟨rfl, rfl, rfl, fun _ => rfl, fun _ => rfl⟩
  | cons a srcs ih =>
    cases a with
    | dq i =>
      simp only [popSrcs, List.foldl_cons]
      refine Popped.trans (ih _) ?_
      split
      · exact ⟨rfl, rfl, rfl, fun _ => rfl, fun _ => rfl⟩
      · exact ⟨modTeam_aside .., State.modTeam_threads .., State.modTeam_free .., fun u => (modTeam_dq_frame s _ u _).1,
          fun u => (modTeam_dq_frame s _ u _).2⟩
    | _ => exact ih s

theorem popSrcs_none (srcs : List Src) (l : Lane) (s : State) (h : ∀ i, Src.dq i ∉ srcs) : popSrcs s l srcs = s := by
  induction srcs generalizing s with
  | nil => rfl
  | cons a srcs ih =>
    have h' : ∀ i, Src.dq i ∉ srcs := fun i hi => h i (List.mem_cons_of_mem _ hi)
    cases a with
    | dq i => exact absurd List.mem_cons_self (h i)
    | _ => exact ih s h'

theorem Popped.heldBlock {s y : State} (h : Popped s y) (u r k : Nat) :
    (y.team u).heldBlock r k = (s.team u).heldBlock r k := by
  have := congrArg (·.groups) (h.teams u)
  simp only [Team.aside] at this
  simp [Team.heldBlock, Team.groupOf, this]

/-! ## The common lane -/

/-- A thread's change followed by the write of a destination. -/
theorem laneStep_write (x : State) (l : Lane) (srcs : List Src) (d : Dst) (v : Val) (g : Thread → Thread) :
    LaneStep x (((popSrcs x l srcs).modThread l.ref g).writeDest l.ref d v) l srcs d false v g := by
  have hp := popSrcs_popped srcs l x
  have ht : ∀ r, (popSrcs x l srcs).thread r = x.thread r := fun r => by simp [State.thread, hp.threads]
  have hf : (∀ i, Src.dq i ∉ srcs) → ∀ u, ((popSrcs x l srcs).team u).dq = (x.team u).dq := fun h u => by
    rw [popSrcs_none srcs l x h]
  generalize popSrcs x l srcs = p at hp ht hf
  have hpt : ∀ u, (p.modThread l.ref g).team u = p.team u := fun u => by simp [State.team]
  cases d with
  | none =>
    refine ⟨?_, ?_, ?_, ?_, ?_, ?_, fun _ => ?_, ?_⟩
    · simp [State.writeDest_none, Thread.named, ht]
    · intro r hr; simp [State.writeDest_none, State.modThread_thread_ne p g hr, ht]
    · intro i b h; simp at h
    · intro u k _; simp [State.writeDest_none, hpt, hp.ext]
    · intro h u; simp [State.writeDest_none, hpt, hf h]
    · intro u; simp [State.writeDest_none, hpt, hp.teams]
    · exact hp.free
    · exact hp.rest
  | reg r =>
    cases r with
    | n i =>
      refine ⟨?_, ?_, ?_, ?_, ?_, ?_, fun _ => ?_, ?_⟩
      · simp [State.writeDest_n, Thread.named, ht]
      · intro r hr; simp [State.writeDest_n, State.modThread_thread_ne _ _ hr, ht]
      · intro i b h; simp at h
      · intro u k _; simp [State.writeDest_n, State.team]; simpa [State.team] using congrArg (aget {} · k) (hp.ext u)
      · intro h u; simpa [State.writeDest_n, State.team] using hf h u
      · intro u; simpa [State.writeDest_n, State.team] using hp.teams u
      · exact hp.free
      · exact hp.rest
    | e i =>
      have hh : ∀ u r k, ((p.modThread l.ref g).team u).heldBlock r k = (x.team u).heldBlock r k := fun u r k => by
        rw [hpt, hp.heldBlock]
      generalize hq : p.modThread l.ref g = q at hpt hh
      have hqt : ∀ r, q.thread r = if r = l.ref then g (x.thread l.ref) else x.thread r := fun r => by
        subst hq
        by_cases h : r = l.ref
        · subst h; simp [ht]
        · simp [State.modThread_thread_ne p g h, h, ht]
      have hqa : q.aside = x.aside := by subst hq; exact hp.rest
      have hqf : q.free = x.free := by subst hq; exact hp.free
      have hteam : ∀ t, aget? q.teams (refTeam l.ref) = some t → q.team (refTeam l.ref) = t := fun t h => by
        simp [State.team, aget, h]
      cases hb : (x.team (refTeam l.ref)).heldBlock l.ref (i.val / 16) with
      | none =>
        have hw : q.writeDest l.ref (.reg (.e i)) v = q ∨ ∃ t, aget? q.teams (refTeam l.ref) = some t ∧
            q.writeDest l.ref (.reg (.e i)) v = { q with teams := aset q.teams (refTeam l.ref) t } := by
          unfold State.writeDest State.modTeam
          simp only
          split
          · rename_i t h
            refine .inr ⟨t, h, ?_⟩
            have := hh (refTeam l.ref) l.ref (i.val / 16)
            rw [hteam t h, hb] at this
            simp [this]
          · exact .inl rfl
        have hwt : ∀ u, (q.writeDest l.ref (.reg (.e i)) v).team u = p.team u := fun u => by
          rcases hw with h | ⟨t, h, h'⟩
          · rw [h, hpt]
          · rw [h', ← hpt]
            by_cases hu : u = refTeam l.ref
            · subst hu; simp [State.team, aget, h]
            · simp [State.team, aget_aset_ne _ _ _ hu]
        refine ⟨?_, ?_, ?_, ?_, ?_, ?_, fun _ => ?_, ?_⟩
        · rcases hw with h | ⟨t, h, h'⟩
          · rw [h, hqt]; simp [Thread.named]
          · rw [h']; show q.thread l.ref = _; rw [hqt]; simp [Thread.named]
        · intro r hr
          rw [State.writeDest_thread_ne q _ v hr, hqt, if_neg hr]
        · intro j b hj hb'; cases hj; simp [hb] at hb'
        · intro u k _; rw [hwt, hp.ext]
        · intro h u; rw [hwt]; exact hf h u
        · intro u; rw [hwt]; exact hp.teams u
        · rcases hw with h | ⟨t, h, h'⟩
          · rw [h]; exact hqf
          · rw [h']; exact hqf
        · rcases hw with h | ⟨t, h, h'⟩
          · rw [h]; exact hqa
          · rw [h']; exact hqa
      | some b =>
        have hsome : ∃ t, aget? q.teams (refTeam l.ref) = some t := by
          cases hg : aget? q.teams (refTeam l.ref) with
          | some t => exact ⟨t, rfl⟩
          | none =>
            have : q.team (refTeam l.ref) = noTeam := by simp [State.team, aget, hg]
            have h2 := hh (refTeam l.ref) l.ref (i.val / 16)
            rw [this, hb] at h2
            simp [Team.heldBlock, Team.groupOf, noTeam, noGroup, Group.xmap] at h2
        obtain ⟨t, hT⟩ := hsome
        have hw : q.writeDest l.ref (.reg (.e i)) v = { q with teams :=
            (aset q.teams (refTeam l.ref) ({ t with ext := aset t.ext (extKey b i.val (refLane l.ref)) v } : Team)) } := by
          have := hh (refTeam l.ref) l.ref (i.val / 16)
          rw [hteam t hT, hb] at this
          simp [State.writeDest, State.modTeam, hT, this]
        have hwt : ∀ u, (q.writeDest l.ref (.reg (.e i)) v).team u = if u = refTeam l.ref then
            { p.team u with ext := aset (p.team u).ext (extKey b i.val (refLane l.ref)) v } else p.team u := fun u => by
          rw [hw]
          by_cases hu : u = refTeam l.ref
          · subst hu
            rw [← hpt, hteam t hT]
            simp [State.team]
          · rw [if_neg hu, ← hpt]
            simp [State.team, aget_aset_ne _ _ _ hu]
        refine ⟨?_, ?_, ?_, ?_, ?_, ?_, fun _ => ?_, ?_⟩
        · rw [hw]; show q.thread l.ref = _; rw [hqt]; simp [Thread.named]
        · intro r hr
          rw [State.writeDest_thread_ne q _ v hr, hqt, if_neg hr]
        · intro j b' hj hb'
          cases hj
          rw [hb] at hb'
          cases hb'
          rw [hwt, if_pos rfl]; simp
        · intro u k hk
          rw [hwt]
          split
          · rename_i hu
            have := hk i b rfl hu.symm (by rw [hu]; exact hb)
            rw [aget_aset_ne _ _ _ this, hp.ext]
          · rw [hp.ext]
        · intro h u; rw [hwt]; split
          · exact hf h u
          · exact hf h u
        · intro u; rw [hwt]; split
          · exact hp.teams u
          · exact hp.teams u
        · rw [hw]; exact hqf
        · rw [hw]; exact hqa

/-! ## All lanes -/

/-- What a run over some lanes has done, in terms of the state in which the instruction began. -/
structure Ran (s y : State) (ls : List Lane) (srcs : List Src) (d : Dst) (draws : Bool) (val : Lane → List Val → Val)
    (th : Lane → List Val → Thread → Thread) : Prop where
  agree : s.Agree y
  active : ∀ l ∈ ls, ∀ vs, readAll s l srcs d = .ok vs → y.thread l.ref = (th l vs (s.thread l.ref)).named d (val l vs)
  others : ∀ r, r ∉ ls.map (fun l => l.ref) → y.thread r = s.thread r
  extended : ∀ i, d = .reg (.e i) → ∀ l ∈ ls, ∀ vs, readAll s l srcs d = .ok vs → ∀ b,
    (s.team (refTeam l.ref)).heldBlock l.ref (i.val / 16) = some b →
    aget {} (y.team (refTeam l.ref)).ext (extKey b i.val (refLane l.ref)) = val l vs
  extFrame : ∀ u k, (∀ i, d = .reg (.e i) → ∀ l ∈ ls, refTeam l.ref = u → ∀ b,
      (s.team u).heldBlock l.ref (i.val / 16) = some b → k ≠ extKey b i.val (refLane l.ref)) →
    aget {} (y.team u).ext k = aget {} (s.team u).ext k
  feeds : (∀ i, Src.dq i ∉ srcs) → ∀ u, (y.team u).dq = (s.team u).dq
  free : draws = false → y.free = s.free

/-- Two extended registers share a place only when they are one. -/
theorem extKey_inj {b c i l m : Nat} (hl : l < 32) (hm : m < 32) (h : extKey b i l = extKey c i m) : b = c ∧ l = m := by
  unfold extKey at h
  omega

theorem refLane_lt (r : Nat) : refLane r < 32 := Nat.mod_lt _ (by decide)

/-- From one lane to the lanes of a bundle, in their order. -/
theorem ran_foldl {s : State} {srcs : List Src} {d : Dst} {draws : Bool} {val : Lane → List Val → Val}
    {th : Lane → List Val → Thread → Thread} {F : State → Lane → State} (hok : s.bundleOk) (hr : s.readable srcs d)
    (hF : ∀ x, s.Agree x → ∀ l ∈ s.issue.act, x.thread l.ref = s.thread l.ref → ∀ vs, readAll s l srcs d = .ok vs →
      LaneStep x (F x l) l srcs d draws (val l vs) (th l vs)) :
    ∀ (todo done : List Lane) (x : State), s.issue.act = done ++ todo → Ran s x done srcs d draws val th →
      Ran s (todo.foldl F x) s.issue.act srcs d draws val th := by
  intro todo
  induction todo with
  | nil => intro done x hs hx; rw [hs, List.append_nil]; exact hx
  | cons l todo ih =>
    intro done x hs hx
    have hmem : l ∈ s.issue.act := by rw [hs]; simp
    obtain ⟨vs, hvs⟩ := hr l hmem
    have hnd : ((done ++ l :: todo).map fun l => l.ref).Nodup := by
      have := hok.1
      simp only [State.bundleRefs, Issue.lanes, List.map_append] at this
      rw [← hs]
      exact (List.nodup_append.1 this).1
    have hne : ∀ k ∈ done, k.ref ≠ l.ref := by
      intro k hk h
      rw [List.map_append, List.nodup_append] at hnd
      exact hnd.2.2 k.ref (List.mem_map_of_mem hk) l.ref (by simp) h
    have hnotin : l.ref ∉ done.map fun l => l.ref := by
      intro h
      obtain ⟨k, hk, hkl⟩ := List.mem_map.1 h
      exact hne k hk hkl
    have st := hF x hx.agree l hmem (hx.others _ hnotin) vs hvs
    refine ih (done ++ [l]) (F x l) (by simp [hs]) ?_
    refine ⟨st.agree hx.agree, ?_, ?_, ?_, ?_, ?_, fun h => (st.free h).trans (hx.free h)⟩
    · intro k hk ws hws
      rcases List.mem_append.1 hk with hk | hk
      · rw [st.others _ (hne k hk)]; exact hx.active k hk ws hws
      · obtain rfl := List.mem_singleton.1 hk
        rw [hvs] at hws
        cases hws
        rw [st.thread, hx.others _ hnotin]
    · intro r hr'
      simp only [List.map_append, List.map_cons, List.map_nil, List.mem_append, List.mem_singleton, not_or] at hr'
      rw [st.others r hr'.2]
      exact hx.others r hr'.1
    · intro i hd k hk ws hws b hb
      rcases List.mem_append.1 hk with hk | hk
      · rw [st.extFrame, hx.extended i hd k hk ws hws b hb]
        intro j c hj ht hc
        rw [hd] at hj
        cases hj
        intro he
        obtain ⟨hbc, hll⟩ := extKey_inj (refLane_lt _) (refLane_lt _) he
        subst hbc
        rw [hx.agree.heldBlock] at hc
        refine hne k hk (hok.2 k (by rw [hs]; simp [hk]) l hmem (i.val / 16) b ht.symm hll hb ?_)
        exact hc
      · obtain rfl := List.mem_singleton.1 hk
        rw [hvs] at hws
        cases hws
        exact st.extended i b hd (by rw [hx.agree.heldBlock]; exact hb)
    · intro u k hk
      rw [st.extFrame u k, hx.extFrame u k]
      · intro i hd m hm ht b hb
        exact hk i hd m (List.mem_append_left _ hm) ht b hb
      · intro i b hd ht hb
        rw [hx.agree.heldBlock] at hb
        exact hk i hd l (by simp) ht b hb
    · intro h u
      rw [st.feeds h, hx.feeds h]

/-- The lanes whose guard is false: each pushes a copy of its q0, or nothing happens to it. -/
theorem push_foldl (ls : List Lane) (x : State) (hnd : (ls.map fun l => l.ref).Nodup) :
    let y := ls.foldl (fun s l => s.push l.ref (l.pre.q[0])) x
    (∀ l ∈ ls, y.thread l.ref = (x.thread l.ref).pushed l.pre.q[0]) ∧
    (∀ r, r ∉ ls.map (fun l => l.ref) → y.thread r = x.thread r) ∧
    y.aside = x.aside ∧ y.teams = x.teams ∧ y.free = x.free := by
  induction ls generalizing x with
  | nil => exact ⟨by simp, fun _ _ => rfl, rfl, rfl, rfl⟩
  | cons l ls ih =>
    simp only [List.map_cons, List.nodup_cons] at hnd
    obtain ⟨h1, h2, h3, h4, h5⟩ := ih (x.push l.ref (l.pre.q[0])) hnd.2
    simp only [List.foldl_cons]
    refine ⟨?_, ?_, h3, h4, h5⟩
    · intro k hk
      rcases List.mem_cons.1 hk with rfl | hk
      · rw [h2 _ hnd.1]; simp [Thread.pushed]
      · have hne : k.ref ≠ l.ref := fun h => hnd.1 (h ▸ List.mem_map_of_mem hk)
        rw [h1 k hk, State.push_thread_ne _ _ hne]
    · intro r hr
      simp only [List.map_cons, List.mem_cons, not_or] at hr
      rw [h2 r hr.2, State.push_thread_ne _ _ hr.1]

/-- The whole bundle, from one lane: for an instruction whose lanes whose guard is false push a copy of their q0 (`off`) or do
nothing. `draws` says whether lanes take free values. -/
theorem laneWise_of_lanes {s : State} {srcs : List Src} {d : Dst} (off draws : Bool) {val : Lane → List Val → Val}
    {th : Lane → List Val → Thread → Thread} {F : State → Lane → State} (hok : s.bundleOk) (hr : s.readable srcs d)
    (hF : ∀ x, s.Agree x → ∀ l ∈ s.issue.act, x.thread l.ref = s.thread l.ref → ∀ vs, readAll s l srcs d = .ok vs →
      LaneStep x (F x l) l srcs d draws (val l vs) (th l vs)) :
    s.LaneWise (if off then (s.forLanes F).pushOff else s.forLanes F) srcs d off draws val th := by
  have hran : Ran s (s.forLanes F) s.issue.act srcs d draws val th :=
    ran_foldl hok hr hF s.issue.act [] s rfl
      ⟨State.Agree.refl s, by simp, fun _ _ => rfl, by simp, fun _ _ _ => rfl, fun _ _ => rfl, fun _ => rfl⟩
  have hdis : ∀ l ∈ s.issue.off, l.ref ∉ s.issue.act.map fun l => l.ref := by
    intro l hl h
    have := hok.1
    simp only [State.bundleRefs, Issue.lanes, List.map_append] at this
    exact (List.nodup_append.1 this).2.2 _ h l.ref (List.mem_map_of_mem hl) rfl
  have hdis' : ∀ l ∈ s.issue.act, l.ref ∉ s.issue.off.map fun l => l.ref := by
    intro l hl h
    obtain ⟨k, hk, hkl⟩ := List.mem_map.1 h
    exact hdis k hk (hkl ▸ List.mem_map_of_mem hl)
  have hmem : ∀ r, r ∉ s.bundleRefs → r ∉ s.issue.act.map (fun l => l.ref) ∧ r ∉ s.issue.off.map fun l => l.ref := by
    intro r hr'
    simpa [State.bundleRefs, Issue.lanes, not_or] using hr'
  generalize s.forLanes F = y at hran ⊢
  cases off with
  | false =>
    exact ⟨hran.active, fun l hl => hran.others _ (hdis l hl), fun r hr' => hran.others r (hmem r hr').1, hran.extended,
      hran.extFrame, hran.feeds, hran.agree.teams, hran.free, hran.agree.rest⟩
  | true =>
    have hoff : (s.issue.off.map fun l => l.ref).Nodup := by
      have := hok.1
      simp only [State.bundleRefs, Issue.lanes, List.map_append] at this
      exact (List.nodup_append.1 this).2.1
    have hy : y.issue = s.issue := hran.agree.issue
    have hpush := push_foldl s.issue.off y hoff
    obtain ⟨p1, p2, p3, p4, p5⟩ := hpush
    have hteam : ∀ u, (y.pushOff).team u = y.team u := fun u => by
      simp only [State.pushOff, State.team, hy, p4]
    simp only [if_true]
    refine ⟨?_, ?_, ?_, ?_, ?_, ?_, ?_, ?_, ?_⟩
    · intro l hl vs hvs
      rw [State.pushOff, hy, p2 _ (hdis' l hl)]
      exact hran.active l hl vs hvs
    · intro l hl
      rw [State.pushOff, hy, p1 l hl, hran.others _ (hdis l hl)]
      rfl
    · intro r hr'
      rw [State.pushOff, hy, p2 _ (hmem r hr').2]
      exact hran.others r (hmem r hr').1
    · intro i hd l hl vs hvs b hb
      rw [hteam]
      exact hran.extended i hd l hl vs hvs b hb
    · intro u k hk
      rw [hteam]
      exact hran.extFrame u k hk
    · intro h u
      rw [hteam]
      exact hran.feeds h u
    · intro u
      rw [hteam]
      exact hran.agree.teams u
    · intro h
      rw [State.pushOff, hy, p5]
      exact hran.free h
    · rw [State.pushOff, hy, p3]
      exact hran.agree.rest

end Sys2Proof.Machine
end

