-- ==== Sys2Proof/Laws/Memory.lean ====
section
/-!
SUPPORT. Laws/Memory.lean: what the operations over stored words and byte memories do, and that each keeps the canonical form.
-/

namespace Sys2Proof.Machine

theorem wordBytes_length (d : Word) : (wordBytes d).length = 4 := rfl

theorem Memory.merge_wf {m : Memory} (a : Nat) (d : Word) (mask : BitVec 4) (h : Memory.wf m = true) :
    Memory.wf (Memory.merge m a d mask) = true := Memory.writeAll_wf _ _ h

/-! ## Stored words (03 R59) -/

theorem MemSys.store_wf {m : MemSys} (w : Nat) (d : Word) (c : Byte) (h : Memory.wf m.data = true) :
    Memory.wf (m.store w d c).data = true := Memory.writeAll_wf _ _ h

@[simp] theorem MemSys.store_hostmem (m : MemSys) (w : Nat) (d : Word) (c : Byte) : (m.store w d c).hostmem = m.hostmem := rfl

theorem leNat_wordBytes (d : Word) : leNat (wordBytes d) = d.toNat := by
  have h := d.isLt
  simp only [wordBytes, leNat, BitVec.toNat_setWidth, BitVec.toNat_ushiftRight, Nat.shiftRight_eq_div_pow]
  omega

@[simp] theorem MemSys.storedData_store_same (m : MemSys) (w : Nat) (d : Word) (c : Byte) : (m.store w d c).storedData w = d := by
  have h : (m.data.writeAll (4 * w) (wordBytes d)).readAll (4 * w) 4 = wordBytes d := Memory.readAll_writeAll m.data (4 * w) (wordBytes d)
  simp only [MemSys.storedData, MemSys.store, h, leNat_wordBytes, BitVec.ofNat_toNat, BitVec.setWidth_eq]

theorem Memory.readAll_congr {m n : Memory} (a k : Nat) (h : ∀ i, a ≤ i → i < a + k → m.read i = n.read i) : m.readAll a k = n.readAll a k := by
  induction k generalizing a with
  | zero => rfl
  | succ k ih =>
    simp only [Memory.readAll]
    rw [h a (Nat.le_refl a) (by omega), ih (a + 1) fun i hi hk => h i (by omega) (by omega)]

theorem MemSys.storedData_store_ne (m : MemSys) {w x : Nat} (d : Word) (c : Byte) (h : x ≠ w) :
    (m.store w d c).storedData x = m.storedData x := by
  simp only [MemSys.storedData, MemSys.store]
  rw [Memory.readAll_congr (4 * x) 4 fun i hi hk => Memory.read_writeAll_out m.data (4 * w) i (wordBytes d) (by
    rw [wordBytes_length]; omega)]

@[simp] theorem MemSys.storedCheck_store_same (m : MemSys) (w : Nat) (d : Word) (c : Byte) : (m.store w d c).storedCheck w = c := by
  simp only [MemSys.storedCheck, MemSys.storedData_store_same]
  by_cases h : c = encodeCheck (sigOf w) d
  · simp only [MemSys.store, if_pos h, aget_adel_same]
    exact h.symm
  · simp only [MemSys.store, if_neg h, aget_aset_same]

theorem MemSys.storedCheck_store_ne (m : MemSys) {w x : Nat} (d : Word) (c : Byte) (h : x ≠ w) :
    (m.store w d c).storedCheck x = m.storedCheck x := by
  simp only [MemSys.storedCheck, MemSys.storedData_store_ne m d c h]
  by_cases hc : c = encodeCheck (sigOf w) d
  · simp only [MemSys.store, if_pos hc, aget_adel_ne _ _ h]
  · simp only [MemSys.store, if_neg hc, aget_aset_ne _ _ _ h]

/-! ## Initialisation (03 R83) -/

theorem MemSys.initialise_wf {m : MemSys} (p : Nat) (keep : Bool) (h : Memory.wf m.data = true) :
    Memory.wf (m.initialise p keep).data = true :=
  Memory.filter_wf _ h

/-! ## The whole package -/

/-- What decides whether the byte memories are in canonical form. -/
theorem State.memoriesWf_congr {s t : State} (hd : t.mem.data = s.mem.data) (hh : t.mem.hostmem = s.mem.hostmem) (hb : t.hub.buf = s.hub.buf)
    (hs : t.hub.sram = s.hub.sram) (h : s.memoriesWf) : t.memoriesWf := by
  rw [State.memoriesWf] at h ⊢
  rw [hd, hh, hb, hs]
  exact h

theorem State.setThread_memoriesWf {s : State} (r : Nat) (t : Thread) (h : s.memoriesWf) : (s.setThread r t).memoriesWf :=
  State.memoriesWf_congr rfl rfl rfl rfl h

theorem State.store_memoriesWf {s : State} (w : Nat) (d : Word) (c : Byte) (h : s.memoriesWf) :
    (s.modMem fun m => m.store w d c).memoriesWf := ⟨MemSys.store_wf w d c h.1, h.2.1, h.2.2.1, h.2.2.2⟩

theorem State.initialise_memoriesWf {s : State} (p : Nat) (keep : Bool) (h : s.memoriesWf) :
    (s.modMem fun m => m.initialise p keep).memoriesWf :=
  ⟨MemSys.initialise_wf p keep h.1, h.2.1, h.2.2.1, h.2.2.2⟩

end Sys2Proof.Machine
end

