-- ==== Sys2Proof/Laws/Values.lean ====
section
/-!
SUPPORT. Laws/Values.lean: for each shared shape of the instructions that act lane by lane, all that it does to a bundle.
-/

namespace Sys2Proof.Machine

/-- A further change of the lane's thread. -/
theorem LaneStep.after {x y : State} {l : Lane} {srcs : List Src} {d : Dst} {draws : Bool} {v : Val} {g g' h : Thread → Thread}
    (st : LaneStep x y l srcs d draws v g) (hg : ∀ t, h ((g t).named d v) = (g' t).named d v) :
    LaneStep x (y.modThread l.ref h) l srcs d draws v g' := by
  have ht : ∀ u, (y.modThread l.ref h).team u = y.team u := fun u => rfl
  refine ⟨?_, ?_, st.extended, st.extFrame, st.feeds, st.teams, st.free, st.rest⟩
  · rw [State.modThread_thread, st.thread, hg]
  · intro r hr
    rw [State.modThread_thread_ne _ _ hr, st.others r hr]

/-- The step of a lane whose operands can be read, for the lanes of a bundle. -/
theorem acts_of_lanes {i : Instr} {srcs : List Src} {d : Dst} {off draws : Bool} {when_ : State → Prop}
    {val : State → Lane → List Val → Val} {th : State → Lane → List Val → Thread → Thread} {F : State → State → Lane → State}
    (hexec : ∀ s, when_ s → exec i s = .next (if off then (s.forLanes (F s)).pushOff else s.forLanes (F s)))
    (hF : ∀ s, when_ s → ∀ x, s.Agree x → ∀ l ∈ s.issue.act, x.thread l.ref = s.thread l.ref → ∀ vs,
      readAll s l srcs d = .ok vs →
      LaneStep x (F s x l) l srcs d draws (val s l vs) (th s l vs)) : Acts i srcs d off draws when_ val th :=
  fun s hok hr hw => ⟨_, hexec s hw, laneWise_of_lanes off draws hok hr (hF s hw)⟩

theorem valueLane_step {s x : State} (h : s.Agree x) {l : Lane} {srcs : List Src} {d : Dst} {vs : List Val}
    (f : List Val → Dword) (hvs : readAll s l srcs d = .ok vs) :
    LaneStep x (valueLane srcs d f x l) l srcs d false { v := f vs, psn := anyPsn vs }
      fun t => t.pushed { v := f vs, psn := anyPsn vs } := by
  rw [valueLane, agree_readAll h, hvs]
  exact laneStep_write x l srcs d _ _

/-- All that an instruction that computes a value does. -/
theorem computes_valueOp {i : Instr} {srcs : List Src} {d : Dst} {f : List Val → Dword}
    (h : ∀ s, exec i s = .next (valueOp srcs d f s)) : Computes i srcs d f :=
  acts_of_lanes (F := fun _ => valueLane srcs d f) (fun s _ => h s) fun _ _ _ hx _ _ _ _ hvs => valueLane_step hx f hvs

theorem LaneStep.raise {x y : State} {l : Lane} {srcs : List Src} {d : Dst} {draws : Bool} {v : Val} {g : Thread → Thread}
    (st : LaneStep x y l srcs d draws v g) (w : FpFlags) :
    LaneStep x (y.raise l.ref w) l srcs d draws v fun t => { g t with fpctl := (g t).fpctl ||| w.word } :=
  st.after fun t => by
    cases d with
    | none => rfl
    | reg r => cases r <;> rfl

theorem fpLane_step {s x : State} (h : s.Agree x) {l : Lane} {srcs : List Src} {d : Dst} {vs : List Val}
    (f : Thread → List Val → Nat × FpFlags) (hvs : readAll s l srcs d = .ok vs) :
    LaneStep x (fpLane srcs d f x l) l srcs d false { v := BitVec.ofNat 64 (f l.pre vs).1, psn := anyPsn vs }
      fun t => { t.pushed { v := BitVec.ofNat 64 (f l.pre vs).1, psn := anyPsn vs } with
        fpctl := t.fpctl ||| (f l.pre vs).2.word } := by
  rw [fpLane, agree_readAll h, hvs]
  exact LaneStep.raise (laneStep_write x l srcs d _ _) (f l.pre vs).2

/-- All that an instruction that computes a value and flags does. -/
theorem computesFp_fpOp {i : Instr} {srcs : List Src} {d : Dst} {f : Thread → List Val → Nat × FpFlags}
    (h : ∀ s, exec i s = .next (fpOp srcs d f s)) : ComputesFp i srcs d f :=
  acts_of_lanes (F := fun _ => fpLane srcs d f) (fun s _ => h s) fun _ _ _ hx _ _ _ _ hvs => fpLane_step hx f hvs

theorem compareLane_step {s x : State} (h : s.Agree x) {l : Lane} {sa sb : Src} {ps pd : Fin 8} {vs : List Val}
    (f : Dword → Dword → Bool) (hvs : readAll s l [sa, sb] .none = .ok vs) :
    LaneStep x (compareLane sa sb ps pd f x l) l [sa, sb] .none false {} fun t =>
      t.setPred pd (f (argAt vs 0) (argAt vs 1) && l.pre.pred ps) (anyPsn vs || l.pre.predPsn ps) := by
  rw [compareLane, agree_readAll h, hvs]
  exact laneStep_write x l [sa, sb] .none {} fun t =>
    t.setPred pd (f (argAt vs 0) (argAt vs 1) && l.pre.pred ps) (anyPsn vs || l.pre.predPsn ps)

/-- All that an integer compare does. -/
theorem writesPred_compareOp {i : Instr} {sa sb : Src} {ps pd : Fin 8} {f : Dword → Dword → Bool}
    (h : ∀ s, exec i s = .next (compareOp sa sb ps pd f s)) :
    WritesPred i [sa, sb] pd fun l vs =>
      (f (argAt vs 0) (argAt vs 1) && l.pre.pred ps, anyPsn vs || l.pre.predPsn ps) :=
  acts_of_lanes (F := fun _ => compareLane sa sb ps pd f) (fun s _ => h s) fun _ _ _ hx _ _ _ _ hvs => compareLane_step hx f hvs

theorem setPred_fpctl (t : Thread) (pd : Fin 8) (v b : Bool) : (t.setPred pd v b).fpctl = t.fpctl := by
  unfold Thread.setPred; split <;> rfl

theorem fcmpLane_step {s x : State} (h : s.Agree x) {l : Lane} {sa sb : Src} {ps pd : Fin 8} {vs : List Val} (f : Fmt) (r : FRel)
    (hvs : readAll s l [sa, sb] .none = .ok vs) :
    LaneStep x (fcmpLane f r sa sb ps pd x l) l [sa, sb] .none false {} fun t =>
      { t.setPred pd (r.holds (fpArg f l.pre vs 0) (fpArg f l.pre vs 1) && l.pre.pred ps) (anyPsn vs || l.pre.predPsn ps) with
        fpctl := t.fpctl ||| (r.flags (fpArg f l.pre vs 0) (fpArg f l.pre vs 1)).word } := by
  rw [fcmpLane, agree_readAll h, hvs]
  refine LaneStep.after (laneStep_write x l [sa, sb] .none {} fun t =>
    t.setPred pd (r.holds (fpArg f l.pre vs 0) (fpArg f l.pre vs 1) && l.pre.pred ps) (anyPsn vs || l.pre.predPsn ps)) fun t => ?_
  simp only [Thread.named, setPred_fpctl]

/-- All that a floating-point compare does. -/
theorem writesPredFp_fcmp {i : Instr} {sa sb : Src} {ps pd : Fin 8} {f : Fmt} {r : FRel}
    (h : ∀ s, exec i s = .next (s.forLanes (fcmpLane f r sa sb ps pd))) :
    WritesPredFp i [sa, sb] pd
      (fun l vs => (r.holds (fpArg f l.pre vs 0) (fpArg f l.pre vs 1) && l.pre.pred ps, anyPsn vs || l.pre.predPsn ps))
      (fun l vs => r.flags (fpArg f l.pre vs 0) (fpArg f l.pre vs 1)) :=
  acts_of_lanes (F := fun _ => fcmpLane f r sa sb ps pd) (fun s _ => h s) fun _ _ _ hx _ _ _ _ hvs => fcmpLane_step hx f r hvs

/-- A change of the thread alone, where there is nothing to read. -/
theorem acts_of_threads {i : Instr} {when_ : State → Prop} {g : State → Lane → Thread → Thread}
    (h : ∀ s, when_ s → exec i s = .next (s.forLanes fun x l => x.modThread l.ref (g s l))) :
    Acts i [] .none false false when_ (fun _ _ _ => {}) (fun s l _ => g s l) :=
  acts_of_lanes (F := fun s x l => x.modThread l.ref (g s l)) (fun s hs => h s hs) fun s _ x _ l _ _ _ _ =>
    laneStep_write x l [] .none {} (g s l)

end Sys2Proof.Machine
end

