-- ==== Sys2Proof/Tests/Slice0.lean ====
section
/-!
SUPPORT. Tests/Slice0.lean: small tests of the decoder and of single steps against examples of the manual, and for each
statement of Certificates/Slice0/Obligations.lean with hypotheses a state that meets them.
-/

open Sys2Proof Sys2Proof.Machine

namespace Sys2Proof.Tests

/-- A word is refused under a name. -/
def refuses (w : Nat) (r : Reject) : Bool :=
  match decode w with
  | .ok _ => false
  | .error x => x == r

/-! ## Well-formedness: one ill-formed instruction or word for each rule -/

theorem test_wf_slot : check (.bra 0 5) = some .slotZero ∧ check (.bra 1 5) = none := by decide
theorem test_wf_block : check (.xacq 3) = some .blockNumber ∧ check (.xacq 2) = none := by decide
theorem test_wf_rounding : check (.fadd (.n 0) (.q 0) .sr .none) = some .rounding := by decide
theorem test_wf_type : check (.qpack .f32 (.n 0) .rn .none) = some .typeCode := by decide
theorem test_wf_pair : check (.stB128 0 false (.n 0) (.n 15) 0) = some .storePair
    ∧ check (.stB128 0 false (.n 0) (.n 14) 0) = none := by decide
theorem test_wf_atomic : check (.watom 0 false (.n 0) (.n 1) 12) = some .atomicOperation := by decide
theorem test_wf_barrier : check (.cpld 0 2 false false 0 (.n 0)) = some .barrierField := by decide
theorem test_wf_class : check (.tmma 0 false 0 0 3) = some .integerClass := by decide
theorem test_wf_selector : check (.tmmaSc 0 false 0 0 0 6) = some .selector ∧ check (.tmmaSc 0 false 0 0 0 5) = none := by decide
theorem test_wf_immediate : check (.chinv false 0 3) = some .immediate := by decide
theorem test_refuse_major : refuses 0x70000000 .reservedMajor = true := by decide
theorem test_refuse_destination : refuses 0x10098403 .destination = true := by decide
theorem test_refuse_no_destination : refuses 0x0CA09000 .noDestination = true := by decide
theorem test_refuse_function : refuses 0x07C00000 .reservedFunction = true := by decide
theorem test_refuse_unused : refuses 0x05C00001 .unusedField = true := by decide

/-! ## Decoding: a word of each kind, written out from the encoding tables -/

/-- A word decodes to an instruction. -/
def reads (w : Nat) (i : Instr) : Bool :=
  match decode w with
  | .ok j => j == i
  | .error _ => false

/-- The encodings that the manual's pages 14 to 20 give as examples. -/
theorem test_decode_examples : ∀ p ∈ ([(0x045DFFFE, .brp 3 true 1 0xFFFE), (0x050B0000, .callx (.n 6)), (0x05C00000, .conv),
    (0x06800042, .trapi 0x42), (0x0A930244, .sel (.n 3) (.q 0) 2 (.reg (.n 4))), (0x08091A42, .movi 0x1234 (.reg (.n 2))),
    (0x08AB3C42, .movh1 0x5678 (.reg (.n 2))), (0x0C044045, .iadd (.n 1) (.q 0) (.reg (.n 5))),
    (0x10098443, .iaddi (.n 3) 8 (.reg (.n 3))), (0x14444982, .icmpLtI64 (.n 1) (.n 3) 0 2),
    (0x15444982, .fcmpLtF32 (.n 1) (.n 3) 0 2), (0x17000000, .voteBallot (.q 0) 0), (0x17400000, .pmovPr),
    (0x18088043, .fadd (.n 1) (.q 0) .dyn (.reg (.n 3))), (0x19488042, .fsgnCp (.n 1) (.q 0) (.reg (.n 2))),
    (0x1A888042, .hadd2Bf16 (.n 1) (.q 0) .dyn (.reg (.n 2))), (0x1C04A644, .ffma (.q 0) (.n 2) (.n 3) .dyn (.reg (.n 4))),
    (0x1B488042, .fpctl (.n 1) (.reg (.n 2))), (0x24088042, .frcp (.n 1) .dyn (.reg (.n 2)))] : List (Nat × Instr)),
    reads p.1 p.2 = true := by decide

theorem test_decode_examples_narrow : ∀ p ∈ ([(0x26E602C2, .cvt .bf16 .f32 (.q 0) .sr (.reg (.n 2))),
    (0x28980045, .amax .f32 (.q 0) (.n 5)), (0x28E20046, .dot4 (.x8 1) (.q 0) .dyn (.n 6)), (0x28224480, .qpack (.x8 1) (.n 1) .rn .none),
    (0x29424400, .fmtw 1 (.n 1)), (0x29C04400, .seed (.n 1)), (0x2C244042, .qswp2 (.n 1) (.reg (.n 2))),
    (0x2DE44042, .shflXor (.n 1) (.q 0) (.reg (.n 2))), (0x2E244000, .gredAddF32 (.n 1) .none)] : List (Nat × Instr)),
    reads p.1 p.2 = true := by decide

theorem test_decode_examples_memory : ∀ p ∈ ([(0x31409945, .ldW32 0 false (.n 3) 2 (.reg (.n 5))),
    (0x31E09800, .pref 4 false (.n 3) 0), (0x3488980F, .stB32 1 false (.n 3) (.q 0) 15), (0x38044CA0, .atomAdd 1 false (.n 3) (.n 4)),
    (0x3C813280, .wlds 0 false (.n 3) (.n 4)), (0x3D813280, .watom 0 false (.n 3) (.n 4) 0), (0x40300000, .fence 3 false),
    (0x40A11000, .mpol 2 false (.n 1)), (0x41013280, .cctl 0 false (.n 3) (.n 4)), (0x41913280, .mcst 1 false (.n 3) (.n 4)),
    (0x42013000, .pchk 0 false (.n 3)), (0x481144A8, .cpld 2 2 true false 1 (.n 5)), (0x5C113000, .coll 1 false (.n 3)),
    (0x60013000, .plc 0 false (.n 3)), (0x60800000, .plfence false)] : List (Nat × Instr)), reads p.1 p.2 = true := by decide

theorem test_decode_01 : ∀ p ∈ ([(0x04021235, .bra 2 4661),
    (0x044BB06C, .brp 1 false 3 45164),
    (0x04814EA3, .call 1 20131),
    (0x04E78000, .brx (.e 47)),
    (0x053C8000, .callx (.dq 1)),
    (0x05408000, .ret (.q 1)),
    (0x05800000, .join),
    (0x05C00000, .conv),
    (0x06000000, .yield),
    (0x06400000, .exit),
    (0x0680405B, .trapi 16475),
    (0x06C00000, .nop)] : List (Nat × Instr)), reads p.1 p.2 = true := by decide
theorem test_decode_02 : ∀ p ∈ ([(0x083E64C4, .movi 31945 (.reg (.n 4))),
    (0x088D8056, .movh1 6912 (.reg (.e 6))),
    (0x095C9B80, .movh2 47415 .none),
    (0x09ABB744, .movh3 22382 (.reg (.n 4))),
    (0x0A770056, .put .tid (.reg (.e 6))),
    (0x0ACF1600, .sel (.e 47) (.q 2) 6 .none),
    (0x0B000000, .xacq 0),
    (0x0B800100, .xrel 1)] : List (Nat × Instr)), reads p.1 p.2 = true := by decide
theorem test_decode_03 : ∀ p ∈ ([(0x0C097C80, .iadd (.e 5) (.dq 1) .none),
    (0x0C24C0C4, .isub (.n 3) (.q 1) (.reg (.n 4))),
    (0x0C5492D6, .imul (.k 2) (.e 5) (.reg (.e 6))),
    (0x0C7DC980, .imulhI64 .tid (.n 3) .none),
    (0x0C93E944, .imulhW64 (.e 47) (.k 2) (.reg (.n 4))),
    (0x0CBE7BD9, .imad (.dq 1) .tid (.e 9)),
    (0x0CC06780, .idivI64 (.q 1) (.e 47) .none),
    (0x0CE97CC4, .idivW64 (.e 5) (.dq 1) (.reg (.n 4))),
    (0x0D04C0D6, .iremI64 (.n 3) (.q 1) (.reg (.e 6))),
    (0x0D349280, .iremW64 (.k 2) (.e 5) .none),
    (0x0D5DC9C4, .iminI64 .tid (.n 3) (.reg (.n 4))),
    (0x0D73E956, .iminW64 (.e 47) (.k 2) (.reg (.e 6))),
    (0x0D9E7B80, .imaxI64 (.dq 1) .tid .none),
    (0x0DA067C4, .imaxW64 (.q 1) (.e 47) (.reg (.n 4))),
    (0x0DC94056, .iabs (.e 5) (.reg (.e 6))),
    (0x0DE4C080, .ilogAnd (.n 3) (.q 1) .none),
    (0x0E1492C4, .ilogOr (.k 2) (.e 5) (.reg (.n 4))),
    (0x0E3DC9D6, .ilogXor .tid (.n 3) (.reg (.e 6))),
    (0x0E53E900, .ilogAndn (.e 47) (.k 2) .none),
    (0x0E7E7BC4, .ishfShl (.dq 1) .tid (.reg (.n 4))),
    (0x0E8067D6, .ishfShr (.q 1) (.e 47) (.reg (.e 6))),
    (0x0EA97C80, .ishfSar (.e 5) (.dq 1) .none),
    (0x0EC4C0C4, .ishfRol (.n 3) (.q 1) (.reg (.n 4))),
    (0x0EF492D6, .lea (.k 2) (.e 5) (.reg (.e 6))),
    (0x0F1DC000, .ibitPopc .tid .none),
    (0x0F33C044, .ibitClz (.e 47) (.reg (.n 4))),
    (0x0F5E4056, .ibitCtz (.dq 1) (.reg (.e 6))),
    (0x0F604000, .ibitBrev (.q 1) .none),
    (0x0F897CC4, .bfxI64 (.e 5) (.dq 1) (.reg (.n 4))),
    (0x0FA4C0D6, .bfxW64 (.n 3) (.q 1) (.reg (.e 6))),
    (0x0FD492C5, .bfi (.k 2) (.e 5) (.n 5))] : List (Nat × Instr)), reads p.1 p.2 = true := by decide
theorem test_decode_04 : ∀ p ∈ ([(0x103B9544, .iaddi .tid 42 (.reg (.n 4))),
    (0x1067B0D6, .ilogiAnd (.e 47) 97 (.reg (.e 6))),
    (0x10BCCC00, .ilogiOr (.dq 1) 152 .none),
    (0x10C0E7C4, .ilogiXor (.q 1) 207 (.reg (.n 4))),
    (0x11128356, .ilogiAndn (.e 5) 6 (.reg (.e 6))),
    (0x11499E80, .ishfiShl (.n 3) 61 .none),
    (0x11A91A44, .ishfiShr (.k 2) 52 (.reg (.n 4))),
    (0x11FB95D6, .ishfiSar .tid 43 (.reg (.e 6))),
    (0x12279100, .ishfiRol (.e 47) 34 .none),
    (0x127C82C4, .iext (.dq 1) 5 (.reg (.n 4)))] : List (Nat × Instr)), reads p.1 p.2 = true := by decide
theorem test_decode_05 : ∀ p ∈ ([(0x140067E2, .icmpEq (.q 1) (.e 47) 6 2),
    (0x14297CB7, .icmpNe (.e 5) (.dq 1) 3 7),
    (0x1444C084, .icmpLtI64 (.n 3) (.q 1) 0 4),
    (0x147492D1, .icmpLeI64 (.k 2) (.e 5) 5 1),
    (0x149DC9A6, .icmpLtW64 .tid (.n 3) 2 6),
    (0x14B3E973, .icmpLeW64 (.e 47) (.k 2) 7 3),
    (0x151E7BC0, .fcmpEqF32 (.dq 1) .tid 4 0),
    (0x15206795, .fcmpNeF32 (.q 1) (.e 47) 1 5),
    (0x15497CE2, .fcmpLtF32 (.e 5) (.dq 1) 6 2),
    (0x1564C0B7, .fcmpLeF32 (.n 3) (.q 1) 3 7),
    (0x15949284, .fcmpUnF32 (.k 2) (.e 5) 0 4),
    (0x15BDC9D1, .fcmpEqF64 .tid (.n 3) 5 1),
    (0x15D3E926, .fcmpNeF64 (.e 47) (.k 2) 2 6),
    (0x15FE7BF3, .fcmpLtF64 (.dq 1) .tid 7 3),
    (0x160067C0, .fcmpLeF64 (.q 1) (.e 47) 4 0),
    (0x16297C95, .fcmpUnF64 (.e 5) (.dq 1) 1 5),
    (0x16400062, .plogAnd 0 6 2),
    (0x16614037, .plogOr 5 3 7),
    (0x16808004, .plogXor 2 0 4),
    (0x16A1C051, .plogAndn 7 5 1),
    (0x16DE4026, .voteAny (.dq 1) 2 6),
    (0x16E04073, .voteAll (.q 1) 7 3),
    (0x17094040, .voteBallot (.e 5) 4),
    (0x1724C015, .pmovRp (.n 3) 1 5),
    (0x17400000, .pmovPr)] : List (Nat × Instr)), reads p.1 p.2 = true := by decide
theorem test_decode_06 : ∀ p ∈ ([(0x183B8980, .fadd .tid (.q 2) .ru .none),
    (0x1867D244, .fsub (.e 47) (.n 4) .rd (.reg (.n 4))),
    (0x18BCFCD6, .fmul (.dq 1) (.n 15) .rn (.reg (.e 6))),
    (0x18C08800, .fmin (.q 1) (.q 2) .none),
    (0x1912D044, .fmax (.e 5) (.n 4) (.reg (.n 4))),
    (0x1949FC56, .fsgnCp (.n 3) (.n 15) (.reg (.e 6))),
    (0x19A90800, .fsgnCpn (.k 2) (.q 2) .none),
    (0x19FBD044, .fsgnX .tid (.n 4) (.reg (.n 4))),
    (0x1A2781D6, .frnd (.e 47) .ru (.reg (.e 6))),
    (0x1A7C8A00, .hadd2F16 (.dq 1) (.q 2) .rd .none),
    (0x1A80D0C4, .hadd2Bf16 (.q 1) (.n 4) .rn (.reg (.n 4))),
    (0x1AD2FD56, .hmul2F16 (.e 5) (.n 15) .rz (.reg (.e 6))),
    (0x1B098980, .hmul2Bf16 (.n 3) (.q 2) .ru .none),
    (0x1B690044, .fpctl (.k 2) (.reg (.n 4)))] : List (Nat × Instr)), reads p.1 p.2 = true := by decide
theorem test_decode_07 : ∀ p ∈ ([(0x1CA7C556, .ffma (.n 4) (.n 15) (.q 2) .ru (.reg (.e 6))),
    (0x1DF8A980, .hfma2F16 (.n 15) (.q 2) (.n 4) .rd .none),
    (0x1E153EC4, .hfma2Bf16 (.q 2) (.n 4) (.n 15) .rz (.reg (.n 4)))] : List (Nat × Instr)), reads p.1 p.2 = true := by decide
theorem test_decode_08 : ∀ p ∈ ([(0x20A7C556, .dfma (.n 4) (.n 15) (.q 2) .ru (.reg (.e 6))),
    (0x21F88180, .dadd (.n 15) (.q 2) .rd .none),
    (0x221500C4, .dmul (.q 2) (.n 4) .rz (.reg (.n 4)))] : List (Nat × Instr)), reads p.1 p.2 = true := by decide
theorem test_decode_09 : ∀ p ∈ ([(0x242901D6, .frcp (.k 2) .ru (.reg (.e 6))),
    (0x247B8200, .frsq .tid .rd .none),
    (0x24A780C4, .fsqrt (.e 47) .rn (.reg (.n 4))),
    (0x24FC8156, .fex2 (.dq 1) .rz (.reg (.e 6))),
    (0x25008180, .flg2 (.q 1) .ru .none),
    (0x25528244, .fsin (.e 5) .rd (.reg (.n 4))),
    (0x258980D6, .fcos (.n 3) .rn (.reg (.e 6))),
    (0x25E90100, .ftanh (.k 2) .rz .none),
    (0x26E609C4, .cvt .bf16 .f32 (.q 2) .ru (.reg (.n 4)))] : List (Nat × Instr)), reads p.1 p.2 = true := by decide
theorem test_decode_0a : ∀ p ∈ ([(0x28233E56, .qpack (.x8 1) (.e 47) .rd (.reg (.e 6))),
    (0x2863E480, .qunpk (.x8 1) (.dq 1) .rn .none),
    (0x289A0459, .amax .f16 (.q 1) (.e 9)),
    (0x28E295C5, .dot4 (.x8 1) (.e 5) .ru (.n 5)),
    (0x29224E59, .dot4Sc (.x8 1) (.n 3) .rd (.e 9)),
    (0x29454800, .fmtw 2 (.k 2)),
    (0x29860056, .fmtr 3 (.reg (.e 6))),
    (0x29C13C00, .seed (.e 47))] : List (Nat × Instr)), reads p.1 p.2 = true := by decide
theorem test_decode_0b : ∀ p ∈ ([(0x2C1E4044, .qswp1 (.dq 1) (.reg (.n 4))),
    (0x2C204056, .qswp2 (.q 1) (.reg (.e 6))),
    (0x2C494000, .qswp3 (.e 5) .none),
    (0x2C64C0C4, .qbc (.n 3) (.q 1) (.reg (.n 4))),
    (0x2C948056, .qredAddI64 (.k 2) (.reg (.e 6))),
    (0x2CBDC000, .qredAddF32 .tid .none),
    (0x2CD3C044, .qredMinI64 (.e 47) (.reg (.n 4))),
    (0x2CFE4056, .qredMaxI64 (.dq 1) (.reg (.e 6))),
    (0x2D004000, .qredMinF32 (.q 1) .none),
    (0x2D294044, .qredMaxF32 (.e 5) (.reg (.n 4))),
    (0x2D44C056, .qredAnd (.n 3) (.reg (.e 6))),
    (0x2D748000, .qredOr (.k 2) .none),
    (0x2D9DC9C4, .shflIdx .tid (.n 3) (.reg (.n 4))),
    (0x2DB3E956, .shflUp (.e 47) (.k 2) (.reg (.e 6))),
    (0x2DDE7B80, .shflDn (.dq 1) .tid .none),
    (0x2DE067C4, .shflXor (.q 1) (.e 47) (.reg (.n 4))),
    (0x2E094056, .gredAddI64 (.e 5) (.reg (.e 6))),
    (0x2E24C000, .gredAddF32 (.n 3) .none),
    (0x2E548044, .gredMinI64 (.k 2) (.reg (.n 4))),
    (0x2E7DC056, .gredMaxI64 .tid (.reg (.e 6))),
    (0x2E93C000, .gredMinF32 (.e 47) .none),
    (0x2EBE4044, .gredMaxF32 (.dq 1) (.reg (.n 4))),
    (0x2EC04056, .gredAnd (.q 1) (.reg (.e 6))),
    (0x2EE94000, .gredOr (.e 5) .none),
    (0x2F04C044, .gscanAddI64 (.n 3) (.reg (.n 4))),
    (0x2F348056, .gscanAddF32 (.k 2) (.reg (.e 6))),
    (0x2F5DC000, .gscanMaxI64 .tid .none),
    (0x2F73C044, .gscanMaxF32 (.e 47) (.reg (.n 4)))] : List (Nat × Instr)), reads p.1 p.2 = true := by decide
theorem test_decode_0c : ∀ p ∈ ([(0x303FCB56, .ldI8 7 true (.dq 1) 6 (.reg (.e 6))),
    (0x30640E80, .ldI16 4 true (.q 1) 13 .none),
    (0x308D2A44, .ldI32 1 true (.e 5) 4 (.reg (.n 4))),
    (0x30F49DD6, .ldW8 6 true (.n 3) 11 (.reg (.e 6))),
    (0x311E9100, .ldW16 3 true (.k 2) 2 .none),
    (0x3147BCC4, .ldW32 0 true .tid 9 (.reg (.n 4))),
    (0x31AE7856, .ldB64 5 true (.e 47) 0 (.reg (.e 6))),
    (0x31D7CB80, .pref 2 true (.dq 1) 7)] : List (Nat × Instr)), reads p.1 p.2 = true := by decide
theorem test_decode_0d : ∀ p ∈ ([(0x343C0CFE, .stB8 7 true (.q 1) (.e 47) 14),
    (0x34652F95, .stB16 4 true (.e 5) (.dq 1) 5),
    (0x348C981C, .stB32 1 true (.n 3) (.q 1) 12),
    (0x34F69253, .stB64 6 true (.k 2) (.e 5) 3),
    (0x351FB93A, .stB128 3 true .tid (.n 3) 10)] : List (Nat × Instr)), reads p.1 p.2 = true := by decide
theorem test_decode_0e : ∀ p ∈ ([(0x381F3E90, .atomAdd 7 true (.e 47) (.k 2)),
    (0x3833E7B8, .atomAnd 4 true (.dq 1) .tid),
    (0x38460678, .atomOr 1 true (.q 1) (.e 47)),
    (0x387A97C8, .atomXor 6 true (.e 5) (.dq 1)),
    (0x388E4C08, .atomMinI32 3 true (.n 3) (.q 1)),
    (0x38A34928, .atomMaxI32 0 true (.k 2) (.e 5)),
    (0x38D7DC98, .atomMinW32 5 true .tid (.n 3)),
    (0x38EB3E90, .atomMaxW32 2 true (.e 47) (.k 2)),
    (0x391FE7B8, .atomMinF32 7 true (.dq 1) .tid),
    (0x39320678, .atomMaxF32 4 true (.q 1) (.e 47)),
    (0x394697C8, .atomAddF32 1 true (.e 5) (.dq 1)),
    (0x397A4C08, .atomExch 6 true (.n 3) (.q 1)),
    (0x398F4929, .cas 3 true (.k 2) (.e 5) 1),
    (0x3A03DC98, .redAdd 0 true .tid (.n 3)),
    (0x3A373E90, .redAnd 5 true (.e 47) (.k 2)),
    (0x3A4BE7B8, .redOr 2 true (.dq 1) .tid),
    (0x3A7E0678, .redXor 7 true (.q 1) (.e 47)),
    (0x3A9297C8, .redMinI32 4 true (.e 5) (.dq 1)),
    (0x3AA64C08, .redMaxI32 1 true (.n 3) (.q 1)),
    (0x3ADB4928, .redMinW32 6 true (.k 2) (.e 5)),
    (0x3AEFDC98, .redMaxW32 3 true .tid (.n 3)),
    (0x3B033E90, .redMinF32 0 true (.e 47) (.k 2)),
    (0x3B37E7B8, .redMaxF32 5 true (.dq 1) .tid),
    (0x3B4A0678, .redAddF32 2 true (.q 1) (.e 47))] : List (Nat × Instr)), reads p.1 p.2 = true := by decide
theorem test_decode_0f : ∀ p ∈ ([(0x3C1A5000, .wld 1 true (.e 5)),
    (0x3CE93020, .wlds 6 true (.n 3) (.q 1)),
    (0x3D3D24A0, .wst 3 true (.k 2) (.e 5)),
    (0x3D8F7272, .watom 0 true .tid (.n 3) 18)] : List (Nat × Instr)), reads p.1 p.2 = true := by decide
theorem test_decode_10 : ∀ p ∈ ([(0x40580000, .fence 5 true),
    (0x40AF9000, .mpol 2 true (.dq 1)),
    (0x417819E0, .cctl 7 true (.q 1) (.e 47)),
    (0x41CA5F20, .mcst 4 true (.e 5) (.dq 1)),
    (0x42193000, .pchk 1 true (.n 3))] : List (Nat × Instr)), reads p.1 p.2 = true := by decide
theorem test_decode_11 : ∀ p ∈ ([(0x44329000, .binit 12 (.k 2)),
    (0x44440000, .barv 1),
    (0x44980000, .barw 6),
    (0x44EC0000, .bdrop 11),
    (0x45000800, .bwait 0 (.q 1)),
    (0x45552800, .btest 5 (.e 5)),
    (0x45A80000, .bphase 10),
    (0x45C00000, .cbar),
    (0x46000000, .gbar)] : List (Nat × Instr)), reads p.1 p.2 = true := by decide
theorem test_decode_12 : ∀ p ∈ ([(0x48D36678, .cpld 26 6 true true 1 (.e 47)),
    (0x49FDFBC8, .cpst 31 11 true true 6 (.dq 1)),
    (0x4A006C08, .cpfill 0 true true 3 (.q 1))] : List (Nat × Instr)), reads p.1 p.2 = true := by decide
theorem test_decode_13 : ∀ p ∈ ([(0x4C4C6E00, .tmma 9 true 3 1 6),
    (0x4CF51613, .tmmaSc 14 true 8 2 6 19),
    (0x4D1DBE00, .tmms 3 true 13 3 6 0),
    (0x4DC64000, .tzero 8 true 18),
    (0x4E6EE800, .tlda 13 true 23 1),
    (0x4E979600, .tdrain 2 true 28 2 6),
    (0x4F3C0000, .tshape 7 true)] : List (Nat × Instr)), reads p.1 p.2 = true := by decide
theorem test_decode_14 : ∀ p ∈ ([(0x5001C0A5, .zset 7 true (.e 5)),
    (0x50832280, .zlog 0 12 8 2 true),
    (0x51004080, .ztst 1 true),
    (0x51E800F7, .hld 26 true .tid),
    (0x527EC0CF, .hset 31 11 true (.e 47)),
    (0x52900080, .hrd 4 0 true)] : List (Nat × Instr)), reads p.1 p.2 = true := by decide
theorem test_decode_15 : ∀ p ∈ ([(0x5401033C, .apgo true (.q 1) (.e 47)),
    (0x548B4BE7, .gath 0 5 true (.e 5) (.dq 1) true true),
    (0x55552605, .scat 5 2 true (.n 3) (.q 1) true),
    (0x55A1A494, .dqsend 2 true (.k 2) (.e 5)),
    (0x56710000, .dqcnt 7 true),
    (0x56C10000, .gvalid 4 true),
    (0x57010000, .apwait true)] : List (Nat × Instr)), reads p.1 p.2 = true := by decide
theorem test_decode_16 : ∀ p ∈ ([(0x586CEE00, .chrun 13 true 7 1 6),
    (0x58841600, .chpre true 2 6),
    (0x59041802, .chinv true 3 2),
    (0x59840600, .chrd true 0 6)] : List (Nat × Instr)), reads p.1 p.2 = true := by decide
theorem test_decode_17 : ∀ p ∈ ([(0x5C2F7000, .coll 2 true .tid),
    (0x5CFCF000, .collst 7 true (.e 47))] : List (Nat × Instr)), reads p.1 p.2 = true := by decide
theorem test_decode_18 : ∀ p ∈ ([(0x604F9000, .plc 4 true (.dq 1)),
    (0x60880000, .plfence true)] : List (Nat × Instr)), reads p.1 p.2 = true := by decide
theorem test_decode_19 : ∀ p ∈ ([(0x64128000, .launch (.e 5)),
    (0x64498000, .launchw (.n 3)),
    (0x64898000, .lstat (.n 3) 0)] : List (Nat × Instr)), reads p.1 p.2 = true := by decide
theorem test_decode_1a : ∀ p ∈ ([(0x68000000, .castb),
    (0x68400000, .castc),
    (0x68800000, .castq),
    (0x68C08000, .errq (.q 1))] : List (Nat × Instr)), reads p.1 p.2 = true := by decide
theorem test_decode_1b : ∀ p ∈ ([(0x6C000011, .sysrd 17),
    (0x6C498020, .syswr (.n 3) 32),
    (0x6CA90001, .tlbinv (.k 2) 1),
    (0x6CC00001, .trapret 1),
    (0x6D000001, .wearrd 1),
    (0x6D400000, .halt)] : List (Nat × Instr)), reads p.1 p.2 = true := by decide

/-! ## Values: the manual's own examples -/

/-- The thread that the placed machine runs, with its registers n0, n1 and n2. -/
def withRegs (a b c : Dword) (t : Thread) : Thread :=
  { t with n := ((t.n.set 0 { v := a }).set 1 { v := b }).set 2 { v := c } }

/-- The state after one step. -/
def ran (s : State) : State :=
  match step s with
  | .next t => t
  | .fault _ => State.reset
  | .refused _ => State.reset

/-- The thread after the step that runs an instruction. -/
def after (i : Instr) (f : Thread → Thread) : Thread :=
  match encode i with
  | some w => (ran ((placeWith State.reset false (BitVec.ofNat 32 w)).modThread (laneRef 1 0 0) f)).thread (laneRef 1 0 0)
  | none => {}

/-- The value that an instruction pushes. -/
def pushes (i : Instr) (a b c : Dword) : Dword := (after i (withRegs a b c)).q[0].v

/-- 16 R340: −7 divided by 2. -/
theorem test_divide_signed : pushes (.idivI64 (.n 0) (.n 1) .none) (-7) 2 0 = -3 ∧ pushes (.iremI64 (.n 0) (.n 1) .none) (-7) 2 0 = -1 := by
  decide

/-- 16 R340: 7 divided by 0. -/
theorem test_divide_by_zero : pushes (.idivW64 (.n 0) (.n 1) .none) 7 0 0 = 0xFFFFFFFFFFFFFFFF
    ∧ pushes (.iremW64 (.n 0) (.n 1) .none) 7 0 0 = 7 := by decide

/-- 16 R341. -/
theorem test_field_extract : pushes (.bfxI64 (.n 0) (.n 1) .none) 0xF00 0x408 0 = -1
    ∧ pushes (.bfxW64 (.n 0) (.n 1) .none) 0xF00 0x408 0 = 15 := by decide

/-- 16 R341; the destination is the third source. -/
theorem test_field_insert : (after (.bfi (.n 0) (.n 1) (.n 2)) (withRegs 5 0x304 0)).n[2].v = 0x50 := by decide

/-- 14, the example of a 64-bit constant: the second push reads the first. -/
theorem test_constant : (after (.movh1 0x5678 (.reg (.n 2))) fun t => { t with q := t.q.set 0 { v := 0x1234 } }).n[2].v
    = 0x56781234 := by decide

/-- 17 R351: FRND.rd of −2.5 gives −3.0 with NX. -/
theorem test_frnd : (let t := after (.frnd (.n 0) .rd .none) (withRegs 0xC0200000 0 0)
    (t.q[0].v, t.fpctl)) = (0xC0400000, 0x1000) := by decide

/-- The code and the flags of a conversion from f32. -/
def converts (ty : Ty) (rm : Rm) (x : Dword) (f : Word) : Dword × Word :=
  let t := after (.cvt ty .f32 (.n 0) rm .none) fun t => { withRegs x 0 0 t with f := Vector.replicate 4 f }
  (t.q[0].v, t.fpctl)

/-- 10 R216, the example: 0.3 in two modes, 460.0, 500.0, −0.001 and a NaN. -/
theorem test_narrow_float : converts (.x8 1) .rn 0x3E99999A 0x07020341 = (0x2A, 0x1000)
    ∧ converts (.x8 1) .rz 0x3E99999A 0x07020341 = (0x29, 0x1000) ∧ converts (.x8 1) .rn 0x43E60000 0x07020341 = (0x7E, 0x1000)
    ∧ converts (.x8 1) .rn 0x43FA0000 0x07020341 = (0x7E, 0x1400) ∧ converts (.x8 1) .rn 0xBA83126F 0x07020341 = (0x81, 0x1800)
    ∧ converts (.x8 1) .rn 0x7FC00000 0x07020341 = (0x7F, 0x100) := by decide

/-- 10 R218, the example: 2.2, 1.0, −1.0 and 9.0 to h4. -/
theorem test_half_int : converts .h4 .rn 0x400CCCCD 0x40000 = (0x2, 0x1000) ∧ converts .h4 .rn 0x3F800000 0x40000 = (0x0, 0x1000)
    ∧ converts .h4 .rn 0xBF800000 0x40000 = (0xF, 0x1000) ∧ converts .h4 .rn 0x41100000 0x40000 = (0x7, 0x1100) := by decide

/-- 10 R219, the example: a stochastic conversion to bf16. -/
theorem test_stochastic : (let t := after (.cvt .bf16 .f32 (.n 0) .sr .none) fun t => { withRegs 0x3F804000 0 0 t with sr := 1 }
    (t.q[0].v, t.sr, t.fpctl)) = (0x3F80, 0x00042021, 0x1000) := by decide

/-- 17 R370, the example: 2^24 in lane 0 and 1.0 in lanes 1 to 3. -/
theorem test_reduction : (let ps : List Part := (List.range 32).map fun l =>
      { v := if l = 0 then 0x4B800000 else if l < 4 then 0x3F800000 else 0 }
    (([1, 2, 4, 8, 16] : List Nat).foldl (redLevel .addF32 {}) ps).all fun p => p.v == 0x4B800001 && p.fl.nx) = true := by decide

/-- 10 R222, the first example: products of 4096 that cancel leave the small one. -/
theorem test_block_sum : accumulate false (fun _ => none)
    ([0x4580, 0x3F80, 0xC580].map fun c => some (fmtB16.decode false c)) ([0x4580, 0x3F80, 0x4580].map fun c => some (fmtB16.decode false c))
    0 = 0x3F800000 := by decide

/-- 10 R222, the second example: a scaled block, a masked block with a NaN scale, and a subnormal code. -/
theorem test_scaled_blocks : (let x (c : Nat) : Option Machine.Num := some ((Ty.x8 1 |> tyClass { f := Vector.replicate 4 0x07020341 }).decode false c)
    let none16 : List (Option Machine.Num) := List.replicate 16 none
    accumulate false (fun b => some (if b = 0 then (126, 129) else if b = 1 then (255, 127) else (147, 127)))
      ([x 0x3C, x 0x40] ++ List.replicate 14 none ++ none16 ++ [x 0x01]) ([x 0x44, x 0xA8] ++ List.replicate 14 none ++ none16 ++ [x 0x38])
      0x3F800000) = 0x45009000 := by decide

/-- 03 R59 to R64, the example. -/
theorem test_error_code : sigOf 0x10000030 = 0x1E ∧ hTimes 0x3F800000 = 0xB9 ∧ encodeCheck 0x1E 0x3F800000 = 0xA7
    ∧ syndrome 0x1E 0x3B800000 0xA7 = 0x54 ∧ judge 0x1E 0x3B800000 0xA7 = .fixed 0x3F800000
    ∧ syndrome (sigOf 0x10000031) 0x3F800000 0xA7 = 0x81 ∧ judge (sigOf 0x10000031) 0x3F800000 0xA7 = .bad := by decide

/-- 08 R173, the example. -/
theorem test_eviction_class : classOf 0xC0401800 0x10000030 = .normal := by decide

set_option maxRecDepth 4000 in
/-- 01 R28, the example: three quarters of a sample at 0.80 V and 95 °C, to the four figures that it gives. -/
theorem test_accrual : accrual 800 95 3 4 / 1000 = 23185 := by decide

/-- 06 R160, the example: the shapes of groups with 5, 17, 0 and 130 rows. -/
theorem test_shapes : ([5, 17, 0, 130].map shapeM) = [8, 32, 8, 64] := by decide

/-- 06 R127, the example: cores 3, 7 and 12 of die 1, two teams of four groups. -/
theorem test_scores : (let groups (n : Nat) : List Group := List.replicate n { la := 0, slot := 0 }
    let team (c n : Nat) : Team := { noTeam with core := 40 + c, groups := groups n }
    let s : State := { State.reset with teams := [(1, team 3 24), (2, team 7 16), (3, team 12 4)],
                                        wear := { recs := [(47, { life := 900 }), (52, { state := .derated, life := 180 })] } }
    (s.coreScore 43 4, s.coreScore 47 4, s.coreScore 47 8, s.coreScore 52 4)) = (300, 400, 300, -20) := by decide

/-- 16 R327: SEL reads the predicate; 07 R156: an unset predicate picks the second source. -/
theorem test_select : pushes (.sel (.n 0) (.q 0) 2 .none) 7 0 0 = 0 ∧ pushes (.sel (.n 0) (.q 0) 0 .none) 7 0 0 = 7 := by decide

/-- 13 R273, 15 R332: TRAPI enters the handler at slot 1 of its packet with the cause SOFTWARE. -/
theorem test_trap : (let t := after (.trapi 0x42) id
    (t.xcause, t.xinfo, t.handler, t.pc, t.xpc)) = (0x0F, 0x42, true, 65540, 65540) := by decide

/-- 13 R275: TRAPRET outside handler mode traps PRIVILEGED. -/
theorem test_trapret : (after (.trapret 0) id).xcause = 0x10 := by decide

/-- 18 R382: the signed minimum and the compare and swap. -/
theorem test_atomics : atomNew 4 0xFFFFFFFF 1 0 = 0xFFFFFFFF ∧ atomNew 6 0xFFFFFFFF 1 0 = 1 ∧ atomNew 12 5 5 9 = 9
    ∧ atomNew 12 5 6 9 = 5 := by decide

/-- The words of a record of 128 bytes whose given words are set. -/
def recordOf (ws : List (Nat × Word)) : List Word := (List.range 32).map fun i => ((ws.find? fun p => p.1 = i).map (·.2)).getD 0

/-- The record of the example of a copy at the edge of a tensor (11). -/
def edgeRecord : List Word :=
  recordOf [(0, 0x00100000), (1, 0x00007F00), (2, 0x00000200), (3, 0x00080000), (4, 0x00000020), (8, 40), (9, 20), (16, 160)]

/-- The copy of that example. -/
def edgeCopy : CopyOp :=
  { kind := .cpld, team := 1, core := 0, kid := 1, flag := 15, lanes := [], bar := some 2, pol := 0, rc := edgeRecord, coord := 0x10000020 }

/-- 11 R242, the example: 32 words in bounds, the first at BASE + 0xA80, and 128 bytes. -/
theorem test_copy_edge : recordOk edgeRecord = true ∧ edgeCopy.count = 128 ∧ edgeCopy.pieces.length = 32
    ∧ (edgeCopy.pieces.map (·.va)).head? = some 0x7F0000100A80 := by decide

/-! ## Witnesses: states and operands that meet the hypotheses of the statements -/

/-- The lane of the placed machine, with its thread before the chain. -/
def lane (t : Thread) : Lane := { ref := laneRef 1 0 0, pre := t }

/-- The placed machine in the chain of its one thread. -/
def one (t : Thread) : State :=
  let s := (placeWith State.reset false 0).setThread (laneRef 1 0 0) t
  { s with tlbs := [(0, [placeTlb]), (2, [placeTlb]), (3, [placeTlb])],
           issue := { act := [lane t], full := [lane t], all := [laneRef 1 0 0], first := 1, teams := s.teams, pc := 65540, here := 65540 } }

/-- A thread whose n0 holds the address of the placed packet. -/
def addressed : Thread := withRegs 65536 0 0 { pc := 65544 }

/-- A computation succeeds. -/
def isOk {ε α : Type} : Except ε α → Bool
  | .ok _ => true
  | .error _ => false

theorem ok_of {ε α : Type} {x : Except ε α} (h : isOk x = true) : ∃ a, x = .ok a := by
  cases x with
  | ok a => exact ⟨a, rfl⟩
  | error e => cases h

theorem ok_pair {ε α β : Type} {x : Except ε α × β} (h : isOk x.1 = true) : ∃ a b, x = (.ok a, b) := by
  obtain ⟨a, ha⟩ := ok_of h
  exact ⟨a, x.2, by rw [← ha]⟩

theorem single {s : State} {l : Lane} {P : Lane → Prop} (h : s.issue.act = [l]) (hp : P l) : ∀ k ∈ s.issue.act, P k := by
  intro k hk
  rw [h, List.mem_singleton] at hk
  exact hk ▸ hp

theorem single_bundle {s : State} {l : Lane} (h : s.issue.act = [l]) (ho : s.issue.off = []) : s.bundleOk := by
  refine ⟨by simp [State.bundleRefs, Issue.lanes, h, ho], fun k hk j hj => ?_⟩
  rw [h, List.mem_singleton] at hk hj
  intros
  rw [hk, hj]

theorem single_readable {s : State} {l : Lane} {srcs : List Src} {d : Dst} (h : s.issue.act = [l])
    (hr : isOk (readAll s l srcs d) = true) : s.readable srcs d := single h (ok_of hr)

theorem one_bundle (t : Thread) : (one t).bundleOk := single_bundle (l := lane t) rfl rfl

theorem one_readable {t : Thread} {srcs : List Src} {d : Dst} (hr : isOk (readAll (one t) (lane t) srcs d) = true) :
    (one t).readable srcs d := single_readable (l := lane t) rfl hr

theorem witness_IntegerInstructions : (one {}).bundleOk ∧ (one {}).readable [.n 0, .q 1, .n 2] (.reg (.n 2)) :=
  ⟨one_bundle _, one_readable (by decide)⟩

theorem witness_Moves : (one {}).bundleOk ∧ (one {}).readable [.n 0, SSrc.long (.q 1)] (.reg (.n 15)) :=
  ⟨one_bundle _, one_readable (by decide)⟩

theorem witness_Predicates : (one {}).bundleOk ∧ (one {}).readable [.n 15, .q 15] .none := ⟨one_bundle _, one_readable (by decide)⟩

theorem witness_FloatInstructions : (one {}).bundleOk ∧ (one {}).readable [.q 0, .q 1, .q 2] (.reg (.n 0)) :=
  ⟨one_bundle _, one_readable (by decide)⟩

theorem witness_FloatInstructions_sign : ∃ sign : Bool → Bool → Bool, Instr.fsgnX (.n 1) (.q 0) .none = .fsgnX (.n 1) (.q 0) .none
    ∧ sign = (fun u v => u ^^ v) := ⟨_, rfl, rfl⟩

/-- A thread whose f1 holds the format of 10 R216. -/
def formatted : Thread := { f := Vector.replicate 4 0x07020341 }

theorem witness_NarrowFormats : (one formatted).bundleOk ∧ (one formatted).readable [.q 0, .n 1] .none
    ∧ formatsValid [.x8 1, .f32] (one formatted) := by
  refine ⟨one_bundle _, one_readable (by decide), single (l := lane formatted) rfl fun y hy w h => ?_⟩
  rcases List.mem_cons.mp hy with rfl | hy
  · have valid : (tyFormat (lane formatted).pre (.x8 1)).map (·.2) = some true := by decide
    rw [h] at valid
    cases valid
  · rw [List.mem_singleton] at hy; subst hy; cases h

theorem witness_NarrowFormats_invalid : badFormat [.x8 1] (one {}).issue.act = some 0 := by decide

theorem witness_QuadOperations : (one {}).bundleOk ∧ (one {}).readable [.n 0, .n 1] .none ∧ quadReady (.n 0) (one {})
    ∧ ∀ l ∈ (one {}).issue.act, ∀ j < 4, ((one {}).memberRead (one {}) ((one {}).quadRef l.ref j) (.n 0)).1 ≠ none := by
  refine ⟨one_bundle _, one_readable (by decide), single (l := lane {}) rfl ?_, single (l := lane {}) rfl (by decide)⟩
  intro j hj
  match j, hj with
  | 0, _ => exact ⟨{}, rfl⟩
  | 1, _ => exact ⟨{}, rfl⟩
  | 2, _ => exact ⟨{}, rfl⟩
  | 3, _ => exact ⟨{}, rfl⟩

theorem witness_FormsComplete_quads : (one {}).bundleOk ∧ (one {}).readable [.n 0] (.reg (.n 1))
    ∧ (∀ l ∈ (one {}).issue.act, ∀ j < 4, (one {}).memberRead (one {}) ((one {}).quadRef l.ref j) (.n 0) = (some {}, one {}))
    ∧ readAll (one {}) (lane {}) [.n 0, .n 1] (.reg (.n 1)) = .ok [{}, {}] := by
  refine ⟨one_bundle _, one_readable (by decide), single (l := lane {}) rfl ?_, rfl⟩
  intro j hj
  match j, hj with
  | 0, _ => rfl
  | 1, _ => rfl
  | 2, _ => rfl
  | 3, _ => rfl

theorem witness_CrossbarInstructions : (one {}).bundleOk ∧ (one {}).readable [.n 0, .n 1] (.reg (.n 1)) ∧ (one {}).groupsWhole = true :=
  ⟨one_bundle _, one_readable (by decide), by decide⟩

/-- A second live thread of the group, elsewhere. -/
def apart : State := (one {}).setThread (laneRef 1 0 31) {}

theorem witness_CrossbarInstructions_apart : apart.groupsWhole = false := by decide

theorem witness_Votes : (one {}).bundleOk ∧ (one {}).readable [.n 0] .none := ⟨one_bundle _, one_readable (by decide)⟩

theorem witness_ControlTransfers : (one addressed).bundleOk ∧ (one addressed).readable [.n 0] .none
    ∧ (∀ l ∈ (one addressed).issue.act, refKind l.ref ≠ .ap ∧ l.pre.predPsn 7 = false)
    ∧ ∀ l ∈ (one addressed).issue.act, ∀ vs, readAll (one addressed) l [.n 0] .none = .ok vs →
        anyPsn vs = false ∧ ((argAt vs 0).setWidth 57).signExtend 64 = argAt vs 0 ∧ (argAt vs 0).toNat % 4 = 0
          ∧ (one addressed).pairTargets l (.n 0) = false := by
  refine ⟨one_bundle _, one_readable (by decide), single (l := lane addressed) rfl (by decide), single (l := lane addressed) rfl ?_⟩
  intro vs h
  have : vs = [{ v := 65536 }] := by injection h with h; exact h.symm
  subst this
  decide

/-- The access-processor program of the placed team, in a chain of its own. -/
def apLane (t : Thread) : Lane := { ref := apRef 1, pre := t }

/-- The placed machine in a chain of that program. -/
def apOne (t : Thread) : State :=
  let s := (placeWith State.reset true 0).setThread (apRef 1) t
  { s with tlbs := [(0, [placeTlb]), (2, [placeTlb]), (3, [placeTlb])],
           issue := { act := [apLane t], full := [apLane t], all := [apRef 1], first := 1, teams := s.teams, pc := 65540, here := 65540 } }

/-- A chain of the hub's steward. -/
def stewOne (t : Thread) : State :=
  { State.reset with threads := [(stewRef 0, t)],
                     issue := { act := [{ ref := stewRef 0, pre := t }], all := [stewRef 0], first := 1, pc := 4, here := 4 } }

/-- The placed machine with its team changed. -/
def teamOne (t : Thread) (f : Team → Team) : State :=
  let s := (one t).modTeam 1 f
  { s with issue := { s.issue with teams := s.teams } }

theorem witness_ControlTransfers_branch : (apOne {}).issue.act = [apLane {}] ∧ refKind (apLane {}).ref = .ap
    ∧ (apLane {}).pre.predPsn 0 = false ∧ aget? (apOne {}).teams (refTeam (apLane {}).ref) = some (placeTeam true)
    ∧ (placeTeam true).ap.branches.length < 8 := by decide

/-- Both the rendezvous of JOIN at the last slot of a packet and the group that meets there. -/
def met (k : Bool) : State := (one {}).setThread (laneRef 1 0 0) { pc := 65548, park := .meet k }

theorem witness_Rendezvous : (one {}).bundleOk ∧ (one {}).readable [] .none ∧ aget? (met true).teams 1 = some (placeTeam false)
    ∧ 0 < (placeTeam false).groups.length ∧ (met true).liveRefs 1 0 ≠ []
    ∧ (∀ r ∈ (met true).liveRefs 1 0, ((met true).thread r).park = .meet true ∧ ((met true).thread r).pc = 65548)
    ∧ ∀ p ∈ (met true).ops, p.2.unchecked 1 0 = false :=
  ⟨one_bundle _, one_readable (by decide), by decide⟩

theorem witness_SoftwareTrap : (one {}).bundleOk ∧ (∀ l ∈ (one {}).issue.act, refKind l.ref = .lane ∧ l.pre.handler = false ∧ ((one {}).launchOf l.ref).rc.trap ≠ 0)
    ∧ (one { handler := true }).bundleOk ∧ (∀ l ∈ (one { handler := true }).issue.act, refKind l.ref = .lane ∧ l.pre.handler = true) :=
  ⟨one_bundle _, by decide, one_bundle _, by decide⟩

/-- The placed machine whose launch names no handler. -/
def unhandled : State := (one {}).modLaunch 1 fun l => { l with rc := { l.rc with trap := 0 } }

theorem witness_SoftwareTrap_unhandled : unhandled.bundleOk
    ∧ ∀ l ∈ unhandled.issue.act, refKind l.ref = .lane ∧ l.pre.handler = false ∧ (unhandled.launchOf l.ref).rc.trap = 0 :=
  ⟨single_bundle (l := lane {}) rfl rfl, by decide⟩

theorem witness_SoftwareTrap_others : (stewOne {}).bundleOk ∧ (∀ l ∈ (stewOne {}).issue.act, refKind l.ref = .steward)
    ∧ (apOne {}).bundleOk ∧ (apOne {}).issue.act = [apLane {}] ∧ refKind (apLane {}).ref = .ap
    ∧ aget? (apOne {}).teams 1 = some (placeTeam true) ∧ (placeTeam true).ap.branches = [] :=
  ⟨single_bundle (l := { ref := stewRef 0, pre := {} }) rfl rfl, by decide, single_bundle (l := apLane {}) rfl rfl, by decide⟩

theorem witness_LaneLeaves : refKind (lane {}).ref ≠ .ap := by decide

theorem witness_ExitEndsThread : (one {}).quantumPending (lane {}).ref = false ∧ (one {}).quantumPending (lane {}).ref true = false
    ∧ refKind (lane {}).ref = .lane ∧ (stewOne {}).quantumPending (stewRef 0) true = false
    ∧ (∀ r ∈ ((one {}).team (refTeam (lane {}).ref)).xwait, refKind r = .lane ∧ r ≠ (lane {}).ref)
    ∧ (stewOne {}).quantumPending (stewRef 0) = false ∧ refKind (stewRef 0) = .steward := by decide

/-- A quantum load that an earlier chain has begun. -/
def quantumReq : Req := { ref := laneRef 1 0 0, flag := 15, kind := .load 4 false, core := 0, kid := 1, pol := 0x300, va := 0, off := 0, locs := [] }

theorem witness_ExitEndsThread_waits : ({ one {} with reqs := [(0, quantumReq)] } : State).quantumPending (lane {}).ref = true := by decide

theorem witness_ExitEndsThread_own : ({ one {} with reqs := [(5, quantumReq)] } : State).quantumPending (lane {}).ref = false
    ∧ ({ one {} with reqs := [(5, quantumReq)] } : State).quantumPending (lane {}).ref true = true ∧ refKind (lane {}).ref ≠ .ap := by decide

theorem witness_ExitEndsThread_leaves : aget? (one { park := .leaving }).threads (lane {}).ref = some { park := .leaving }
    ∧ (one { park := .leaving }).quantumPending (lane {}).ref true = false ∧ refKind (lane {}).ref = .lane
    ∧ (∀ p ∈ (one { park := .leaving }).threads, p.2.park = .leaving → p.1 = (lane {}).ref)
    ∧ (one { park := .leaving }).threads.Pairwise fun a b => a.1 < b.1 := by decide

theorem witness_ExtendedBlocks : (one {}).team 1 = placeTeam false ∧ aget? (one {}).teams (refTeam (lane {}).ref) = some (placeTeam false)
    ∧ refGrp (lane {}).ref < (placeTeam false).groups.length ∧ ((one {}).team 1).heldBlock (lane {}).ref 2 = none
    ∧ (placeTeam false).xpool = 0 := by decide

/-- The placed team with a pool of one block, mapped as block 0 of the group when `k` holds. -/
def pooled (k : Bool) (t : Team) : Team :=
  if k then { t with xpool := 1, groups := [{ la := 0, slot := 0, x0 := some { phys := 0, holders := 1 } }] } else { t with xpool := 1 }

theorem witness_ExtendedBlocks_pool : ((teamOne {} (pooled false)).team 1).heldBlock (lane {}).ref 0 = none
    ∧ ((teamOne {} (pooled false)).team 1).xpool ≠ 0 ∧ ((teamOne {} (pooled false)).team 1).freeBlocks = [0]
    ∧ (((teamOne {} (pooled false)).team 1).groupOf (lane {}).ref).xmap 0 = none
    ∧ ((teamOne {} (pooled true)).team 1).heldBlock (lane {}).ref 0 = some 0 := by decide

theorem witness_ExtendedBlocks_wait : ((teamOne {} (pooled true)).team 1).heldBlock (lane {}).ref 2 = none
    ∧ ((teamOne {} (pooled true)).team 1).xpool ≠ 0 ∧ (((teamOne {} (pooled true)).team 1).groupOf (lane {}).ref).xmap 2 = none
    ∧ ((teamOne {} (pooled true)).team 1).freeBlocks = [] := by decide

/-- A thread with the address of the placed packet in n0 and one policy word in every policy register. -/
def memThread (p : Word) : Thread := { addressed with m := Vector.replicate 8 p }

/-- A computation succeeds with a value. -/
def okIs {ε α : Type} [DecidableEq α] (x : Except ε α) (a : α) : Bool :=
  match x with
  | .ok b => decide (b = a)
  | .error _ => false

theorem ok_eq {ε α β : Type} [DecidableEq α] {x : Except ε α × β} {a : α} (h : okIs x.1 a = true) : x = (.ok a, x.2) := by
  obtain ⟨e, y⟩ := x
  cases e with
  | error e => cases h
  | ok b => rw [of_decide_eq_true h]

theorem error_of {ε α : Type} {x : Except ε α} (h : isOk x = false) : ∃ e, x = .error e := by
  cases x with
  | error e => exact ⟨e, rfl⟩
  | ok b => cases h

theorem error_pair {ε α β : Type} {x : Except ε α × β} (h : isOk x.1 = false) : ∃ e y, x = (.error e, y) := by
  obtain ⟨e, y⟩ := x
  cases e with
  | error e => exact ⟨e, y, rfl⟩
  | ok b => cases h

/-- The access of four bytes through n0 under a policy word. -/
def reached (p : Word) (write : Bool) : Except Excuse (List Loc) × State := (one (memThread p)).reach (lane (memThread p)) p 65536 4 write

theorem witness_LoadsBegin : (∀ l ∈ (one addressed).issue.act, policyOk .load (l.pol 0) = true) ∧ (one addressed).shadowed (lane addressed) = false
    ∧ readAll (one addressed) (lane addressed) [.n 0] .none = .ok [{ v := 65536 }] ∧ anyPsn [{ v := 65536 }] = false
    ∧ reached 0 false = (.ok [.dev 16384], (reached 0 false).2) :=
  ⟨by decide, by decide, rfl, by decide, ok_eq (by decide)⟩

theorem witness_LoadsBegin_refused : policyOk .load ((lane (memThread 7)).pol 0) = false ∧ policyOk .check ((lane (memThread 7)).pol 0) = false := by
  decide

/-- A load under way. -/
def loadReq : Req := { ref := laneRef 1 0 0, flag := 0, kind := .load 4 true, core := 0, kid := 1, pol := 0, va := 65536, off := 0, locs := [.dev 16384] }

/-- Its reply is next. -/
def replying : State := { one (memThread 0) with reqs := [(9, loadReq)], ev := { id := 9 } }

theorem witness_LoadReplies : aget? replying.reqs replying.ev.id = some loadReq
    ∧ replying.replyHold loadReq (replying.again .memoryReply) = none ∧ loadReq.kind = .load 4 true ∧ loadReq.flag < 12
    ∧ laneRef 1 0 0 ∈ replying.served loadReq.ref ++ loadReq.lanes := by decide

/-- The same with a check under way. -/
def checking : State := { replying with reqs := [(9, { loadReq with kind := .check })] }

theorem witness_LoadReplies_check : aget? checking.reqs checking.ev.id = some { loadReq with kind := .check }
    ∧ checking.replyHold { loadReq with kind := .check } (checking.again .memoryReply) = none := by decide

theorem witness_StoresBegin : (∀ l ∈ (one (memThread 0)).issue.act, policyOk .store (l.pol 0) = true)
    ∧ readConsumed (one (memThread 0)) (lane (memThread 0)) [.n 0, .n 1] = .ok [{ v := 65536 }, {}]
    ∧ (one (memThread 0)).pairDiffersBy (lowData 32) (lane (memThread 0)) [.n 0, .n 1] = false ∧ (one (memThread 0)).shadowed (lane (memThread 0)) = false
    ∧ reached 0 true = (.ok [.dev 16384], (reached 0 true).2) ∧ (reached 0 true).2.isRollback (lane (memThread 0)).ref = false
    ∧ Loc.none ∉ [Loc.dev 16384] :=
  ⟨by decide, rfl, by decide, by decide, ok_eq (by decide), by decide, by decide⟩

/-- What a prefetch through n0 resolves to. -/
def prefetched (t : Thread) : Except Excuse (List Loc) × State :=
  (popSrcs (one t) (lane t) [.n 0]).resolve ((popSrcs (one t) (lane t) [.n 0]).agentOf (lane t).ref) ((lane t).pol 0) (t.n[0].v) 4 .read

/-- A thread whose n0 holds a misaligned address. -/
def odd : Thread := withRegs 1 0 0 {}

theorem witness_Prefetches : (∀ l ∈ (one addressed).issue.act, policyOk .prefetch (l.pol 0) = true)
    ∧ readAll (one addressed) (lane addressed) [.n 0] .none = .ok [{ v := 65536 }]
    ∧ ¬ ((one addressed).shadowed (lane addressed) = true ∨ anyPsn [{ v := 65536 }] = true
        ∨ polSpace ((lane addressed).pol 0) = 1 ∨ polSpace ((lane addressed).pol 0) = 2)
    ∧ prefetched addressed = (.ok [.dev 16384], (prefetched addressed).2) ∧ (∃ e y, prefetched odd = (.error e, y))
    ∧ polSpace ((lane (memThread 0x40)).pol 0) = 1 :=
  ⟨by decide, rfl, by decide, ok_eq (by decide), error_pair (by decide), by decide⟩

theorem witness_AtomicInstructions : (∀ l ∈ (one (memThread 0)).issue.act, policyOk .atomRet (l.pol 0) = true ∧ policyOk (.atomNon 10) (l.pol 0) = true)
    ∧ readConsumed (one (memThread 0)) (lane (memThread 0)) [.n 0, .n 1, .q 0] = .ok [{ v := 65536 }, {}, {}]
    ∧ (one (memThread 0)).pairDiffersBy (lowData 32) (lane (memThread 0)) [.n 0, .n 1, .q 0] = false ∧ (one (memThread 0)).shadowed (lane (memThread 0)) = false
    ∧ reached 0 true = (.ok [.dev 16384], (reached 0 true).2) ∧ (reached 0 true).2.isRollback (lane (memThread 0)).ref = false :=
  ⟨by decide, rfl, by decide, by decide, ok_eq (by decide), by decide⟩

/-- An atomic add of 5 at word 16384, whose home is reached. -/
def adding : Write := { comp := 0, core := some 0, kid := 1, w := 16384, data := 5, mask := 15, psn := false, atom := some 0, req := 9 }

/-- A returning atomic under way. -/
def atomReq : Req := { loadReq with kind := .atom 0 true }

/-- Its home, which holds the word, performs it next. -/
def atomicAt (c : CWord) : State :=
  let s : State := { one (memThread 0) with reqs := [(9, atomReq)], ev := { id := 8 } }
  s.modMem fun m => { m with writes := [(8, adding)], llc := [(256, { kid := 1, words := [(0, c)] })] }

/-- The word holds 7. -/
def atomic : State := atomicAt (cword 16384 7 false .shared 15)

theorem witness_AtomicInstructions_performed : aget? atomic.mem.writes atomic.ev.id = some adding ∧ adding.atom = some 0
    ∧ aget? atomic.reqs adding.req = some atomReq ∧ isHostWord adding.w = false ∧ atomic.serves adding.kid adding.w = true
    ∧ atomic.isLost adding.w = false ∧ atomic.writeHold adding.kid adding.w (atomic.again .homeAtomic) = none
    ∧ atomic.uncopied adding.kid adding.w = [] ∧ atomReq.kind = .atom 0 true
    ∧ ((atomic.homeOnly adding.w).homeWord adding.kid adding.w adding.cls).2.1 = false := by decide

/-- The word is poisoned. -/
def atomicPoisoned : State := atomicAt (poisonWord 16384 .shared 15)

theorem witness_AtomicInstructions_poisoned : aget? atomicPoisoned.mem.writes atomicPoisoned.ev.id = some adding
    ∧ ((atomicPoisoned.homeOnly adding.w).homeWord adding.kid adding.w adding.cls).2.1 = true := by decide

/-- The old word stands in its request, and the reply is next. -/
def atomReplying : State := { replying with reqs := [(9, { atomReq with vals := [{ v := 7 }] })] }

theorem witness_AtomicInstructions_reply : aget? atomReplying.reqs atomReplying.ev.id = some { atomReq with vals := [{ v := 7 }] }
    ∧ ({ atomReq with vals := [{ v := 7 }] } : Req).kind = .atom 0 true ∧ atomReq.flag < 12 := by decide

theorem witness_BurstReadsBegin : (∀ l ∈ (one (memThread 0)).issue.act, policyOk .burstLoad (l.pol 0) = true) ∧ (one (memThread 0)).groupsWhole = true
    ∧ readAll (one (memThread 0)) (lane (memThread 0)) [.n 0] .none = .ok [{ v := 65536 }] ∧ anyPsn [{ v := 65536 }] = false
    ∧ (one (memThread 0)).baseLane (lane (memThread 0)) = some (lane (memThread 0))
    ∧ readAll (one (memThread 0)) (lane (memThread 0)) [.n 0, .n 1] .none = .ok [{ v := 65536 }, {}]
    ∧ reached 0 false = (.ok [.dev 16384], (reached 0 false).2)
    ∧ (commandLanes (one (memThread 0)) [{ lane := lane (memThread 0), a := 65536, loc := .dev 16384 }]).Nodup :=
  ⟨by decide, by decide, rfl, by decide, by decide, rfl, ok_eq (by decide), by decide⟩

theorem witness_BurstWritesBegin : aopAssigned 26 = true ∧ aopAssigned 0 = true
    ∧ (∀ l ∈ (one (memThread 0)).issue.act, policyOk .burstStore (l.pol 0) = true ∧ policyOk .atomRet (l.pol 0) = true
        ∧ policyOk (.atomNon 10) (l.pol 0) = true)
    ∧ (one (memThread 0)).groupsWhole = true
    ∧ readConsumed (one (memThread 0)) (lane (memThread 0)) [.n 0, .n 1] = .ok [{ v := 65536 }, {}]
    ∧ (one (memThread 0)).pairDiffersBy (lowData 32) (lane (memThread 0)) [.n 0, .n 1] = false
    ∧ reached 0 true = (.ok [.dev 16384], (reached 0 true).2) ∧ (one (memThread 0)).isRollback (lane (memThread 0)).ref = false :=
  ⟨by decide, by decide, by decide, by decide, rfl, by decide, ok_eq (by decide), by decide⟩

theorem witness_MemoryControl : (∀ l ∈ (one (memThread 2)).issue.act, fenceOk (l.pol 0) = true) ∧ fenceOk ((lane (memThread 0)).pol 0) = false
    ∧ (one (memThread 2)).isRollback (lane (memThread 2)).ref = false ∧ (one {}).bundleOk ∧ (one {}).readable [.n 0] .none :=
  ⟨by decide, by decide, by decide, one_bundle _, one_readable (by decide)⟩

/-- A thread whose n1 asks for the third action of CCTL, and a die that holds the unit. -/
def cctlThread : Thread := withRegs 65536 2 0 {}

theorem witness_MemoryControl_cache : (∀ l ∈ (one cctlThread).issue.act, policyOk .prefetch (l.pol 0) = true)
    ∧ readAll (one cctlThread) (lane cctlThread) [.n 0, .n 1] .none = .ok [{ v := 65536 }, { v := 2 }] ∧ (2 : Dword).toNat % 4 = 2
    ∧ (one cctlThread).shadowed (lane cctlThread) = false ∧ polSpace ((lane cctlThread).pol 0) = 0
    ∧ prefetched cctlThread = (.ok [.dev 16384], (prefetched cctlThread).2)
    ∧ (∃ u, aget? (prefetched cctlThread).2.mem.l2 (l2Key 0 256) = some u ∧ u.kid = 1)
    ∧ (prefetched cctlThread).2.ctxOf (lane cctlThread).ref = 1 ∧ dieOfCore ((prefetched cctlThread).2.coreOf (lane cctlThread).ref) = 0
    ∧ (∃ e y, prefetched odd = (.error e, y)) :=
  ⟨by decide, rfl, by decide, by decide, by decide, ok_eq (by decide), ⟨_, rfl, rfl⟩, by decide, by decide, error_pair (by decide)⟩

/-- The reached machine in which the die holds the word modified. -/
def dirtied : State := (prefetched cctlThread).2.modMem fun m =>
  { m with l2 := [(l2Key 0 256, { kid := 1, words := [(0, cword 16384 9 false .modified 15)] })] }

theorem witness_MemoryControl_clean : (∃ u, aget? dirtied.mem.l2 (l2Key 0 256) = some u ∧ u.kid = 1 ∧ awf u.words = true
      ∧ aget? u.words 0 = some (cword 16384 9 false .modified 15)) ∧ isHostWord (256 * 64 + 0) = false
    ∧ (0 : Dword).toNat % 4 = 0 ∧ (1 : Dword).toNat % 4 = 1 ∧ (3 : Dword).toNat % 4 = 3
    ∧ aget? (one cctlThread).mem.l2 (l2Key 0 300) = none :=
  ⟨⟨_, rfl, rfl, by decide, by decide⟩, by decide, by decide, by decide, by decide, by decide⟩

theorem witness_MemoryControl_scopes : refTeam (laneRef 1 0 0) = refTeam (laneRef 1 1 0) ∧ refTeam (laneRef 1 0 0) = refTeam (apRef 1)
    ∧ refKind (laneRef 1 0 0) = .lane ∧ refKind (laneRef 1 1 0) = .lane ∧ refKind (apRef 1) = .ap ∧ laneRef 1 0 0 ≠ laneRef 1 0 1
    ∧ refGrp (laneRef 1 0 0) = refGrp (laneRef 1 0 1) ∧ refGrp (laneRef 1 0 0) ≠ refGrp (laneRef 1 1 0) := by decide

/-- A replica of the first 2 MiB in every die, and a peer's. -/
def replica : Replica := { va := 0, len := 1, pa := [(1, 2), (2, 3), (3, 4)], peer := [(0, 0x80040000)], used := true }

/-- The placed machine whose context has that replica. -/
def replicated : State := (one (memThread 0)).modCtx 1 fun c => { c with reps := [(0, replica)] }

theorem witness_MemoryControl_multicast : (∀ l ∈ (one (memThread 0)).issue.act, policyOk .multicast (l.pol 0) = true)
    ∧ (one (memThread 0)).mcstEntry (laneRef 1 0 0) 0 65536 [.dev 16384] = none
    ∧ replicated.mcstEntry (laneRef 1 0 0) 0 65536 [.dev 16384] = some replica ∧ (aget 0 replica.peer 0).getLsbD 31 = true
    ∧ replicated.locOf (aget 0 replica.pa 3 * 2 ^ 21 + 65536) false = .dev (2 ^ 21 + 16384) := by decide

/-- The placed team with a barrier. -/
def barred (x : Barrier) (t : Team) : Team := { t with bars := [(15, x)] }

theorem witness_BarrierPhases : aget? (teamOne {} (barred {})).teams (refTeam (lane {}).ref) = some (barred {} (placeTeam false))
    ∧ (teamOne {} (barred {})).shadowed (lane {}) = false ∧ 15 < (placeTeam false).nbars
    ∧ ({} : Barrier).init = false := by decide

theorem witness_BarrierPhases_absent : aget? (teamOne {} fun t => { t with nbars := 15 }).teams (refTeam (lane {}).ref)
    = some { placeTeam false with nbars := 15 } ∧ 15 ≤ ({ placeTeam false with nbars := 15 } : Team).nbars := by decide

/-- A barrier that expects one arrival, and one that expects two. -/
def bar (n : Nat) : Barrier := { init := true, expect := n }

theorem witness_BarrierPhases_arrivals : (bar 0).expect = 0 ∧ (bar 1).init = true ∧ (lane {}).ref ∉ (bar 1).drops ∧ (bar 1).expect ≠ 0
    ∧ (bar 1).arrived + 1 = (bar 1).expect ∧ (bar 2).arrived + 1 ≠ (bar 2).expect ∧ ((one {}).thread (lane {}).ref).park = .none
    ∧ (lane {}).ref ∈ ({ bar 1 with drops := [(lane {}).ref] } : Barrier).drops := by decide

/-- The placed team with b0, which expects one arrival, while a quantum load of the thread is under way. -/
def quantumPhase : State := { teamOne {} (fun t => { t with bars := [(0, bar 1)] }) with reqs := [(0, quantumReq)] }

theorem witness_BarrierPhases_waits : ({ bar 1 with due := some [] } : Barrier).due ≠ none ∧ (bar 1).due = none
    ∧ (teamOne {} (barred (bar 1))).releaseHolds (lane {}).ref = false
    ∧ aget? quantumPhase.teams 1 = some { placeTeam false with bars := [(0, bar 1)] } ∧ quantumPhase.releaseHolds (lane {}).ref = false
    ∧ quantumPhase.phaseWork 1 ≠ [] ∧ (quantumPhase.launch (placeTeam false).launch).rollback = false
    ∧ ({ quantumPhase with reqs := [] } : State).phaseWork 1 = [] := by decide

/-- A rollback launch, whose b0 expects one arrival; with `k`, its team's shadow is being taken. -/
def rollPhase (k : Bool) : State :=
  (teamOne {} fun t => { t with bars := [(0, bar 1)], shadow := k }).modLaunch 1 fun l => { l with rc := { l.rc with attr := 2 } }

theorem witness_BarrierPhases_rollback : ((rollPhase false).launch 1).rollback = true ∧ (rollPhase false).releaseHolds (lane {}).ref = false
    ∧ (rollPhase false).ownRequests (lane {}).ref = [] ∧ ((rollPhase true).team 1).shadow = true := by decide

/-- A store of the thread from its own chain. -/
def ownStore : State := { teamOne {} (barred (bar 2)) with reqs := [(5, { loadReq with kind := .store })] }

theorem witness_BarrierPhases_own : ownStore.ownRequests (lane {}).ref ≠ [] ∧ ownStore.releaseHolds (lane {}).ref = false
    ∧ (teamOne {} (barred (bar 1))).ownRequests (lane {}).ref = [] ∧ ({ ownStore with reqs := [(0, { loadReq with kind := .store })] } :
      State).releaseHolds (lane {}).ref = true
    ∧ ({ bar 1 with owed := [((lane {}).ref, true, [5])] } : Barrier).owes (lane {}).ref = true
    ∧ ({ bar 1 with owed := [((lane {}).ref, true, [5])] } : Barrier).expect = 1 := by decide

/-- The placed team with the thread of lane 31 changed. -/
def waiter (x : Barrier) (t : Thread) : State := (teamOne {} (barred x)).setThread (laneRef 1 0 31) t

theorem witness_BarrierPhases_waiters :
    (let s := waiter { bar 1 with phase := 1, owed := [(laneRef 1 0 31, false, [5])] } { park := .barw 15 0 }
     (aget {} (s.team 1).bars 15 : Barrier).owes (s.primary (laneRef 1 0 31)) = true)
    ∧ (let s := waiter { bar 1 with phase := 1 } { park := .cbar, back := some (65540, .barw 15 0) }
       (aget {} (s.team 1).bars 15 : Barrier).owes (s.primary (laneRef 1 0 31)) = false ∧ (s.thread (laneRef 1 0 31)).park = .cbar
       ∧ (s.thread (laneRef 1 0 31)).back = some (65540, .barw 15 0) ∧ (0 : BitVec 16) ≠ (aget {} (s.team 1).bars 15 : Barrier).phase)
    ∧ (let s := waiter (bar 1) { park := .barw 15 0 }
       (s.thread (laneRef 1 0 31)).back = none ∧ (aget {} (s.team 1).bars 15 : Barrier).phase = 0) := by decide

theorem witness_BarrierPhases_release : 0 < ((teamOne {} (barred (bar 1))).team 1).groups.length ∧ (31 : Nat) < 32
    ∧ (let s := (teamOne {} (barred { bar 1 with phase := 1 })).setThread (laneRef 1 0 31) { park := .barw 15 0 }
       (s.thread (laneRef 1 0 31)).park = .barw 15 0 ∧ (0 : BitVec 16) ≠ (aget {} (s.team 1).bars 15 : Barrier).phase) := by decide

theorem witness_BarrierReads : aget? (teamOne {} (barred (bar 1))).teams 1 = some (barred (bar 1) (placeTeam false))
    ∧ (teamOne {} (barred (bar 1))).lowest 1 = some (lane {}) ∧ readAll (teamOne {} (barred (bar 1))) (lane {}) [.n 0] .none = .ok [{}]
    ∧ 15 < (barred (bar 1) (placeTeam false)).nbars ∧ (bar 1).init = true :=
  ⟨by decide, by decide, rfl, by decide, by decide⟩

theorem witness_BarrierReads_waits : (bar 1).due = none ∧ (bar 1).owed = [] ∧ ({ bar 1 with due := some [] } : Barrier).due ≠ none
    ∧ ({ bar 1 with owed := [(0, false, [])] } : Barrier).owed ≠ [] := by decide

theorem witness_BarrierReads_phases : (1 ≤ ((32767 : BitVec 16) - 0).toNat ∧ ((32767 : BitVec 16) - 0).toNat ≤ 32767)
    ∧ 32767 < ((32768 : BitVec 16) - 0).toNat ∧ ((0 : BitVec 16) - 0).toNat = 0 := by decide

/-- The placed machine as a resident launch. -/
def residing : State := (one {}).modLaunch 1 fun l => { l with rc := { l.rc with attr := 4 } }

/-- The placed machine whose one thread waits in CBAR. -/
def waiting : State := (one {}).setThread (laneRef 1 0 0) { park := .cbar }

theorem witness_CohortBarriers : (one {}).isRollback (lane {}).ref = false ∧ ((one {}).launchOf (lane {}).ref).resident = false
    ∧ residing.isRollback (lane {}).ref = false ∧ (residing.launchOf (lane {}).ref).resident = true ∧ ([1] : List Nat).Nodup
    ∧ waiting.liveOf [1] ≠ [] ∧ (∀ r ∈ waiting.visible (waiting.liveOf [1]), (waiting.thread r).park = .cbar)
    ∧ ∀ u ∈ [1], waiting.unreleased u false = false := by decide

/-- The placed machine whose group 0 is the producer, with 4 KiB of scratchpad, a barrier b2 and the record of the edge example. -/
def producing : State :=
  let s := (teamOne { memThread 0x40 with n := (Vector.replicate 16 {}).set 8 { v := 0x10000020 } } fun t =>
    { t with spad := 4096, granules := [0], bars := [(2, bar 2)], handles := [(5, edgeRecord)] }).modLaunch 1 fun l =>
      { l with rc := { l.rc with producer := 0 } }
  s

/-- The lane of that machine. -/
def producer : Lane := lane { memThread 0x40 with n := (Vector.replicate 16 {}).set 8 { v := 0x10000020 } }

theorem witness_CopiesBegin : producing.issue.act.filter (fun l => refTeam l.ref = 1) = [producer] ∧ 2 < (producing.team 1).nbars
    ∧ (∀ k ∈ [producer], refGrp k.ref = (producing.launch (producing.team 1).launch).rc.producer)
    ∧ (∃ o, copyCheck producing .cpld 5 (some 2) 0 0 (.n 0) producer [producer.ref] = .ok o)
    ∧ (∃ o, copyCheck producing .cpst 5 none 0 0 (.n 0) producer [producer.ref] = .ok o)
    ∧ producing.isRollback producer.ref = false
    ∧ ¬ producing.copyRoom producing.issueCore .cpld < copyCount producing .cpld 5 2 true false 0 (.n 0) :=
  ⟨by decide, by decide, by decide, ok_of (by decide), ok_of (by decide), by decide, by decide⟩

/-- That machine with both queues of its core full. -/
def jammed : State := { producing with cores := [(0, { loadq := List.range 16, storeq := List.range 16 })] }

theorem witness_CopiesBegin_stalls : jammed.copyRoom jammed.issueCore .cpst < copyCount jammed .cpst 5 0 false false 0 (.n 0) := by decide

/-- That machine with another group as its producer, and with a check that fails. -/
def bystander : State := producing.modLaunch 1 fun l => { l with rc := { l.rc with producer := 1 } }

theorem witness_CopiesBegin_traps : (∀ l ∈ bystander.issue.act, refGrp l.ref ≠ (bystander.launch (bystander.team 1).launch).rc.producer)
    ∧ (∃ e, copyCheck producing .cpld 6 none 0 0 (.n 0) producer [producer.ref] = .error e) ∧ (producing.team 1).nbars ≤ 16 :=
  ⟨by decide, error_of (by decide), by decide⟩

/-- A copy under way, of a pattern of one word. -/
def filling : CopyOp := { kind := .cpfill, team := 1, core := 0, kid := 1, flag := 0, lanes := [laneRef 1 0 0], bar := some 2, pol := 0x40, len := 4, pattern := 7 }

/-- The machine whose next event is the end of that copy. -/
def copying : State := { producing with ops := [(9, .copy filling)], cores := [(0, { loadq := [9] })], ev := { id := 9 } }

theorem witness_CopiesEnd : aget? copying.ops copying.ev.id = some (.copy filling) ∧ copying.copyRuns 9 filling = true
    ∧ copying.runCopy 9 { filling with started := true } (copying.siteOf 1 2) (filling.pieces.drop filling.next)
        = (true, (copying.runCopy 9 { filling with started := true } (copying.siteOf 1 2) (filling.pieces.drop filling.next)).2)
    ∧ (bar 2).due = none ∧ (bar 2).expect ≠ 0 ∧ (bar 2).arrived + 1 ≠ (bar 2).expect :=
  ⟨by decide, by decide, Prod.ext (by decide) rfl, by decide, by decide, by decide⟩

/-- The site of that machine's copies, and the location that an engine of it reaches at the placed packet's address. -/
def copyReach (write : Bool) : Except XFail Loc × State := producing.engineLoc (producing.siteOf 1 2) 65536 write

theorem witness_CopiesEnd_moves : producing.padLoc 1 (polSpace 0x40) 0 = some (.pad 1 0) ∧ filling.kind = .cpfill
    ∧ copyReach false = (.ok (.dev 16384), (copyReach false).2) ∧ copyReach true = (.ok (.dev 16384), (copyReach true).2)
    ∧ (copyReach false).2.padLoc 1 (polSpace 0x40) 0 = some (.pad 1 0) ∧ (copyReach true).2.padLoc 1 (polSpace 0x40) 0 = some (.pad 1 0)
    ∧ (copyReach false).2.engineHold (producing.siteOf 1 2) false (event .copyComplete { id := 9 }) (.dev 16384) = none
    ∧ (copyReach true).2.engineHold (producing.siteOf 1 2) true (event .copyComplete { id := 9 }) (.dev 16384) = none :=
  ⟨by decide, by decide, ok_eq (by decide), ok_eq (by decide), by decide, by decide, by decide, by decide⟩

/-- A record of one element at the placed packet: f32, or of another element type. -/
def oneElement (etype : Word) : List Word := recordOf [(0, 0x10000), (2, 0x200 + etype), (3, 0x10000), (4, 1), (8, 1), (9, 1), (16, 16)]

/-- The placed machine with that record in h0 and h1, and with the matrix TLB's entry. -/
def tiling (etype : Word) : State :=
  let s := teamOne {} fun t => { t with handles := [(0, oneElement etype), (1, oneElement etype)] }
  { s with tlbs := aset s.tlbs 1 [placeTlb] }

/-- TMMA of those two. -/
def multiply : TileInstr := { kind := .mma, z := 0, acc := 31, h := 0, cl := 0, flag := 3 }

theorem witness_TileInstructionsBegin :
    (∀ p ∈ groupsOf (tiling 0).issue.all, ((aget noTeam (tiling 0).issue.teams p.1).groups.getD p.2 noGroup).tile = none)
    ∧ (tiling 0).presentGroups (tiling 0).issue.act 0 = [(1, 0)] ∧ (tiling 0).presentGroups (tiling 0).issue.act 15 = []
    ∧ (tiling 0).issue.act ≠ []
    ∧ (∃ o, multiply.check (tiling 0) (tiling 0) true 0 ((tiling 0).leadLane 1 0) ((tiling 0).actOf 1 0) = .ok o)
    ∧ (∃ x, (multiply.check (one {}) (one {}) true 0 ((one {}).leadLane 1 0) ((one {}).actOf 1 0), (one {})) = (.error x, one {}))
    ∧ (∃ T, aget? (tiling 0).teams 1 = some T ∧ 0 < T.groups.length) := by
  refine ⟨by decide, by decide, by decide, by decide, ok_of (by decide), ?_, ⟨_, rfl, by decide⟩⟩
  obtain ⟨e, y, h⟩ := error_pair (x := (multiply.check (one {}) (one {}) true 0 ((one {}).leadLane 1 0) ((one {}).actOf 1 0), one {})) (by decide)
  exact ⟨e, by rw [h, show y = one {} from (congrArg Prod.snd h).symm]⟩

/-- The lane of a group that is not whole, with a false guard. -/
def guarded : State := { apart with issue := { apart.issue with act := [], off := apart.issue.act } }

theorem witness_TileInstructionsBegin_apart : guarded.presentGroups guarded.issue.act 0 = []
    ∧ (guarded.presentGroups guarded.issue.everyone 0).all (fun p => guarded.groupWhole p.1 p.2) = false
    ∧ ∀ p ∈ groupsOf guarded.issue.all, ((aget noTeam guarded.issue.teams p.1).groups.getD p.2 noGroup).tile = none := by decide

/-- A tile operation under way. -/
def tileOp (kind : TileKind) (c : Dword) : TileOp :=
  { kind := kind, word := 0, pc := 65540, team := 1, grp := 0, flag := 11, lanes := [laneRef 1 0 0], acc := 31, cl := 0, m := 32,
    ca := c, cb := c, ra := oneElement 0, rb := oneElement 0, kid := 1, core := 0 }

/-- The machine whose next event is the slab of an operation. -/
def slabbing (o : TileOp) : State := { tiling 0 with ops := [(9, .tile o)], cores := [(0, { seq := [9] })], ev := { id := 9 } }

/-- A fetch has its words. -/
def fetched : Fetched → Bool
  | .ok _ => true
  | _ => false

theorem fetched_pair {x : Fetched × State} (h : fetched x.1 = true) : ∃ m y, x = (.ok m, y) := by
  obtain ⟨f, y⟩ := x
  cases f with
  | ok m => exact ⟨m, y, rfl⟩
  | _ => cases h

theorem witness_TileSlabs : (slabbing (tileOp .zero 0)).tileNo 9 = some (tileOp .zero 0)
    ∧ (slabbing (tileOp .zero 0)).tileRuns 9 (tileOp .zero 0) = true ∧ (tileOp .zero 0).flag < 12
    ∧ (∃ T, aget? (slabbing (tileOp .zero 0)).teams 1 = some T) := ⟨by decide, by decide, by decide, _, rfl⟩

set_option maxRecDepth 20000 in
theorem witness_TileSlabs_load : (slabbing (tileOp .lda 0)).tileNo 9 = some (tileOp .lda 0) ∧ (slabbing (tileOp .lda 0)).tileRuns 9 (tileOp .lda 0) = true
    ∧ ∃ m y, ((slabbing (tileOp .lda 0)).beginTile 9 (tileOp .lda 0)).tileFetch 9 (tileOp .lda 0) (event .tileSlabComplete { id := 9 })
        (needWords [] ((tileOp .lda 0).loadGrid.filterMap (·.2)) (tileOp .lda 0).a.width) [] = (.ok m, y) :=
  ⟨by decide, by decide, fetched_pair (by decide)⟩

theorem witness_TileSlabs_multiply : (slabbing (tileOp .mma 0)).tileNo 9 = some (tileOp .mma 0) ∧ (slabbing (tileOp .mma 0)).tileRuns 9 (tileOp .mma 0) = true
    ∧ (tileOp .mma 0).slab < (tileOp .mma 0).slabs ∧ (tileOp .mma 0).slabs ≤ (tileOp .mma 0).slab + 1
    ∧ ∃ m y, ((slabbing (tileOp .mma 0)).beginTile 9 (tileOp .mma 0)).slabFetch 9 (tileOp .mma 0) (event .tileSlabComplete { id := 9 }) = (.ok m, y) :=
  ⟨by decide, by decide, by decide, by decide, fetched_pair (by decide)⟩

/-- A drain of a31 to the one element, before and after its capture. -/
def drainOp (ctl : Dword) : TileOp := { tileOp .drain 0 with ctl := ctl }

set_option maxRecDepth 20000 in
theorem witness_Drains : (slabbing (drainOp 1)).tileNo 9 = some (drainOp 1) ∧ (drainOp 1).kind = .drain
    ∧ (slabbing (drainOp 1)).tileRuns 9 (drainOp 1) = true ∧ ((slabbing (drainOp 1)).launch 1).rollback = false
    ∧ (∃ T, aget? (slabbing (drainOp 1)).teams 1 = some T ∧ T.launch = 1 ∧ T.acc = []
        ∧ stageWords ((drainOp 1).staged T.acc 0).bytes ≠ [] ∧ stageWords ((drainOp 0).staged T.acc 0).bytes = []) :=
  ⟨by decide, by decide, by decide, by decide, _, rfl, by decide, by decide, by decide, by decide⟩

/-- A drain whose one staged word is to be written. -/
def captured : TileOp := { drainOp 1 with captured := true, outs := [(65536, 7, 15)], bytes := 4 }

theorem witness_Drains_writes : (slabbing captured).tileNo 9 = some captured ∧ captured.captured = true ∧ captured.fault = none
    ∧ (slabbing captured).drainWaits captured = false ∧ (slabbing captured).forkHolds (groupRefs 1 0) 9 = false
    ∧ (slabbing captured).runDrain 9 captured ((slabbing captured).siteOf 1 1) (captured.outs.drop captured.next)
        = (true, ((slabbing captured).runDrain 9 captured ((slabbing captured).siteOf 1 1) (captured.outs.drop captured.next)).2) :=
  ⟨by decide, by decide, by decide, by decide, by decide, Prod.ext (by decide) rfl⟩

theorem witness_ChiselInstructions : ((tiling 3).issue.act.filter fun l => refTeam l.ref = 1) = [lane {}]
    ∧ enginePolicyOk (lane {}).pre.m[0] = true ∧ enginePolicyOk (lane (memThread 1)).pre.m[0] = false
    ∧ (∃ o, chiselCheck (tiling 3) .chpre 0 4 3 (lane {}) [lane {}] = .ok o ∧ badCorner (o.a.kCorners o.ca o.m 48) = none ∧ coordC0 o.ca % 16 = 0)
    ∧ (∃ o, chiselCheck (tiling 3) .chpre 0 4 15 (lane {}) [lane {}] = .ok o)
    ∧ ((tiling 3).preTeam (lane {}).ref).handles.length = 2 ∧ aget? ((one {}).preTeam (lane {}).ref).handles 24 = none
    ∧ (∃ rc, aget? ((tiling 3).preTeam (lane {}).ref).handles 0 = some rc ∧ 3 ≤ (tensorOf rc).etype)
    ∧ (lane {}).pre.n[8].psn = false ∧ (lane {}).pre.n[8].pend = none ∧ (lane {}).pre.n[9].psn = false ∧ (lane {}).pre.n[9].pend = none :=
  ⟨by decide, by decide, by decide, ⟨_, rfl, by decide, by decide⟩, ok_of (by decide), by decide, by decide, ⟨_, rfl, by decide⟩, by decide,
    by decide, by decide, by decide⟩

/-- A CHRUN under way over the one element. -/
def chiselRun (kind : TileKind) : TileOp := { tileOp kind 0 with cl := 4, ra := oneElement 3, rb := oneElement 3 }

/-- The machine whose next event is the lookup of that CHRUN, with its program in the cache. -/
def looking (kind : TileKind) : State :=
  { slabbing (chiselRun kind) with cores := [(0, { seq := [9], chisel := [(chiselRun kind).entry] })] }

/-- A lookup has found its program. -/
def found : Compiled → Bool
  | .prog _ _ => true
  | .other _ => false

theorem found_pair {x : Compiled × State} (h : found x.1 = true) : ∃ d p y, x = (.prog d p, y) := by
  obtain ⟨f, y⟩ := x
  cases f with
  | prog d p => exact ⟨d, p, y, rfl⟩
  | other f => cases h

theorem witness_ChiselInstructions_lookup : (looking .chrun).tileNo 9 = some (chiselRun .chrun) ∧ (chiselRun .chrun).prog = none
    ∧ (looking .chrun).tileRuns 9 (chiselRun .chrun) = true ∧ (looking .chpre).tileRuns 9 (chiselRun .chpre) = true
    ∧ ((some ({ (chiselRun .chrun).entry with busy := some 9 } : ChEntry)).bind (looking .chrun).compiling ≠ none)
    ∧ ((some (chiselRun .chrun).entry).bind (looking .chrun).compiling = none)
    ∧ (∃ d p y, ((looking .chrun).beginTile 9 (chiselRun .chrun)).chLookup 9 (chiselRun .chrun) (event .chiselCompileEnd { id := 9 }) = (.prog d p, y))
    ∧ (chiselRun .chrun).m ≤ 64 ∧ (chiselRun .chrun).a.width ≤ 8 ∧ ∃ ops, (chiselRun .chrun).compile [(65536, 1)] = (false, ops) :=
  ⟨by decide, by decide, by decide, by decide, by decide, by decide, found_pair (by decide), by decide, by decide, _, Prod.ext (by decide) rfl⟩

/-- The words of its tile. -/
def tileWordsOf (kind : TileKind) (es : List ChEntry) : Except (XFail × Nat) (List Loc) × State :=
  ((({ looking kind with cores := [(0, { seq := [9], chisel := es })] } : State).beginTile 9 (chiselRun kind)).applyAll 0).tileWords (chiselRun kind)

/-- The entry that a compile has reached. -/
def compilingEntry : ChEntry := { (chiselRun .chpre).entry with busy := some 9, fresh := true }

theorem witness_ChiselInstructions_compiles : (looking .chpre).tileNo 9 = some (chiselRun .chpre)
    ∧ tileWordsOf .chpre [] = (.ok [.dev 16384], (tileWordsOf .chpre []).2) ∧ ((tileWordsOf .chpre []).2.team 1).logs [.dev 16384] = false
    ∧ ((tileWordsOf .chpre []).2.core 0).chEntry (chiselRun .chpre).entry = none
    ∧ tileWordsOf .chrun [(chiselRun .chrun).entry] = (.ok [.dev 16384], (tileWordsOf .chrun [(chiselRun .chrun).entry]).2)
    ∧ ((tileWordsOf .chrun [(chiselRun .chrun).entry]).2.core 0).chEntry (chiselRun .chrun).entry = some (chiselRun .chrun).entry
    ∧ (chiselRun .chrun).entry.stale = false ∧ (chiselRun .chrun).entry.busy = none
    ∧ ({ (chiselRun .chrun).entry with stale := true } : ChEntry).stale = true :=
  ⟨by decide, ok_eq (by decide), by decide, by decide, ok_eq (by decide), by decide, by decide, by decide, by decide⟩

theorem witness_ChiselInstructions_ends : ((tileWordsOf .chpre [compilingEntry]).2.core 0).chEntry (chiselRun .chpre).entry = some compilingEntry
    ∧ (tileWordsOf .chpre [compilingEntry]).2.compiling compilingEntry = some 9
    ∧ ∃ d ops z, (tileWordsOf .chpre [compilingEntry]).2.chRead 9 (chiselRun .chpre) (event .chiselCompileEnd { id := 9 }) = (.prog d ops, z) :=
  ⟨by decide, by decide, found_pair (by decide)⟩

/-- That CHRUN with its program: one product of row 0 and the column of K 0, or with `d` that of a dense entry. -/
def running (d : Bool) : TileOp := { chiselRun .chrun with prog := some (if d then (true, []) else (false, [0x80000001, 0])) }

theorem witness_TileSlabs_chisel : (slabbing (running false)).tileNo 9 = some (running false) ∧ (slabbing (running false)).tileRuns 9 (running false) = true
    ∧ (slabbing (running true)).tileRuns 9 (running true) = true
    ∧ (∃ m y, ((slabbing (running false)).beginTile 9 (running false)).tileFetch 9 (running false) (event .tileSlabComplete { id := 9 })
        (needWords [] ((running false).bElems
          ((usedKs (progRows (running false).classes.1 (running false).rowsA [0x80000001, 0])).filter (running false).kIn))
            (running false).b.width) [] = (.ok m, y))
    ∧ (∃ m y, ((slabbing (running true)).beginTile 9 (running true)).tileFetch 9 (running true) (event .tileSlabComplete { id := 9 })
        (needWords [] (gridElems ((running true).aGrid [])) (running true).a.width) [] = (.ok m, y))
    ∧ 0 < (chiselRun .chrun).rowsA ∧ (chiselRun .chrun).kIn 0 = true :=
  ⟨by decide, by decide, by decide, fetched_pair (by decide), fetched_pair (by decide), by decide, by decide⟩

theorem witness_PresenceAndHandles : (∃ T, aget? (tiling 0).teams 1 = some T) ∧ ((tiling 0).issue.act.filter fun l => refTeam l.ref = 1) = [lane {}]
    ∧ (∀ i, Src.n 0 ≠ .dq i) ∧ readConsumed (tiling 0) (lane {}) [.n 0] = .ok [{}]
    ∧ recordOk (setRecord (oneElement 0) 15 0) = true ∧ recordOk (setRecord (oneElement 0) 15 1) = false :=
  ⟨⟨_, rfl⟩, by decide, fun _ h => (by cases h), rfl, by decide, by decide⟩

theorem witness_PresenceAndHandles_shape : (∀ p ∈ groupsOf (tiling 0).issue.all, ((aget noTeam (tiling 0).issue.teams p.1).groups.getD p.2 noGroup).tile = none)
    ∧ (∀ p ∈ groupsOf ((tiling 0).issue.everyone.map (·.ref)), (tiling 0).groupWhole p.1 p.2 = true)
    ∧ ((tiling 0).issue.lanes.map (·.ref)).Nodup ∧ (∀ l ∈ (tiling 0).issue.lanes, refKind l.ref = .lane)
    ∧ (tiling 0).bundleOk ∧ (tiling 0).readable [] .none := by
  refine ⟨by decide, by decide, by decide, by decide, single_bundle (l := lane {}) rfl rfl, single_readable (l := lane {}) rfl (by decide)⟩

/-- The placed program whose team's queue holds one entry of four lanes. -/
def feeding : State :=
  teamOne {} fun t => { t with dq := [(7, { entries := [{ vals := List.replicate 32 {}, mask := 0xF, spec := false, instr := 0 }] })] }

theorem witness_AccessPrograms : (∃ T, aget? (one addressed).teams 1 = some T)
    ∧ ((one addressed).issue.act.filter fun l => refTeam l.ref = 1) = [lane addressed] ∧ ((one addressed).team 1).ap.running = false
    ∧ (one addressed).forkHolds ((lane addressed :: []).map (·.ref)) (one addressed).issue.first = false
    ∧ readConsumed (one addressed) (lane addressed) [.n 0, .n 1] = .ok [{ v := 65536 }, {}]
    ∧ canonical 65536 = true ∧ (65536 : Dword).toNat % 16 = 0 ∧ canonical 0x0100000000000000 = false ∧ (65544 : Dword).toNat % 16 ≠ 0
    ∧ (∀ k ∈ [lane addressed], refKind k.ref = .lane) ∧ ([lane addressed].map (·.ref)).Nodup :=
  ⟨⟨_, rfl⟩, by decide, by decide, by decide, rfl, by decide⟩

theorem witness_AccessPrograms_running : ((apOne {}).team 1).ap.running = true ∧ (apOne {}).apBusy 1 = true ∧ (one {}).apBusy 1 = false := by
  decide

theorem witness_AccessPrograms_queues : readAll (apOne {}) (apLane {}) [.n 0, .n 1] .none = .ok [{}, {}]
    ∧ (∃ T, aget? (apOne {}).teams (refTeam (apLane {}).ref) = some T) ∧ (apOne {}).feedFull 1 7 = false ∧ (apOne {}).gathersTo 1 7 = []
    ∧ feeding.bundleOk ∧ feeding.readable [] .none
    ∧ (∀ l ∈ feeding.issue.act, ((aget {} (feeding.preTeam l.ref).dq 7 : Feed).head (feeding.visLane l.ref)).isSome = true)
    ∧ (aget {} (feeding.team 1).dq 7 : Feed).drops = [] ∧ aget (aget {} (feeding.team 1).dq 7 : Feed).base (aget {} (feeding.team 1).dq 7 : Feed).heads 31 ≤ 0 :=
  ⟨rfl, ⟨_, rfl⟩, by decide, by decide, single_bundle (l := lane {}) rfl rfl, single_readable (l := lane {}) rfl (by decide), by decide⟩

/-- A branch that went as predicted, or did not. -/
def unresolved (r : Bool) : State :=
  { (apOne {}).modTeam 1 fun t => { t with ap := { t.ap with branches := [{ right := r, saved := {}, instr := 0, first := 1 }] } } with ev := { id := 1 } }

theorem witness_AccessPrograms_resolve : (∃ x, ((unresolved true).team 1).ap.branches = [x] ∧ x.right = true)
    ∧ ∃ x, ((unresolved false).team 1).ap.branches = [x] ∧ x.right = false := ⟨⟨_, rfl, rfl⟩, _, rfl, rfl⟩

/-- A full queue. -/
def full : State :=
  { apOne {} with teams := [(1, { placeTeam true with dq := [(7, { entries := List.replicate 64 { vals := [], mask := 0, spec := false, instr := 0 } })] })] }

theorem witness_AccessPrograms_full : full.feedFull 1 7 = true := by decide

/-- The program with an address in n0, a stride in n2 and a count in n1. -/
def gatherThread (a n : Dword) : Thread := withRegs a n 4 {}

/-- The elements of its gather or scatter. -/
def elementsOf (a n : Dword) (w : Bool) : Except Excuse Elements × State :=
  (apOne (gatherThread a n)).elements (apLane (gatherThread a n)) 0 a 4 false 4 w 0 ((apOne (gatherThread a n)).gatherCount 1 n)

theorem witness_GathersAndScatters : (∀ l ∈ (apOne (gatherThread 65536 2)).issue.act, policyOk .load (l.pol 0) = true ∧ policyOk .store (l.pol 0) = true)
    ∧ readConsumed (apOne (gatherThread 65536 2)) (apLane (gatherThread 65536 2)) [.n 0, .n 2, .n 1] = .ok [{ v := 65536 }, { v := 4 }, { v := 2 }]
    ∧ (apOne (gatherThread 65536 2)).gathers 0 < 16 ∧ (apOne (gatherThread 65536 2)).feedFull 1 0 = false
    ∧ elementsOf 65536 2 false = (.ok { locs := [[.dev 16384], [.dev 16385]] }, (elementsOf 65536 2 false).2)
    ∧ elementsOf 1 2 false = (.ok { bad := some (.trap 0x07 0 1) }, (elementsOf 1 2 false).2) :=
  ⟨by decide, rfl, by decide, by decide, ok_eq (by decide), ok_eq (by decide)⟩

theorem witness_GathersAndScatters_scatter :
    readConsumed (apOne (gatherThread 65536 2)) (apLane (gatherThread 65536 2)) [.n 0, .n 2, .n 1, .n 7] = .ok [{ v := 65536 }, { v := 4 }, { v := 2 }, {}]
    ∧ (apOne (gatherThread 65536 2)).apHolds (apLane {}).ref 0 true = false
    ∧ elementsOf 65536 2 true = (.ok { locs := [[.dev 16384], [.dev 16385]] }, (elementsOf 65536 2 true).2)
    ∧ (elementsOf 65536 2 true).2.isRollback (apLane {}).ref = false
    ∧ (∀ ls ∈ [[Loc.dev 16384], [Loc.dev 16385]], ∃ k, ls = [k] ∧ k ≠ Loc.none)
    ∧ elementsOf 65536 0 true = (.ok {}, (elementsOf 65536 0 true).2) ∧ (elementsOf 65536 0 true).2.isRollback (apLane {}).ref = false
    ∧ elementsOf 1 2 true = (.ok { bad := some (.trap 0x07 0 1) }, (elementsOf 1 2 true).2) := by
  refine ⟨rfl, by decide, ok_eq (by decide), by decide, fun ls h => ?_, ok_eq (by decide), by decide, ok_eq (by decide)⟩
  rcases List.mem_cons.mp h with h | h
  · exact ⟨_, h, nofun⟩
  · exact ⟨_, List.mem_singleton.mp h, nofun⟩

/-- A gather under way, and its reply. -/
def gatherOp : GatherOp := { ref := apRef 1, team := 1, core := 0, flag := 2, dq := 7, pol := 0, size := 4, locs := [[.dev 16384]], instr := 0 }
def gathering : State := { apOne {} with ops := [(9, .gather gatherOp)], ev := { id := 9 } }

theorem witness_GathersAndScatters_reply : aget? gathering.ops 9 = some (.gather gatherOp) ∧ (∀ p ∈ gathering.gathersTo 1 7, 9 ≤ p.1)
    ∧ gathering.agentHold (gathering.agentOf (apRef 1)) 0 gatherOp.locs.flatten (gathering.again .gatherComplete) = none
    ∧ ∃ T, aget? (gathering.readElems (gathering.agentOf (apRef 1)) 0 4 [[.dev 16384]]).2.teams 1 = some T :=
  ⟨by decide, by decide, by decide, _, rfl⟩

/-- A thread whose n0 holds the address 65792. -/
def recorder : Thread := withRegs 65792 0 0 {}

/-- The placed machine with a record in the unit at that address. -/
def recording (ws : List Word) : State :=
  let unit : CUnit := { kid := 1, words := (List.range 64).map fun i => (i, placeWord (16448 + i) (ws.getD i 0)) }
  (one recorder).modMem fun m => { m with l2 := aset m.l2 (l2Key 0 257) unit }

/-- What the instruction reads. -/
def recorded (ws : List Word) (size : Nat) : Except Excuse (List Loc) × State := (recording ws).reach (lane recorder) 0 65792 size false

theorem witness_PresenceAndHandles_load : ((recording (oneElement 0)).issue.act.filter fun l => refTeam l.ref = 1) = [lane recorder]
    ∧ readConsumed (recording (oneElement 0)) (lane recorder) [.n 0] = .ok [{ v := 65792 }]
    ∧ ∃ ws y, (recording (oneElement 0)).readRecord (lane recorder) 65792 = (.ok ws, y) := ⟨by decide, rfl, ok_pair (by decide)⟩

/-- A fill of one word at 65540. -/
def fillRecord : List Word := [1, 1, 65540, 0]

theorem witness_PlinthCommands : (∀ l ∈ (recording fillRecord).issue.act, enginePolicyOk (l.pol 0) = true) ∧ enginePolicyOk ((lane (memThread 1)).pol 0) = false
    ∧ readConsumed (recording fillRecord) (lane recorder) [.n 0] = .ok [{ v := 65792 }] ∧ (∀ i, Src.n 0 ≠ .dq i)
    ∧ (recording fillRecord).partner (lane recorder) = none
    ∧ recorded fillRecord 64 = (.ok ((List.range 16).map fun i => .dev (16448 + i)), (recorded fillRecord 64).2) :=
  ⟨by decide, by decide, rfl, fun _ h => (by cases h), by decide, ok_eq (by decide)⟩

/-- The words of a record, from the caches. -/
def recordWords (ws : List Word) : Except Excuse (List (Word × Bool)) × State :=
  let y := (recorded ws 64).2
  (y.unbackedRecord (laneRef 1 0 0) 65792 ((List.range 16).map fun i => .dev (16448 + i))).wordsNow (y.agentOf (laneRef 1 0 0)) 0
    ((List.range 16).map fun i => .dev (16448 + i))

theorem witness_PlinthCommands_record : isOk (recordWords fillRecord).1 = true ∧ plcOk ((List.range 16).map fun i => fillRecord.getD i 0) = true
    ∧ plcOk ((List.range 16).map fun i => ([1, 0] : List Word).getD i 0) = false := by decide

/-- The site of that command. -/
def plcSite : Site := { core := 0, tlb := 2, ctx := 1, launch := 1, team := 1 }

theorem witness_PlinthCommands_ranges : ((recording fillRecord).meetsHost plcSite 65540 1).1 = false
    ∧ isOk ((recording fillRecord).plcLocs plcSite true 65540 1).1 = true ∧ (recording fillRecord).isRollback (lane recorder).ref = false := by decide

/-- A command under way: a fill of one word, next or done. -/
def plcOp (n : Nat) : PlcOp :=
  { launch := 1, ref := laneRef 1 0 0, refs := [laneRef 1 0 0], flag := 4, kid := 1, op := 1, dst := [.dev 16385], src := [], a := 0, b := 0, imm := 7, next := n }
def plinthing (n : Nat) : State := { one {} with ops := [(9, .plc (plcOp n))], ev := { id := 9 } }

theorem witness_PlinthCommands_apply : aget? (plinthing 0).ops 9 = some (.plc (plcOp 0)) ∧ (plinthing 0).forkHolds [(plcOp 0).ref] 9 = false
    ∧ (plcOp 0).dst[(plcOp 0).next]? = some (.dev 16385)
    ∧ (∀ id x, (id, Op.plc x) ∈ (plinthing 0).ops → id < 9 → x.ref ≠ (plcOp 0).ref)
    ∧ (plinthing 0).plcHold 1 { op := .plinthWordApply, arg := { id := 9 } } (.dev 16385) ((plcOp 0).src.getD 0 .none) = none
    ∧ aget? (plinthing 1).ops 9 = some (.plc (plcOp 1)) ∧ (plcOp 1).dst.length ≤ (plcOp 1).next
    ∧ (∀ r ∈ (plcOp 1).refs, ahas (plinthing 1).teams (refTeam r) = true) :=
  ⟨by decide, by decide, by decide,
    fun id x h hlt => absurd (Prod.mk.inj (List.mem_singleton.mp h)).1 (by omega), by decide⟩

theorem witness_PlinthCommands_fence : ((9, Op.plc (plcOp 0)) ∈ (plinthing 0).ops ∧ laneRef 1 0 0 ∈ (plcOp 0).refs) ∧ (one {}).ops = [] := by decide

/-- A word of a Plinth that reads as poisoned: the poison code is stored, in no cache. -/
def poisonedWord : State := (one {}).modMem fun m => { m with chk := [(20, poisonCheck (sigOf 20))] }

theorem witness_PlinthCommands_poison : (poisonedWord.plinthRead 1 20).2.1 = true := by decide

/-- An all-reduce of one rank, one f32: SEND, RECV and RANKS at the packet. -/
def collRecord : List Word := [1, 1, 0, 1, 65536, 0, 65540, 0, 65544, 0]

/-- Its record as it is read. -/
def collRead : Except Excuse (List Word) × State := (recording collRecord).readRecord (lane recorder) 65792

theorem witness_Collectives : (∀ l ∈ (recording collRecord).issue.act, enginePolicyOk (l.pol 0) = true)
    ∧ readConsumed (recording collRecord) (lane recorder) [.n 0] = .ok [{ v := 65792 }] ∧ (recording collRecord).partner (lane recorder) = none
    ∧ (recording collRecord).collsOn 0 < 64 ∧ collRead = (.ok ((List.range 32).map fun i => collRecord.getD i 0), collRead.2)
    ∧ collRead.2.isRollback (lane recorder).ref = false ∧ collOk ((List.range 32).map fun i => collRecord.getD i 0) = true :=
  ⟨by decide, rfl, by decide, by decide, ok_eq (by decide), by decide⟩

/-- A participant that has read its ranks, or all of its operands. -/
def collOp (all : Bool) (rank : Word) : CollOp :=
  { launch := 1, refs := [laneRef 1 0 0], flag := 6, kid := 1, core := 0, pol := 0, rc := (List.range 32).map fun i => collRecord.getD i 0, addr := 65792,
    ranks := some [rank], cnts := if all then some [] else none, send := if all then some [(0x3F800000, false)] else none }
def colling (o : CollOp) : State := { recording collRecord with ops := [(9, .coll o)], ev := { id := 9 } }

/-- The match of that participant alone, and then with its operands. -/
def collFilled (all : Bool) (o : CollOp) : Option (List (Nat × CollOp)) × State :=
  (colling o).collFillAll { op := .collectiveMatch, arg := { id := 9 } } all ((colling o).collPeers o)

theorem witness_Collectives_match : (colling (collOp true 0)).ev.bytes.length < 128 ∧ aget? (colling (collOp true 0)).ops 9 = some (.coll (collOp true 0))
    ∧ (collFilled false (collOp true 0)).1 = some [(9, collOp true 0)] ∧ (collFilled true (collOp true 0)).1 = some [(9, collOp true 0)]
    ∧ collFull true [(9, collOp true 0)] = true ∧ collFull false [(9, collOp true 0)] = true ∧ (collOp true 0).npart ≤ 1
    ∧ (colling (collOp true 0)).collAgrees (collOp true 0) (collOp true 0) = true
    ∧ (colling (collOp true 1)).collAgrees (collOp true 1) (collOp true 1) = false := by decide

theorem witness_Collectives_complete : (let o : CollOp := { collOp true 0 with matched := true, status := 1, outs := [(65540, 0x3F800000, 15, false)] }
    let s := colling o
    (aget? s.ops 9 = some (.coll o) ∧ o.matched = true ∧ o.fault = none ∧ s.forkHolds o.refs 9 = false)
    ∧ (let r := s.runColl 9 o { op := .collectiveComplete, arg := { id := 9 } } ((o.outs ++ o.doneWords).drop o.next)
       r.1 = true ∧ ∀ x ∈ o.refs, ahas r.2.teams (refTeam x) = true)) := by decide

theorem witness_Collectives_status : (∀ l ∈ (one recorder).issue.act, policyOk .load (l.pol 0) = true) ∧ (recording collRecord).shadowed (lane recorder) = false
    ∧ readAll (recording collRecord) (lane recorder) [.n 0] .none = .ok [{ v := 65792 }]
    ∧ isOk ((recording collRecord).reach (lane recorder) 0 (65792 + 120) 8 false).1 = true := ⟨by decide, by decide, rfl, by decide⟩

theorem witness_Collectives_waits : (let o : CollOp := { collOp true 0 with rc := (List.range 32).map fun i => ([1, 2] ++ collRecord.drop 2).getD i 0 }
    (collFilled false o).1 = some [(9, o)] ∧ 1 + (collFilled false o).2.downRanks o < o.npart)
    ∧ 64 ≤ ({ one recorder with ops := List.replicate 64 (7, .coll (collOp true 0)) } : State).collsOn 0 := by decide

/-- A launch record of one team of one group, whose program and constants stand in its own pages. -/
def launchRecord : List Word :=
  (List.range 64).map fun i => ([(0, 0x10000), (4, 0x10100), (6, 0x10000), (17, 0x00FF0000), (24, 1)].find? fun p => p.1 = i).map (·.2) |>.getD 0

/-- What LAUNCH reads of it. -/
def launchRead (s : State) : Except Excuse (List Word × List Word) × State := s.readLaunch (lane recorder) 65792

set_option maxRecDepth 20000 in
theorem witness_LaunchInstructions : readConsumed (recording launchRecord) (lane recorder) [.n 0] = .ok [{ v := 65792 }] ∧ (∀ i, Src.n 0 ≠ .dq i)
    ∧ (recording launchRecord).partner (lane recorder) = none ∧ (recording launchRecord).isRollback (lane recorder).ref = false
    ∧ launchRead (recording launchRecord) = (.ok (launchRecord, launchRecord), (launchRead (recording launchRecord)).2)
    ∧ (recording launchRecord).launchBad launchRecord = false ∧ (recording launchRecord).storeUsed 0 < 4096 :=
  ⟨rfl, fun _ h => (by cases h), by decide, by decide, ok_eq (by decide), by decide, by decide⟩

/-- A lane that has waited in LAUNCHW, its chain issued again. -/
def relaunching : State := (one { pc := 65540, redo := some 65792 })

set_option maxRecDepth 20000 in
theorem witness_LaunchInstructions_redone : (∃ adr, relaunching.redone (lane { pc := 65540, redo := some 65792 }) = some adr)
    ∧ (recording launchRecord).redone (lane recorder) = none := ⟨⟨65792, rfl⟩, rfl⟩

set_option maxRecDepth 20000 in
theorem witness_LaunchInstructions_malformed : (recording (1 :: launchRecord.drop 1)).launchBad (1 :: launchRecord.drop 1) = true
    ∧ isOk (launchRead (recording (1 :: launchRecord.drop 1))).1 = true := by decide

/-- A store without a free entry. -/
def crowded : State := { recording launchRecord with launches := (recording launchRecord).launches ++ List.replicate 4096 (7, noLaunch) }

theorem store_full {s : State} {xs : AMap Launch} {n : Nat} (h : s.launches = xs ++ List.replicate n (7, noLaunch)) :
    n ≤ s.storeUsed 0 := by
  simp [State.storeUsed, h, List.filter_append, noLaunch]

set_option maxRecDepth 20000 in
theorem witness_LaunchInstructions_full : 4096 ≤ (launchRead crowded).2.storeUsed 0 ∧ isOk (launchRead crowded).1 = true :=
  ⟨store_full (xs := (recording launchRecord).launches) rfl, by decide⟩

theorem witness_LaunchInstructions_status : (recording launchRecord).partner (lane recorder) = none
    ∧ isOk ((recording launchRecord).readPieces (lane recorder) 0x2A 16 [65792]).1 = true ∧ (32767 : BitVec 15) ≠ 0
    ∧ (one {}).bundleOk ∧ (one {}).readable [] .none := ⟨by decide, by decide, by decide, one_bundle _, one_readable (by decide)⟩

/-- The placed machine with its context changed. -/
def casting (f : Ctx → Ctx) : State := (one {}).modCtx 1 f

theorem witness_CastInstructions : (((casting id).issue.lanes.map (·.ref)).Nodup ∧ (casting id).issue.act = [lane {}])
    ∧ ((casting id).ctx 1).build = none ∧ ((casting id).ctx 1).buflen = 0 ∧ ((casting fun c => { c with buflen := 1 }).ctx 1).buflen ≠ 0
    ∧ ((casting fun c => { c with build := some { toB := true } }).ctx 1).build.isSome = true
    ∧ (∃ T, aget? (casting id).teams 1 = some T ∧ T.ctx = 1 ∧ T.halt = none) :=
  ⟨by decide, by decide, by decide, by decide, by decide, _, rfl, by decide⟩

theorem witness_CastInstructions_commit : ((casting fun c => { c with failed := true }).ctx 1).failed = true ∧ ((casting id).ctx 1).built = none
    ∧ ((casting fun c => { c with built := some true }).ctx 1).built = some true
    ∧ ((casting fun c => { c with built := some true }).mem.writes.any fun p => p.2.comp == 5 && p.2.kid == 1) = false := by decide

/-- A record of an error. -/
def errRec : ErrRec := { cause := 0, kind := 4, dropped := false, tid := 0, addr := 0 }

/-- The placed machine with that record in its queue. -/
def erring (n : Nat) : State := (one recorder).modCtx 1 fun c => { c with errs := List.replicate n errRec }

theorem witness_ErrorQueue : (∀ l ∈ (erring 1).issue.act, polScope (l.pol 0) ≤ 5) ∧ 5 < polScope ((lane (memThread 0x30)).pol 0)
    ∧ readConsumed (erring 1) (lane recorder) [.n 0] = .ok [{ v := 65792 }] ∧ (∀ i, Src.n 0 ≠ .dq i) ∧ (erring 1).partner (lane recorder) = none
    ∧ (erring 1).reach (lane recorder) ((lane recorder).pol 0 &&& 0x38) 65792 16 true
        = (.ok ((List.range 4).map fun i => .dev (16448 + i)), ((erring 1).reach (lane recorder) ((lane recorder).pol 0 &&& 0x38) 65792 16 true).2)
    ∧ Loc.none ∉ (List.range 4).map (fun i => Loc.dev (16448 + i))
    ∧ (erring 1).isRollback (lane recorder).ref = false ∧ ((erring 1).ctx 1).errs = [errRec] ∧ ((erring 0).ctx 1).errs = [] :=
  ⟨by decide, by decide, rfl, fun _ h => (by cases h), by decide, ok_eq (by decide), by decide, by decide, by decide, by decide⟩

theorem witness_ErrorQueue_records : ((erring 63).ctx 1).errs.length < 64 ∧ 64 ≤ ((erring 64).ctx 1).errs.length := by decide

theorem witness_SystemInstructions : (one {}).partner (lane {}) = none ∧ refKind (lane {}).ref ≠ .steward ∧ refKind (stewRef 0) = .steward
    ∧ (lane {}).pre.handler = false ∧ (lane { handler := true }).pre.handler = true ∧ (∀ i, Src.n 0 ≠ .dq i)
    ∧ readAll (one {}) (lane {}) [.n 0] .none = .ok [{}] ∧ anyPsn [({} : Val)] = false ∧ anyPsn [({ psn := true } : Val)] = true
    ∧ (one {}).bundleOk ∧ (one {}).readable [] .none :=
  ⟨by decide, by decide, by decide, by decide, by decide, fun _ h => (by cases h), rfl, by decide, by decide, one_bundle _, one_readable (by decide)⟩

theorem witness_SystemInstructions_invalidate : (one {}).isRollback (lane {}).ref = false ∧ refKind (lane {}).ref ≠ .ap
    ∧ (∀ id q, (id, q) ∈ (one {}).reqs → id < (one {}).issue.first → q.ref = (lane {}).ref → q.kind = .prefetch)
    ∧ (∀ id w, (id, w) ∈ (one {}).mem.writes → id < (one {}).issue.first → w.kid ≠ (one {}).ctxOf (lane {}).ref)
    ∧ ((0, loadReq) ∈ ({ one {} with reqs := [(0, loadReq)] } : State).reqs ∧ 0 < (one {}).issue.first ∧ loadReq.by (lane {}).ref = true
      ∧ loadReq.kind ≠ .prefetch)
    ∧ ((500, loadReq) ∈ ({ one {} with reqs := [(500, loadReq)] } : State).reqs ∧ (one {}).issue.first ≤ 500) :=
  ⟨by decide, by decide, fun _ _ h => (by cases h), fun _ _ h => (by cases h), by decide⟩

theorem witness_SystemInstructions_return : isOk ((one { handler := true, xpc := 65540 }).chainWords (laneRef 1 0 0) ((65540 : Dword).setWidth 57) 3).1 = true := by
  decide

/-! ### Events: each witness lists states that meet the conditions of the clauses of its statement -/

/-- The machine in a step of a power sequence. -/
def powered (r : PowerRun) (n : BitVec 5) : State := { State.reset with power := { run := r, step := n } }

theorem witness_PowerSequences : State.reset.power.run = .none ∧ State.reset.hub.dead = false ∧ (powered .up 1).power.run ≠ .none
    ∧ ((powered .down 2).power.run = .down ∧ (powered .down 2).power.step = 2 ∧ (powered .down 2).teams = [] ∧ (powered .down 2).power.pending = false)
    ∧ ({ powered .down 2 with teams := [(1, placeTeam false)] } : State).teams ≠ []
    ∧ ((powered .down 3).mem.writes = [] ∧ (powered .down 3).flushAll.power.pending = false) ∧ (powered .emergency 4).power.run = .emergency := by
  decide

theorem witness_PowerSequences_start : (State.reset.hub.starting = true → State.reset.hub.step ≠ 0)
    ∧ (let s : State := { State.reset with hub := { starting := true, step := 10 } }
       s.power.run = .none ∧ s.hub.starting = true ∧ s.hub.step ≠ 0) := by decide

theorem witness_PowerSequences_steps : ((powered .up 2).report 2 0).lacking 2 = [] ∧ ((powered .up 3).report 3 0).lacking 3 = []
    ∧ ((powered .up 4).report 4 0).lacking 4 = [] ∧ ((powered .up 7).report 7 0).lacking 7 = []
    ∧ ((powered .up 1).report 1 0x3C000190).lacking 1 = [] ∧ ((powered .up 1).report 1 0).lacking 1 ≠ [] ∧ (powered .up 1).power.pending = false := by
  decide

theorem witness_PowerSequences_limits :
    ((({ powered .up 4 with power := { run := .up, step := 4, rail := 0x00FFFFFF } } : State).report 4 0).lacking 4 ≠ [])
    ∧ ((({ powered .up 5 with power := { run := .up, step := 5, rail := 0x00FFFFFF } } : State).report 5 0).lacking 5 ≠ [])
    ∧ ((({ powered .up 6 with power := { run := .up, step := 6, rst := 0x00FFFFFF } } : State).report 6 0).lacking 6 ≠ []) := by decide

theorem witness_PowerSequences_sensors : (105 ≤ (105 : Word).toNat % 256) ∧ ¬ (105 ≤ (104 : Word).toNat % 256) ∧ (299 : Word).toNat < 300
    ∧ ¬ ((300 : Word).toNat < 300) := by decide

/-- A start in one of its steps. -/
def starting (n : Nat) : State := { State.reset with hub := { starting := true, step := n } }

theorem witness_StartAndLoss : State.reset.hub.starting = false ∧ (starting 9).hub.step = 9 ∧ (starting 10).trained = false
    ∧ ({ starting 10 with mem := { live := 0 } } : State).trained = true ∧ ({ starting 10 with mem := { live := 0 } } : State).mem.live = 0
    ∧ (let s : State := { starting 10 with mem := { live := 1, plinths := [(0, { lastph := 6 })] } }
       s.trained = true ∧ s.mem.live ≠ 0)
    ∧ ((starting 12).arm.topo = 0 ∧ (starting 12).hub.stopped = 0 ∧ (starting 12).hub.dead = false ∧ (starting 12).ev.cause ≠ 13
      ∧ (starting 12).ev.cause ≠ 15)
    ∧ (∀ n ∈ [13, 15], ({ starting 12 with ev := { cause := n } } : State).ev.cause = n)
    ∧ ((starting 14).arm.links.all fun p => p.2.step = 0) = true
    ∧ (({ starting 14 with arm := { links := [(0, { step := 1 })] } } : State).arm.links.all fun p => p.2.step = 0) = false
    ∧ (aget? (casting id).ctxs 1).isSome = true ∧ ((casting id).ctx 1).state = .live := by decide

/-- A core in a state. -/
def worn (x : CoreState) : State := { State.reset with wear := { recs := [(5, { state := x })] }, ev := { core := 5 } }

theorem witness_Wear : State.reset.hub.step ≠ 16 ∧ (starting 16).hub.step = 16 ∧ ((3 : Nat) < 160 ∧ 160 ≤ (255 : Nat)) ∧ ((worn .retired).coreRec 5).state = .retired ∧ ((worn .drained).coreRec 5).state ≠ .retired
    ∧ ((worn .drained).coreRec 5).state = .drained ∧ (worn .drained).teams = [] ∧ ((worn .nominal).coreRec 5).state ≠ .drained
    ∧ (let r : CoreRec := {}
       r.life < 2 ^ 16 ∧ r.bti < 2 ^ 32 ∧ r.em < 2 ^ 32 ∧ r.cycles < 2 ^ 64 ∧ r.wear < 2 ^ 64 ∧ r.cause < 2 ^ 8) := by decide

theorem witness_RegisterWrites : State.reset.ev.keep = false ∧ ({ State.reset with ev := { keep := true } } : State).ev.keep = true ∧ (1 : Word).toNat % 4 = 1 ∧ (2 : Word).toNat % 4 = 2 ∧ (3 : Word).getLsbD 0 = true ∧ State.reset.hub.busy = false
    ∧ ({ State.reset with hub := { opc := 1 } } : State).hub.opc = 1 ∧ State.reset.ctxregs.op = 0
    ∧ ({ State.reset with ctxregs := { op := 1 } } : State).ctxregs.op ≠ 0 ∧ (0x10000 : Word).getLsbD 16 = true := by decide

/-- A message of package 2 for a word of this package. -/
def message (n : Nat) : FabMsg := { srcPkg := 2, mask := 1, unit := n * 2 ^ 31, aop := 0, words := [7] }
def messaged (n : Nat) : State := { State.reset with ev := { msg := message n }, mem := { tags := [(0, 1)] } }

/-- The words that the message names. -/
def wordsOf (s : State) : List Nat := s.ev.msg.named.map (·.2)

/-- What a request of another package waits for. -/
def heldBy (s : State) (write : Bool) (but : Option Nat) (op : Instr) : Option State :=
  (wordsOf s).findSome? (s.remoteHold write but (s.againTaken op))

set_option maxRecDepth 20000 in
theorem witness_FabricMessages : (messaged 1).ev.msg.unit / 2 ^ 31 ≠ (messaged 1).arm.pkgid ∧ (messaged 0).ev.msg.unit / 2 ^ 31 = (messaged 0).arm.pkgid
    ∧ (messaged 0).ev.keep = false ∧ (messaged 0).ev.msg.named = [(0, 0)] ∧ (messaged 0).ev.msg.aop < 13
    ∧ heldBy (messaged 0) false none .rdw = none ∧ heldBy (messaged 0) true (some 2) .rdo = none
    ∧ (messaged 0).slotHold ((messaged 0).ev.msg.unit % 2 ^ 31 * 64) 2 ((messaged 0).againTaken .rdo) = none
    ∧ ((messaged 0).ev.msg.named.any fun p => ((messaged 0).mcwEntry p.2).isNone) = true ∧ aget? (messaged 0).arm.waits 0 = none := by decide

/-- A word that package 3 holds modified, and a replica of device memory. -/
def remoteWord : State := (messaged 0).modMem fun m => { m with recalls := [(0, [3])] }
def replicating : State := { messaged 0 with ctxs := [(1, { state := .live, key := some 1, reps := [(0, replica)] })] }

/-- A unit of which packages 3 to 6 hold words modified, and of which this package recalls word 1 from package 3. -/
def slotted : State :=
  let ws : AMap DirWord := [(1, { rst := 2, ridx := 0 }), (2, { rst := 2, ridx := 1 }), (3, { rst := 2, ridx := 2 }), (4, { rst := 2, ridx := 3 })]
  let s := (messaged 0).modMem fun m => { m with recalls := [(1, [3])], dir := [(0, { rlist := [3, 4, 5, 6], words := ws })] }
  { s with arm := { s.arm with routes := [(3, { valid := true, group := 2 })] } }

theorem witness_FabricMessages_waits : (heldBy remoteWord false none .rdw).isSome = true
    ∧ (heldBy remoteWord true (some 2) .rdo).isSome = true ∧ heldBy slotted true (some 2) .rdo = none
    ∧ (slotted.slotHold (slotted.ev.msg.unit % 2 ^ 31 * 64) 2 (slotted.againTaken .rdo)).isSome = true ∧ slotted.mem.modifiedAt 3 = [1]
    ∧ replicating.mcwEntry 0 = some (1, replica) ∧ (replicating.ev.msg.named.any fun p => (replicating.mcwEntry p.2).isNone) = false
    ∧ replicating.admits 1 (0 - aget 0 replica.pa 0 * 2 ^ 19 + aget 0 replica.pa 3 * 2 ^ 19) false = true
    ∧ (let s : State := { remoteWord with arm := { waits := [(0, 3, 1, 0)] } }
       aget? s.arm.waits 0 = some (3, 1, 0) ∧ aget? s.mem.recalls 0 = some [3] ∧ s.arm.unsent = [])
    ∧ ((replicating.remoteKid 0).2.admits (replicating.remoteKid 0).1 0 false = true)
    ∧ (State.reset.arm.waits = [] ∧ State.reset.arm.unsent = [] ∧ State.reset.hub.evq.length < 64)
    ∧ ((messaged 0).modMem fun m => { m with dir := [(0, { rlist := [3], words := [(1, { rst := 2, ridx := 0 })] })] }).mem.modifiedAt 3 = [1]
    ∧ ({ unsent := [(message 0, 0, 0)] } : Arm).unsent ≠ [] ∧ (slotted.dirWord 1).rst = 2
    ∧ 3 ∉ State.reset.arm.down ∧ 3 ∈ ({ State.reset with arm := { down := [3] } } : State).arm.down
    ∧ (14 : Nat) < 16 ∧ ((messaged 0).mem.modifiedAt 3) = [] := by decide

/-- A write that was stamped when it entered, at the head of its package's order, and a unit under the live key id that holds its word. -/
def stamped : Write := { comp := 2, core := none, kid := 1, w := 0, data := 7, mask := 15, psn := false, stamp := some { d2 := 1 } }
def ordered : State :=
  let s := replicating.modMem fun m => { m with writes := [(9, stamped)], llc := [(0, { kid := 1, words := [] })] }
  { s with ev := { s.ev with keep := true, words := [9] } }

/-- That write, whose word a package holds, or is lost with a package. -/
def orderedHeld : State := ordered.modMem fun m => { m with recalls := [(0, [3])] }
def orderedLost : State := { ordered with ev := { ordered.ev with lost := [0] } }

set_option maxRecDepth 20000 in
theorem witness_FabricMessages_writes : ordered.ev.keep = true ∧ ordered.ev.words = [9] ∧ aget? ordered.mem.writes 9 = some stamped
    ∧ ordered.takenHold none (ordered.again .wrw) [9] = none ∧ (orderedHeld.takenHold none (orderedHeld.again .wrw) [9]).isSome = true
    ∧ ordered.takenHold (some 2) (ordered.again .atw) [9] = none ∧ (orderedHeld.takenHold (some 2) (orderedHeld.again .atw) [9]).isSome = true
    ∧ ordered.isLost 0 = false ∧ orderedLost.isLost 0 = true ∧ orderedLost.takenHold none (orderedLost.again .wrw) [9] = none
    ∧ ordered.ev.msg.named = [(0, 0)] ∧ stamped.w = 0 := by decide

/-- A link with its ports locked, up or in a training step. -/
def linked (l : Link) : State :=
  let ps : AMap Port := [(4, { en := true, lock := true }), (5, { en := true, lock := true })]
  { State.reset with arm := { topo := 1, links := [(2, l)], ports := ps, routes := [(3, { valid := true, group := 2 })] },
                     ev := { link := 2, port := 4, val := 1 }, power := { rail := 0x00FFFFFF } }

theorem witness_FabricLinks : ((linked {}).link 2).up = false ∧ (linked {}).arm.topo ≠ 0 ∧ (linked {}).lockedPorts 2 ≠ [] ∧ State.reset.lockedPorts 2 = []
    ∧ ((linked { up := true }).link 2).up = true ∧ ((linked { step := 3 }).link 2).step = 3 ∧ (linked { step := 4 }).peerOk 2 = false
    ∧ (linked { step := 4, peerv := true, peerpkg := 3 }).peerOk 2 = true ∧ ((linked {}).link 2).step = 0
    ∧ (((linked { step := 1 }).trainPorts 2).length = 2
        ∧ (((linked { step := 1 }).trainPorts 2).filter fun q => (linked { step := 1 }).ev.val.getLsbD (q % 2)).length = 1)
    ∧ (linked { step := 3 }).trainPorts 2 = [4, 5] ∧ ((linked { step := 3 }).port 4).feccor ≤ 128 ∧ ((linked { step := 3 }).port 4).bad = 0
    ∧ (∃ q ∈ ((linked { step := 3 }).modPort 4 fun p => { p with feccor := 129 }).trainPorts 2,
        128 < (((linked { step := 3 }).modPort 4 fun p => { p with feccor := 129 }).port q).feccor)
    ∧ ((linked { step := 5 }).link 2).up = false ∧ ((linked { step := 5, up := true }).link 2).up = true
    ∧ (linked { up := true }).lockedPorts 2 = [4, 5] ∧ ((linked {}).modPort 5 fun p => { p with lock := false }).lockedPorts 2 = [4]
    ∧ (∃ q ∈ (linked { up := true }).lockedPorts 2, q ≠ 4) := by decide

set_option maxRecDepth 1000000 in
theorem witness_FabricLinks_flits : correctFlit [] = none ∧ (correctFlit (buildFlit 0x00100000 [])).isSome = true
    ∧ bitsOf (0x00100000 : Word) 29 20 = ((linked { up := true }).link 2).rxseq + 1 ∧ bitsOf (0x00100000 : Word) 31 30 ≠ 3
    ∧ (0x00100000 : Word).getLsbD 8 = false ∧ (linked { up := true }).arm.down = []
    ∧ (((linked { up := true }).port 4).en = true ∧ ((linked { up := true }).port 4).tmode = 0 ∧ ((linked { up := true }).link 2).up = true)
    ∧ (linked { up := true }).portLive 4 = true ∧ (linked { up := true }).portLive 6 = false
    ∧ ((linked { up := true }).port 5).tmode = 0 ∧ ((linked { up := true }).link 2).outq = []
    ∧ (((linked { up := true }).modPort 5 fun p => { p with tmode := 2 }).port 5).tmode ≠ 0
    ∧ ((linked { up := true }).port 6).en = false ∧ ((linked { up := true }).link 2).early = [] ∧ ((linked { up := true }).link 2).waiting = false
    ∧ seqBefore 0 ((linked { up := true }).link 2).rxseq < 512 ∧ 512 ≤ seqBefore 2 ((linked { up := true }).link 2).rxseq
    ∧ ((linked { up := true }).link 2).expects 0 = 2 ∧ (parseSlots 15 (List.replicate 240 0)).filterMap id = [] := by decide

set_option maxRecDepth 20000 in
theorem witness_FabricLinks_message : (let m := { message 0 with opc := 1, words := [] }
    knownOpc m.opc = true ∧ m.srcComp < 6 ∧ m.srcPkg < 1024 ∧ m.dstPkg < 1024 ∧ m.tag < 4096 ∧ m.unit < 2 ^ 41 ∧ m.aop = 0
    ∧ m.words.length = (if carriesData m.opc then (maskWords m.mask).length else 0) ∧ m.be = [] ∧ (msgBytes m).length ≤ 240) := by decide

/-- The placed machine with an access of die 0 to a word, and a write under way. -/
def homing (w : Nat) (x : Write) : State :=
  { (one {}).modMem fun m => { m with writes := [(9, x)] } with ev := { id := 9, die := 0, kid := 1, w := w } }
def aWrite : Write := { comp := 0, core := none, kid := 1, w := 20, data := 7, mask := 15, psn := false }

theorem witness_Homes : (homing 20 aWrite).serves 1 20 = true ∧ (homing 20 aWrite).serves 2 20 = false
    ∧ (homing 20 aWrite).readHold 0 20 (event .homeReadShared (homing 20 aWrite).ev) = none
    ∧ (homing 20 aWrite).dieHold 1 20 (event .homeReadForModification (homing 20 aWrite).ev) = none
    ∧ (homing 20 aWrite).isLost 20 = false ∧ ({ homing 20 aWrite with ev := { lost := [20] } } : State).isLost 20 = true
    ∧ (homing 20 aWrite).l2Word 0 1 20 = none ∧ (∀ p ∈ (homing 20 aWrite).mem.l2, (homing 20 aWrite).pinned p.2 = false) ∧ 20 / 64 < 2 ^ 46
    ∧ ((homing 20 aWrite).mem.l2.filter fun p => p.1 / 2 ^ 46 = 0 ∧ l2Set (p.1 % 2 ^ 46) = l2Set (20 / 64)).length ≤ 16
    ∧ aget? (homing 20 aWrite).mem.writes 9 = some aWrite ∧ aWrite.stamp = none ∧ aWrite.cls ≠ .stream
    ∧ aWrite.mcw = none ∧ aWrite.out = none ∧ aWrite.atHome = false
    ∧ (homing 20 aWrite).writeHold 1 20 (event .homeWrite (homing 20 aWrite).ev) = none
    ∧ (homing 20 aWrite).writeHold 1 20 (event .homeAtomic (homing 20 aWrite).ev) = none
    ∧ (homing 20 aWrite).dieHold 1 20 (event .performAtDie (homing 20 aWrite).ev) = none ∧ ((homing 20 aWrite).ctx 1).build = none := by decide

theorem witness_Homes_held : (let s := (homing 20 aWrite).modMem fun m => { m with recalls := [(20, [3])] }
    (s.readHold 0 20 (event .homeReadShared s.ev)).isSome = true ∧ (s.writeHold 1 20 (event .homeWrite s.ev)).isSome = true
      ∧ (s.dieHold 1 20 (event .performAtDie s.ev)).isSome = true ∧ (s.dieHold 1 20 (event .homeReadForModification s.ev)).isSome = true)
    ∧ ({ aWrite with mcw := some {} }.mcw = some {}) ∧ ({ aWrite with out := some Loc.none }.out = some Loc.none)
    ∧ (let s := homing 16384 aWrite
       ∃ c, s.l2Word 0 1 16384 = some c ∧ c.st = .shared) := ⟨by decide, rfl, rfl, _, rfl, rfl⟩

/-- That write, of a word of host memory that die 1 holds modified. -/
def hostWrite : Write := { aWrite with out := some (.host 20) }

theorem witness_Homes_host : aget? (homing 20 hostWrite).mem.writes 9 = some hostWrite ∧ hostWrite.mcw = none ∧ hostWrite.atom = none
    ∧ hostWrite.comp < 4 ∧ hostWrite.mask = 15 ∧ hostWord 20 / 64 < 2 ^ 46
    ∧ ((homing 20 hostWrite).mem.l2.filter fun p => p.1 / 2 ^ 46 = 0 ∧ l2Set (p.1 % 2 ^ 46) = l2Set (hostWord 20 / 64)).length ≤ 16
    ∧ (∃ c, (homing 16384 aWrite).l2Word 0 1 16384 = some c ∧ c.judge 16384 ≠ .bad) := ⟨by decide, by decide, by decide, by decide, by decide, by decide, by decide, _, rfl, by decide⟩

theorem witness_Homes_apply : (let st : VClock := { d0 := 1 }
    let x : Write := { aWrite with stamp := some st, togo := [1] }
    let s := { homing 20 x with ev := { id := 9, die := 1 } }
    aget? s.mem.writes 9 = some x ∧ 1 ∈ x.togo ∧ st.comp x.comp = (s.vc 1).comp x.comp + 1 ∧ (∀ k < 6, k ≠ x.comp → st.comp k ≤ (s.vc 1).comp k))
    ∧ ∃ u, aget? (one {}).mem.l2 (l2Key 0 256) = some u ∧ (one {}).pinned u = false := ⟨by decide, _, rfl, rfl⟩

theorem witness_ErrorCode_poison : poisonedWord.llcWord 1 20 = none
    ∧ (let x := (poisonedWord.llcRoom 1 (20 / 64)).mem
       judge (sigOf 20) (x.storedData 20) (x.storedCheck 20) = .poison) := by decide

theorem witness_ErrorCode : (∃ j : Fin 32, hTimes 0x3B800000 ^^^ 0xA7 ^^^ 0x1E = hColumn j.val) ∧ popCount 32 1 + popCount 8 0 = 1
    ∧ popCount 32 1 + popCount 8 1 = 2 ∧ popCount 8 (1 : Nat) = 1 ∧ (0 : Nat) ≠ 1 ∧ popCount 37 (0 ^^^ 1) ≤ 2 ∧ sigOf 0 ≠ sigOf 1 := by
  refine ⟨⟨26, by decide⟩, by decide⟩

/-- A machine that asks for a part of a stack. -/
def parted : State := { one {} with ev := { kid := 1, ch := 3, words := [64], stack := 2 } }

theorem witness_Stacks : parted.keyOf 1 ≠ none ∧ parted.keyOf 7 = none ∧ backed parted.mem.span 64 = true ∧ parted.llcWord 1 64 = none
    ∧ judge (sigOf 64) (parted.mem.storedData 64) (parted.mem.storedCheck 64) = .clean (parted.mem.storedData 64)
    ∧ ahas parted.mem.swaps 3 = false ∧ aget [] parted.mem.swapq 3 = [] ∧ (parted.mem.stack 0).en = true ∧ aget? parted.mem.holds 0 = none
    ∧ (parted.mem.stack 2).busy = false ∧ parted.mem.mapped 0 = true ∧ { parted.mem with span := 2 }.mapped 7 = false := by decide

theorem witness_Stacks_initialise : parted.power.resume = false ∧ ({ parted with power := { resume := true } } : State).power.resume = true
    ∧ (∀ w, w = 64 → judge (sigOf w) ((parted.llcRoom 1 (w / 64)).mem.storedData w) ((parted.llcRoom 1 (w / 64)).mem.storedCheck w)
        = .clean ((parted.llcRoom 1 (w / 64)).mem.storedData w)) := by
  refine ⟨rfl, rfl, fun w hw => ?_⟩
  subst hw
  decide

/-- A channel with swaps, a scrub that waits, and a stack in training. -/
def scrubbing (x : AMap Swap) (n : Nat) : State :=
  parted.modMem fun m => { m with swaps := x, swapq := [(3, [(1, n)])], holds := [(0, 7)], plinths := [(2, { busy := true, phase := 6 }), (0, { en := false })] }

set_option maxRecDepth 20000 in
theorem witness_Stacks_work : (aget [] (scrubbing [] 511).mem.swapq 3 = [(1, 511)] ∧ ahas (scrubbing [] 511).mem.swaps 3 = false)
    ∧ aget? (scrubbing [(3, { bank := 1, p := 0, q := 1, count := 14 })] 0).mem.swaps 3 = some { bank := 1, p := 0, q := 1, count := 14 }
    ∧ (let s := scrubbing [(3, { bank := 1, p := 0, q := 1, count := 15 })] 0
       s.mem.logicalRow 3 1 0 ≠ s.mem.logicalRow 3 1 1)
    ∧ aget? (scrubbing [] 0).mem.holds 0 = some 7 ∧ ((scrubbing [] 0).mem.stack 2).busy = true ∧ ((scrubbing [] 0).mem.stack 0).en = false := by decide

/-- The host's access to a line of device memory. -/
def hosting (h : Hub) : State := { casting id with hub := h, ev := { off := 64, be := 0xF000000000000000 } }

theorem witness_HostAccess : (hosting {}).hub.hdm = false ∧ (hosting { hdm := true }).hub.hdm = true ∧ ((hosting { hdm := true }).ctx 1).state = .live
    ∧ (State.reset.ctx State.reset.ctxregs.hostkid).state ≠ .live ∧ (hosting { hdm := true }).hub.filterVictim 1 = none
    ∧ (hosting { hdm := true }).hostHolds 1 false ((hosting { hdm := true }).hostAgain .hostMemRead) ((List.range 16).map (16 + ·)) = none
    ∧ (hosting { hdm := true }).hostHolds 1 true ((hosting { hdm := true }).hostAgain .hostMemWrite) ((List.range 16).map (16 + ·)) = none
    ∧ (hosting { hdm := true }).isLost 31 = false ∧ ({ cause := 1 } : EvArgs).cause = 1
    ∧ (hosting { hdm := true }).serves 1 31 = true ∧ (hosting {}).ev.be.toNat / 2 ^ 60 = 15 ∧ ((hosting {}).ctx 1).build = none
    ∧ backed 3 (2 ^ 37 + 15) = false := by decide

theorem filter_full (h : Hub) (n : Nat) (e : Nat × Nat) (hf : h.filter = List.replicate n e) (hn : 2 ^ 20 ≤ n) (he : e.1 ≠ 1) :
    ∃ v, h.filterVictim 1 = some v := by
  obtain ⟨m, rfl⟩ : ∃ m, n = m + 1 := ⟨n - 1, by omega⟩
  have habs : ahas h.filter 1 = false := by
    rw [hf]
    simp only [ahas]
    induction m + 1 with
    | zero => rfl
    | succ k ih => simp_all [List.replicate, aget?]
  have hlen : ¬ h.filter.length < 2 ^ 20 := by rw [hf, List.length_replicate]; omega
  have fold : ∀ (l : List (Nat × Nat)) (b : Nat × Nat), ∃ c, l.foldl (fun (b : Option (Nat × Nat)) p =>
      match b with
      | none => some p
      | some q => if p.2 < q.2 then some p else b) (some b) = some c := by
    intro l
    induction l with
    | nil => exact fun b => ⟨b, rfl⟩
    | cons p l ih =>
      intro b
      simp only [List.foldl_cons]
      split
      · exact ih p
      · exact ih b
  obtain ⟨c, hc⟩ := fold (List.replicate m e) e
  refine ⟨c.1, ?_⟩
  rw [Hub.filterVictim, if_neg (by rw [habs]; simpa using hlen), hf, List.replicate_succ, List.foldl_cons]
  exact congrArg (Option.map fun x => x.1) hc

theorem witness_HostAccess_full : ∃ v, (hosting { hdm := true, filter := List.replicate (2 ^ 20) (7, 0) }).hub.filterVictim 1 = some v :=
  filter_full _ (2 ^ 20) (7, 0) rfl (by omega) (by decide)

theorem witness_HostAccess_held : (let s := (hosting { hdm := true }).modMem fun m => { m with recalls := [(16, [3])] }
    (s.hostHolds 1 false (s.hostAgain .hostMemRead) ((List.range 16).map (16 + ·))).isSome = true
      ∧ (s.hostHolds 1 true (s.hostAgain .hostMemWrite) ((List.range 16).map (16 + ·))).isSome = true) := by decide

/-- A line of host memory of which die 2 has modified a word. -/
def hostHolding : State := (hosting { hdm := true }).modMem fun m => 
  { m with l2 := aset m.l2 (l2Key 2 (hostWord 20 / 64)) { kid := 0, words := [(hostWord 20 % 64, cword (hostWord 20) 7 false .modified 15)] } }

theorem witness_HostAccess_recall : hostHolding.hub.hdm = true
    ∧ hostHolding.hostHeld 2 20 = some (cword (hostWord 20) 7 false .modified 15) ∧ (cword (hostWord 20) 7 false .modified 15).st = .modified
    ∧ (cword (hostWord 20) 7 false .modified 15).judge (hostWord 20) = .clean 7
    ∧ (∀ k < 4, k ≠ 2 → aget? hostHolding.mem.l2 (l2Key k (hostWord 20 / 64)) = none) ∧ 20 ∈ (List.range 16).map (1 * 16 + ·) := by
  decide

/-- A command that has been started with an input of zeros. -/
def commanded (n : Nat) (r : Bool) : Hub := { busy := true, ready := r, len := n }

theorem witness_MailboxAndQueues : State.reset.hub.busy = false ∧ (commanded 0 false).busy = true ∧ (commanded 0 false).ready = false
    ∧ ((commanded 31 true).buf.readAll 0 (min (commanded 31 true).len 4096)).length < 32
    ∧ 33 ≤ ((commanded 33 true).buf.readAll 0 (min (commanded 33 true).len 4096)).length
    ∧ leAt ((commanded 33 true).buf.readAll 0 33) 0 4 ≤ (commanded 33 true).mlog.flatten.length
    ∧ (({ commanded 4 true with buf := [(0, 1)] } : Hub).mlog.flatten.length < leAt (({ commanded 4 true with buf := [(0, 1)] } : Hub).buf.readAll 0 4) 0 4)
    ∧ leAt (({ commanded 5 true with buf := [(0, 16)] } : Hub).buf.readAll 0 5) 0 1 = 16
    ∧ leAt (({ commanded 5 true with buf := [(0, 3)] } : Hub).buf.readAll 0 5) 0 1 = 3
    ∧ (aget 0 (commanded 5 true).minSvn 3 : Word) ≤ 0 := by decide

/-- The hub with a queue of the placed context that holds one entry. -/
def queued : Hub := { hdm := true, cqs := [(0, { base := 65792, ctx := 1, en := true, tail := 1 })] }
def queueing (ws : List Word) : State :=
  let s := (recording []).modMem fun m => { m with llc := [(257, { kid := 1, words := (List.range 64).map fun i => (i, placeWord (16448 + i) (ws.getD i 0)) })] }
  { s with hub := queued }

/-- Its entry, as the hub reads it. -/
def entryRead (ws : List Word) : List (Word × Bool) × State :=
  ((queueing ws).modHub fun x => { x with turn := 1 }).hostWords 1 false ((List.range 16).map (16448 + ·))

/-- The machine when the hub has seen the queue. -/
def seen (ws : List Word) : State := (queueing ws).modHub fun x => { x with turn := 1 }

theorem witness_MailboxAndQueues_queue : (aget {} queued.cqs 0 : CmdQueue).waiting = true ∧ ((queueing []).ctx 1).state = .live
    ∧ (queueing []).storeUsed 0 < 4096 ∧ cqEntry (entryRead []).1 = .nop ∧ cqEntry (entryRead [0, 0, 2]).1 = .bad
    ∧ cqEntry (entryRead [0x10100, 0, 1]).1 = .submit 0x10100
    ∧ (∀ i ∈ [Instr.cqSubmit, .cqNop], (((List.range 16).map (16448 + ·)).findSome? fun w => (seen []).readHold 4 w (event i (seen []).ev)) = none)
    ∧ (let s := (seen []).modMem fun m => { m with recalls := [(16448, [3])] }
       (((List.range 16).map (16448 + ·)).findSome? fun w => s.readHold 4 w (event .cqSubmit s.ev)).isSome = true) ∧ (aget {} State.reset.hub.cqs 0 : CmdQueue).waiting = false := by decide

/-- A context on its own. -/
def contexts (c : Nat) (x : Ctx) : State := { State.reset with ctxs := [(0, {}), (1, x)], ev := { ctx := c } }

theorem witness_Contexts : (contexts 0 {}).ev.ctx = 0 ∧ (contexts 1 {}).ev.ctx ≠ 0 ∧ ((contexts 1 {}).ctx 1).state = .free
    ∧ ((contexts 1 { state := .live }).ctx 1).state = .live ∧ (casting id).hasWork 1 = true ∧ (contexts 1 { state := .live }).hasWork 1 = false
    ∧ (contexts 1 { state := .destroying }).accepted 1 = false ∧ ((contexts 1 { state := .destroying }).ctx 1).state = .destroying
    ∧ (homing 20 aWrite).accepted 1 = true ∧ (homing 20 aWrite).writesApplied 1 = false
    ∧ ((contexts 1 { state := .destroying, key := some 1 }).admits 1 0 true = true ∧ (contexts 1 { state := .destroying, key := some 1 }).admits 1 0 false = false)
    ∧ (({ homing 20 aWrite with teams := [], launches := [] } : State).hasWork 1 = false ∧ ((homing 20 aWrite).ctx 1).state = .live)
    ∧ ((contexts 1 { state := .live, valid := true }).ctx 1).valid = true := by decide

theorem witness_Contexts_restore : (let s := contexts 1 { state := .live, valid := true }
    let y := (((s.removeWork 1).dropUpper 1).dropTranslations 1).dropLlc 1 false
    (y.readCast 1).1 = none) := by decide

theorem witness_Contexts_cast : (contexts 1 { state := .live, build := some { toB := true } }).writesApplied 1 = true
    ∧ (∀ p ∈ (contexts 1 { state := .live, build := some { toB := true } }).teams, p.2.ctx ≠ 1)
    ∧ ((contexts 1 { build := some { toB := true, point := true, pages := [(1, 2)] } }).ctx 1).build = some { toB := true, point := true, pages := [(1, 2)] }
    ∧ ((contexts 1 { build := some { toB := true, point := true } }).ctx 1).build = some { toB := true, point := true }
    ∧ ((contexts 1 {}).ctx 1).build = none ∧ (∃ p ∈ (casting id).teams, p.2.ctx = 1) := by decide

/-- The cast set of a context is found, has some pages, and no word of them is elsewhere. -/
def castFound (s : State) (n : Nat) : Bool :=
  match s.castSet 1 with
  | (.error _, _) => false
  | (.ok ps, y) => (y.strayWord (ps.map (·.2))).isNone && listPages ps.length + ps.length == n

set_option maxRecDepth 100000 in
theorem witness_Contexts_point : castFound (contexts 1 { state := .live, build := some { toB := true }, buflen := 1 }) 1 = true := by decide

/-- A word of the page table is recalled, or a page of the set is modified elsewhere. -/
def castWaits (s : State) : Bool :=
  match s.castSet 1 with
  | (.error _, _) => true
  | (.ok _, _) => false

set_option maxRecDepth 100000 in
theorem witness_Contexts_point_waits : castWaits ((contexts 1 { state := .live, key := some 1, build := some { toB := true }, buflen := 1 }).modMem fun m =>
    { m with recalls := [(0, [3])] }) = true := by decide

/-- A restoring context whose buffer holds a Cast without pages, its table unbacked. -/
def restorable : State :=
  (contexts 1 { state := .restoring, key := some 1, ptroot := 2 ^ 25, buflen := 1, valid := true }).modMem fun m =>
    { m with llc := [(0, { kid := 1, words := (List.range 4).map fun i => (i, placeWord i ([0x43415354, 0, 0, 0].getD i 0)) })] }

/-- A restore of it reads its list and writes its pages, or waits. -/
def restores (s : State) : Bool :=
  match s.readCast 1 with
  | (none, _) => false
  | (some vs, r) => (r.restorePages 1 vs (event .ctxRestore { ctx := 1, keep := true })).1

set_option maxRecDepth 100000 in
theorem witness_Contexts_restores : (restorable.listHold 1 (event .ctxRestore { ctx := 1, keep := true })).isNone = true ∧ restores restorable = true
    ∧ restorable.ev.lost = [] ∧ (restorable.ctx 1).state = .restoring
    ∧ ((restorable.modMem fun m => { m with recalls := [(0, [3])] }).listHold 1 (event .ctxRestore { ctx := 1, keep := true })).isSome = true := by decide

/-- The machine with the placed launch ready, or waiting for a dependence. -/
def dispatching (r : Bool) (ds : List Dword) : State :=
  let s := (recording []).modLaunch 1 fun l => { l with ready := r, rc := { l.rc with deps := ds } }
  { s with ev := { id := 1 } }

/-- What its dependences come to. -/
def depsOf (s : State) (ds : List Dword) : List DepRead := (s.readDeps 1 (s.launch 1) ds).1

theorem witness_Dispatch : akeys ((dispatching false []).launches.filter fun p => p.1 = 1) = [1] ∧ ((dispatching false []).launch 1).die = (dispatching false []).ev.die
    ∧ ((dispatching true []).launch 1).ready = true ∧ ((dispatching false []).launch 1).ready = false ∧ ((dispatching false []).launch 1).status = none
    ∧ depsOf (dispatching false []) [0] = [.met] ∧ depsOf (dispatching false []) [0x0100000000000000] = [.failed]
    ∧ depsOf (dispatching false []) [65792] = [.pending]
    ∧ depsOf ((one {}).modMem fun m => { m with recalls := [(16448, [3])] }) [65792] = [.waits] := by decide

theorem witness_Dispatch_decisions : State.reset.power.hold = false ∧ ({ State.reset with power := { hold := true } } : State).power.hold = true
    ∧ (dispatching false []).mayPlace 1 ((dispatching false []).launch 1) = false ∧ aget? State.reset.launches State.reset.ev.id = none
    ∧ (let l : Launch := { (dispatching true []).launch 1 with passed := 2 ^ max 10 ((dispatching true []).sched 0).resv }
       l.ready = true ∧ l.status = none ∧ 2 ^ max 10 ((dispatching true []).sched l.die).resv ≤ l.passed)
    ∧ (∀ c ∈ (one {}).pool 0 0, c.ref ∈ c.unit) ∧ (one {}).pool 0 0 ≠ [] := by decide

/-- The placed machine with every thread exited, and with its launch ended. -/
def ended : State := { (one {}).setThread (laneRef 1 0 0) { exited := true } with ev := { id := 1 } }
def finished (st : Option (Nat × Word)) : State :=
  { (one {}).modLaunch 1 fun l => { l with status := st, nextCoh := 1, rc := { l.rc with cplt := 1 } } with teams := [], ev := { id := 1 } }

theorem witness_TeamLifecycle : ¬ (ahas State.reset.teams 0 = true) ∧ ahas ended.teams 1 = true ∧ ended.teamOver 1 = true ∧ ahas ended.launches 1 = true
    ∧ aget? State.reset.launches 0 = none ∧ (∃ l, aget? (finished none).launches 1 = some l ∧ l.status = none ∧ (finished none).launchOver 1 l = true
        ∧ l.rc.cplt.toNat % 16 ≠ 0 ∧ (∀ p ∈ (finished none).scheds, p.2.parked = []))
    ∧ (∃ l, aget? (one {}).launches 1 = some l ∧ (one {}).launchOver 1 l = false)
    ∧ (∃ l, aget? (finished (some (3, 0))).launches 1 = some l ∧ l.status = some (3, 0)) :=
  ⟨by decide, by decide, by decide, by decide, by decide, ⟨_, rfl, by decide, by decide, by decide, by decide⟩, ⟨_, rfl, by decide⟩, _, rfl, by decide⟩

/-- The placed team with its issue stopped, as an event for it finds it. -/
def halted (h : Option Halt) (streak : Nat) (ph esc : Bool) : State :=
  { (one {}).modTeam 1 fun t => { t with halt := h, streak := streak, phased := ph, escaped := esc } with ev := { id := 1, cause := 0x12 } }

theorem witness_TeamLifecycle_rollback : ((halted none 0 false false).team 1).halt = none ∧ ((halted none 0 false false).team 1).escaped = false
    ∧ ((halted none 0 false true).team 1).escaped = true ∧ ((halted (some .abort) 0 false false).team 1).halt = some .abort
    ∧ (let s := halted (some .save) 1 true false
       let y := (s.squashAp 1).modTeam 1 fun x => { x with halt := some (.roll 0x12 false true) }
       y.drained 1 = true ∧ (s.launch (s.team 1).launch).countFault = none ∧ (s.team 1).streak < 2 ∧ (s.team 1).phased = true)
    ∧ 2 ≤ ((halted none 2 false false).team 1).streak
    ∧ ((halted (some (.roll 0x12 false false)) 0 false false).team 1).halt = some (.roll 0x12 false false)
    ∧ ({ halted none 0 false false with reqs := [(9, loadReq)] } : State).drained 1 = false := by decide

theorem witness_TeamLifecycle_shadow : ((halted none 0 true false).team 1).shadow = false
    ∧ (((halted none 0 true false).modTeam 1 fun t => { t with shadow := true }).team 1).shadow = true := by decide

theorem witness_TeamLifecycle_save : (let s := halted (some .save) 0 false false
    let us := akeys (s.teams.filter fun p => p.2.launch = s.ev.id ∧ ((s.launch s.ev.id).resident ∨ p.2.coh = s.ev.ix))
    us = [1] ∧ (∀ u ∈ us, s.drained u = true) ∧ ∀ p ∈ s.teams, p.2.halt = some .save ∧ p.2.shadow = false) := by decide

/-- A team that is over, with a write in its log. -/
def logged : State := ended.modTeam 1 fun t => { t with log := [{ loc := .dev 20, data := 7, mask := 15, psn := false, atom := none, ref := laneRef 1 0 0 }] }

theorem witness_TeamLifecycle_log : ahas logged.teams 1 = true ∧ logged.teamOver 1 = true ∧ (logged.team 1).log ≠ [] ∧ (ended.team 1).log = [] := by
  decide

/-- A team without groups and accumulators that is to be saved, its slot at the packet's page. -/
def saving : State :=
  ((halted (some .save) 0 false false).modTeam 1 fun t => { t with groups := [], accs := 0 }).modLaunch 1 fun l =>
    { l with rc := { l.rc with save := 65536, groups := 0, xpool := 0, acc := 0, spad := 0 } }

theorem witness_TeamLifecycle_saves : (let y := (saving.squashTeams [1]).2
    [1].all y.drained = true ∧ (y.saveTeams (event .preemptSave saving.ev) [1]).1 = .done) := by decide +kernel

/-- The fault queue of die 0 with one record. -/
def faulted (r : Bool) : State := { State.reset with faults := [(0, { recs := [{ id := 5, ctx := 1, va := 65536, kind := 0, tlb := 0, read := r }] })], ev := { id := 5 } }

theorem witness_TeamLifecycle_faults : (∀ x ∈ ((faulted true).faultsOf 0).recs, x.read = true)
    ∧ (((faulted false).faultsOf 0).recs.find? fun y => !y.read).isSome = true ∧ (∃ x ∈ ((faulted true).faultsOf 0).recs, x.id = 5)
    ∧ (∀ x ∈ (State.reset.faultsOf 0).recs, x.id ≠ 5) := by decide

/-- The placed machine that is about to run IADDI n3, 8 => n3. -/
def placed : State := placeWith State.reset false 0x10098443

/-- Its bundle. -/
def placedBundle : Bundle := { cycle := 0, pc := 65540, refs := [laneRef 1 0 0] }

/-- Its chain. -/
def fetchedChain : Except Excuse Chain × State :=
  let s := { placed with bundles := [] }
  let refs := [laneRef 1 0 0]
  let ts := amap s.teams fun _ t => t.seenAt (s.cyc + 0)
  State.fetchChain { s with issue := { act := s.lanesOf placedBundle, all := refs, first := s.nextId, teams := ts, cycle := 0, pc := 65540, here := 65540 } }
    (laneRef 1 0 0) 65540

/-- The chain of that instruction passes its checks, and nothing holds it. -/
def chainRuns (x : Except Excuse Chain × State) : Bool :=
  match x with
  | (.ok c, f) =>
    match checkChain .lane (f.allotOf [{ ref := laneRef 1 0 0, pre := { pc := 65540 } }]) c with
    | .ok ws => (ws.map (·.instr) == [.iaddi (.n 3) 8 (.reg (.n 3))]) && !clauseWaits { pc := 65540 } c.hdr && !flagWaits { pc := 65540 } c ws
    | .error _ => false
  | (.error _, _) => false

theorem witness_StepRunsDecodedInstruction : placed.agenda = [] ∧ placed.bundles = [placedBundle]
    ∧ ({ placed with bundles := [] } : State).lanesOf placedBundle = [{ ref := laneRef 1 0 0, pre := { pc := 65540 } }]
    ∧ chainRuns fetchedChain = true ∧ (ran placed).agenda = [] ∧ State.reset.bundles = [] ∧ State.reset.agenda = []
    ∧ replying.agenda = [] ∧ ({ placed with agenda := [event .nop {}] } : State).agenda ≠ [] := by decide

theorem witness_FormsComplete : (one {}).bundleOk ∧ (∀ l ∈ (one {}).issue.act, refKind l.ref = .lane ∧ l.pre.handler = false)
    ∧ (stewOne {}).bundleOk ∧ (∀ l ∈ (stewOne {}).issue.act, refKind l.ref = .steward) :=
  ⟨one_bundle _, by decide, single_bundle (l := { ref := stewRef 0, pre := {} }) rfl rfl, by decide⟩

theorem witness_FormsComplete_trap : (let s := (one {}).modLaunch 1 fun l => { l with rc := { l.rc with trap := 65536 } }
    s.bundleRefs = [laneRef 1 0 0] ∧ ∀ l ∈ s.issue.act, refKind l.ref = .lane ∧ l.pre.handler = false ∧ (s.launchOf l.ref).rc.trap ≠ 0) := by decide

theorem witness_FormsComplete_store : (one (memThread 0)).issue.act = [lane (memThread 0)] ∧ policyOk .store ((lane (memThread 0)).pol 0) = true
    ∧ readConsumed (one (memThread 0)) (lane (memThread 0)) [.n 0, .n 1, .n 2] = .ok [{ v := 65536 }, {}, {}]
    ∧ (one (memThread 0)).pairDiffersBy (lowData 64) (lane (memThread 0)) [.n 0, .n 1, .n 2] = false
    ∧ Loc.none ∉ [Loc.dev 16384, .dev 16385, .dev 16386, .dev 16387] ∧ (one (memThread 0)).shadowed (lane (memThread 0)) = false
    ∧ ((one (memThread 0)).reach (lane (memThread 0)) 0 65536 16 true).1 = .ok [.dev 16384, .dev 16385, .dev 16386, .dev 16387]
    ∧ ((one (memThread 0)).reach (lane (memThread 0)) 0 65536 16 true).2.isRollback (lane (memThread 0)).ref = false :=
  ⟨rfl, by decide, rfl, by decide, by decide, by decide, congrArg Prod.fst (ok_eq (x := (one (memThread 0)).reach (lane (memThread 0)) 0 65536 16 true) (by decide)), by decide⟩

theorem witness_FormsComplete_chisel : (tiling 3).bundleOk ∧ (tiling 3).actTeams = [1] ∧ (tiling 3).issue.act = [lane {}]
    ∧ enginePolicyOk (lane {}).pre.m[0] = true ∧ (lane {}).pre.n[8].psn = false ∧ (lane {}).pre.n[8].pend = none
    ∧ aget? ((tiling 3).preTeam (lane {}).ref).handles 0 = some (oneElement 3) ∧ 3 ≤ (tensorOf (oneElement 3)).etype
    ∧ classBad (classA (tensorOf (oneElement 3)) 4 (lane {}).pre.f[0]) = none
    ∧ badCorner ((tensorOf (oneElement 3)).kCorners 0 (((tiling 3).preTeam (lane {}).ref).groupOf (lane {}).ref).m 48) = none
    ∧ coordC0 (0 : Dword) % 16 = 0 ∧ (none : Option ChEntry).bind (tiling 3).compiling = none
    ∧ ((lane {}).pre.n[9].psn = false ∧ (lane {}).pre.n[9].pend = none) :=
  ⟨single_bundle (l := lane {}) rfl rfl, by decide, rfl, by decide⟩

theorem span_free (s : State) (w n : Nat) (write : Bool) (e : Event) (h1 : s.hub.snoops = []) (h2 : s.mem.recalls = []) (h3 : s.hub.filter = [])
    (h4 : s.mem.dir = [])
    (h5 : s.hub.hostdir = []) : s.spanHold w n write e = none := by
  refine List.findSome?_eq_none_iff.mpr fun x _ => ?_
  simp [State.hold, State.waitAt, h1, h2, h3, ahas, aget?, State.remoteHolders, State.dirWord, h4, h5, aget, isHostWord]

theorem page_free (s : State) (p q : Nat) (e : Event) (h1 : s.hub.snoops = []) (h2 : s.mem.recalls = []) (h3 : s.hub.filter = [])
    (h4 : s.mem.dir = []) (h5 : s.hub.hostdir = []) : s.pageHold p q e = none := by
  unfold State.pageHold
  split
  · rename_i h
    exact absurd (h.symm.trans (span_free s _ _ _ _ h1 h2 h3 h4 h5)) nofun
  · exact span_free s _ _ _ _ h1 h2 h3 h4 h5

/-- A context that copies its pages, or whose copies are done. -/
def castCopying (ps : List (Nat × Nat)) : State := contexts 1 { build := some { toB := true, point := true, pages := ps } }

set_option maxRecDepth 20000 in
theorem witness_Contexts_copy : (castCopying []).spanHold (((castCopying []).ctx 1).buffer true * 16384) (4 + 2 * 0) true ((castCopying []).again .castPageCopy) = none
    ∧ (castCopying [(1, 2)]).pageHold 2 (((castCopying [(1, 2)]).ctx 1).copyOf { toB := true, point := true, pages := [(1, 2)] } 1)
        ((castCopying [(1, 2)]).again .castPageCopy) = none := by
  exact ⟨span_free _ _ _ _ _ rfl rfl rfl rfl rfl, page_free _ _ _ _ rfl rfl rfl rfl rfl⟩

theorem witness_Contexts_copy_waits : (((castCopying []).modMem fun m => { m with recalls := [(0, [3])] }).spanHold 0 4 true
    ((castCopying []).again .castPageCopy)).isSome = true := by decide

theorem witness_EncodingsRoundTrip : (Instr.iaddi (.n 3) 8 (.reg (.n 3))).wf = true ∧ encode (.iaddi (.n 3) 8 (.reg (.n 3))) = some 0x10098443
    ∧ 0x10098443 < 2 ^ 31 ∧ reads 0x10098443 (.iaddi (.n 3) 8 (.reg (.n 3))) = true := by decide

theorem witness_MemoryStaysCanonical : placed.memoriesWf ∧ ∃ t, step placed = .next t := by
  refine ⟨⟨by decide, by decide, by decide, ?_⟩, _, rfl⟩
  intro p hp
  cases hp

theorem witness_ErrorCode_sig : (255 : Nat) < 256 := by decide

end Sys2Proof.Tests
end

section
/-!
PROOFS. The check code (03 R59 to R64), which settles O39: the weights of numbers under exclusive or, the code as a linear map, the syndromes
of one and two errors, the judgement by weight, the address signature, and what a read and a fill of the LLC do with the judgement.
-/

namespace Sys2Proof.Machine

/-! ## Counting ones: the weight of a sum without carries -/

theorem xor_mod_two (a b : Nat) : (a ^^^ b) % 2 = (a + b) % 2 := by
  have h := Nat.xor_mod_two_eq_one (a := a) (b := b)
  omega

theorem eq_of_xor_eq_zero {a b : Nat} (h : a ^^^ b = 0) : a = b :=
  calc a = a ^^^ b ^^^ b := by rw [Nat.xor_assoc, Nat.xor_self, Nat.xor_zero]
    _ = b := by rw [h, Nat.zero_xor]

@[simp] theorem popCount_zero (n : Nat) : popCount n 0 = 0 := by
  induction n with
  | zero => rfl
  | succ n ih => simpa [popCount] using ih

theorem popCount_mod_two_xor (n a b : Nat) : popCount n (a ^^^ b) % 2 = (popCount n a + popCount n b) % 2 := by
  induction n generalizing a b with
  | zero => rfl
  | succ n ih =>
    have hbit : (a ^^^ b) % 2 = (a + b) % 2 := xor_mod_two _ _
    have hrest := ih (a / 2) (b / 2)
    simp only [popCount, Nat.xor_div_two]
    omega

theorem popCount_xor_le (n a b : Nat) : popCount n (a ^^^ b) ≤ popCount n a + popCount n b := by
  induction n generalizing a b with
  | zero => exact Nat.le_refl 0
  | succ n ih =>
    have hbit : (a ^^^ b) % 2 = (a + b) % 2 := xor_mod_two _ _
    have hrest := ih (a / 2) (b / 2)
    simp only [popCount, Nat.xor_div_two]
    omega

theorem eq_zero_of_popCount_eq_zero {n x : Nat} (hx : x < 2 ^ n) (h : popCount n x = 0) : x = 0 := by
  induction n generalizing x with
  | zero => simpa using hx
  | succ n ih =>
    simp only [popCount] at h
    have hrest : x / 2 = 0 := ih (by omega) (by omega)
    omega

/-- A one can be taken out of a number that has one. -/
theorem exists_two_pow_xor_of_popCount_succ {n x k : Nat} (hx : x < 2 ^ n) (h : popCount n x = k + 1) :
    ∃ i < n, ∃ y < 2 ^ n, popCount n y = k ∧ x = 2 ^ i ^^^ y := by
  induction n generalizing x k with
  | zero => simp [popCount] at h
  | succ n ih =>
    simp only [popCount] at h
    rcases Nat.mod_two_eq_zero_or_one x with he | ho
    · obtain ⟨i, hi, y, hy, hk, hxy⟩ := ih (x := x / 2) (k := k) (by omega) (by omega)
      refine ⟨i + 1, by omega, 2 * y, by omega, ?_, ?_⟩
      · simpa [popCount] using hk
      · calc x = 2 * (2 ^ i ^^^ y) := by omega
          _ = 2 ^ (i + 1) ^^^ 2 * y := by
            have := Nat.shiftLeft_xor_distrib (a := 2 ^ i) (b := y) (i := 1)
            simpa [Nat.shiftLeft_eq, Nat.pow_succ, Nat.mul_comm] using this
    · refine ⟨0, by omega, x ^^^ 1, Nat.xor_lt_two_pow hx (Nat.one_lt_two_pow (by omega)), ?_, ?_⟩
      · have hbit : (x ^^^ 1) % 2 = (x + 1) % 2 := xor_mod_two _ _
        have hhalf : (x ^^^ 1) / 2 = x / 2 := by simp [Nat.xor_div_two]
        simp only [popCount, hhalf]
        omega
      · rw [Nat.pow_zero, Nat.xor_comm x 1, ← Nat.xor_assoc, Nat.xor_self, Nat.zero_xor]

theorem eq_two_pow_of_popCount_eq_one {n x : Nat} (hx : x < 2 ^ n) (h : popCount n x = 1) : ∃ i < n, x = 2 ^ i := by
  obtain ⟨i, hi, y, hy, hk, hxy⟩ := exists_two_pow_xor_of_popCount_succ hx h
  rw [eq_zero_of_popCount_eq_zero hy hk, Nat.xor_zero] at hxy
  exact ⟨i, hi, hxy⟩

theorem eq_two_pow_xor_of_popCount_eq_two {n x : Nat} (hx : x < 2 ^ n) (h : popCount n x = 2) :
    ∃ i < n, ∃ j < n, i ≠ j ∧ x = 2 ^ i ^^^ 2 ^ j := by
  obtain ⟨i, hi, y, hy, hk, hxy⟩ := exists_two_pow_xor_of_popCount_succ hx h
  obtain ⟨j, hj, rfl⟩ := eq_two_pow_of_popCount_eq_one hy hk
  refine ⟨i, hi, j, hj, ?_, hxy⟩
  rintro rfl
  rw [hxy, Nat.xor_self, popCount_zero] at h
  omega

/-- The ones of two numbers written one above the other. -/
theorem popCount_add_two_pow_mul (m n a b : Nat) (ha : a < 2 ^ m) :
    popCount (m + n) (a + 2 ^ m * b) = popCount m a + popCount n b := by
  induction m generalizing a with
  | zero => simp_all [popCount]
  | succ m ih =>
    have hpow : 2 ^ (m + 1) * b = 2 * (2 ^ m * b) := by rw [Nat.pow_succ]; ac_rfl
    have hhalf : (a + 2 ^ (m + 1) * b) / 2 = a / 2 + 2 ^ m * b := by omega
    have hbit : (a + 2 ^ (m + 1) * b) % 2 = a % 2 := by omega
    have hrest := ih (a / 2) (by omega)
    rw [Nat.add_right_comm m 1 n]
    simp only [popCount, hhalf, hbit, hrest, Nat.add_assoc]

/-! ## The code is linear (03 R59, R60) -/

theorem xor_xor_xor_comm_nat (a b c d : Nat) : a ^^^ b ^^^ (c ^^^ d) = a ^^^ c ^^^ (b ^^^ d) := by ac_rfl

/-- A term that is added twice goes. -/
theorem xor_cancel_twice (a e s c t : Nat) : a ^^^ e ^^^ (a ^^^ s ^^^ c) ^^^ t = e ^^^ c ^^^ (s ^^^ t) :=
  calc a ^^^ e ^^^ (a ^^^ s ^^^ c) ^^^ t = (a ^^^ a) ^^^ (e ^^^ c ^^^ (s ^^^ t)) := by ac_rfl
    _ = e ^^^ c ^^^ (s ^^^ t) := by rw [Nat.xor_self, Nat.zero_xor]

theorem parity_lt_two (n x : Nat) : parity n x < 2 := Nat.mod_lt _ (by decide)

theorem parity_xor (n a b : Nat) : parity n (a ^^^ b) = (parity n a + parity n b) % 2 := by
  simp [parity, popCount_mod_two_xor]

theorem decide_sum_odd {p q : Nat} (hp : p < 2) (hq : q < 2) : decide ((p + q) % 2 = 1) = (decide (p = 1) ^^ decide (q = 1)) := by
  have hall : ∀ p < 2, ∀ q < 2, decide ((p + q) % 2 = 1) = (decide (p = 1) ^^ decide (q = 1)) := by decide
  exact hall p hp q hq

/-- The number whose bit b, below n, is f b. -/
def bitSum (f : Nat → Nat) (n : Nat) : Nat := (List.range n).foldl (fun a b => a + f b * 2 ^ b) 0

theorem bitSum_succ (f : Nat → Nat) (n : Nat) : bitSum f (n + 1) = 2 ^ n * f n + bitSum f n := by
  rw [bitSum, List.range_succ, List.foldl_append, Nat.add_comm, Nat.mul_comm]
  rfl

theorem bitSum_lt {f : Nat → Nat} (hf : ∀ b, f b < 2) (n : Nat) : bitSum f n < 2 ^ n := by
  induction n with
  | zero => exact Nat.one_pos
  | succ n ih =>
    have hbit : 2 ^ n * f n ≤ 2 ^ n * 1 := Nat.mul_le_mul_left _ (Nat.le_of_lt_succ (hf n))
    rw [bitSum_succ, Nat.pow_succ]
    omega

theorem testBit_bitSum {f : Nat → Nat} (hf : ∀ b, f b < 2) {n b : Nat} (hb : b < n) : (bitSum f n).testBit b = decide (f b = 1) := by
  induction n with
  | zero => exact absurd hb (Nat.not_lt_zero b)
  | succ n ih =>
    rw [bitSum_succ, Nat.testBit_two_pow_mul_add _ (bitSum_lt hf n)]
    by_cases h : b < n
    · rw [if_pos h, ih h]
    · have hlast : b = n := by omega
      rw [if_neg h, hlast, Nat.sub_self, Nat.testBit_zero, Nat.mod_eq_of_lt (hf n)]

theorem hTimes_eq_bitSum (d : Nat) : hTimes d = bitSum (fun b => parity 32 (d &&& hMask b)) 8 := rfl

theorem hTimes_lt (d : Nat) : hTimes d < 256 := bitSum_lt (fun _ => parity_lt_two _ _) 8

/-- Bit b of the check bits is the parity of the data bits under mask b. -/
theorem testBit_hTimes (d : Nat) {b : Nat} (hb : b < 8) : (hTimes d).testBit b = decide (parity 32 (d &&& hMask b) = 1) := by
  rw [hTimes_eq_bitSum, testBit_bitSum (fun _ => parity_lt_two _ _) hb]

theorem hTimes_xor (a b : Nat) : hTimes (a ^^^ b) = hTimes a ^^^ hTimes b := by
  refine Nat.eq_of_testBit_eq fun i => ?_
  by_cases hi : i < 8
  · simp only [Nat.testBit_xor, testBit_hTimes _ hi, Nat.and_xor_distrib_right, parity_xor]
    exact decide_sum_odd (parity_lt_two _ _) (parity_lt_two _ _)
  · have hpow : 256 ≤ 2 ^ i := Nat.pow_le_pow_right (i := 8) (n := 2) (by decide) (by omega)
    rw [Nat.testBit_lt_two_pow (Nat.lt_of_lt_of_le (hTimes_lt _) hpow),
      Nat.testBit_lt_two_pow (Nat.lt_of_lt_of_le (Nat.xor_lt_two_pow (n := 8) (hTimes_lt a) (hTimes_lt b)) hpow)]

@[simp] theorem hTimes_zero : hTimes 0 = 0 := by decide

theorem encodeCheck_toNat {sig : Nat} (d : Word) (h : sig < 256) : (encodeCheck sig d).toNat = hTimes d.toNat ^^^ sig :=
  Nat.mod_eq_of_lt (Nat.xor_lt_two_pow (n := 8) (hTimes_lt _) h)

theorem poisonCheck_toNat {sig : Nat} (h : sig < 256) : (poisonCheck sig).toNat = sig ^^^ 0xFF :=
  Nat.mod_eq_of_lt (Nat.xor_lt_two_pow (n := 8) h (by decide))

/-- Bit b of the check bits of a word is the parity of its data bits under mask b, with the signature's bit b. -/
theorem getLsbD_encodeCheck {sig : Nat} (d : Word) {b : Nat} (h : sig < 256) (hb : b < 8) :
    (encodeCheck sig d).getLsbD b = (decide (parity 32 (d.toNat &&& hMask b) = 1) ^^ sig.testBit b) := by
  rw [← BitVec.testBit_toNat, encodeCheck_toNat d h, Nat.testBit_xor, testBit_hTimes _ hb]

/-! ## Errors

The errors of a stored word are written as one number of 40 bits: the data bits that differ, and above them the check bits. -/

/-- The syndrome that errors add (03 R62). -/
def errorSyndrome (x : Nat) : Nat := hTimes (x % 2 ^ 32) ^^^ x / 2 ^ 32

/-- The errors of data and of check bits as one number. -/
def errorBits (e : Word) (c : Byte) : Nat := e.toNat + 2 ^ 32 * c.toNat

theorem errorSyndrome_xor (x y : Nat) : errorSyndrome (x ^^^ y) = errorSyndrome x ^^^ errorSyndrome y := by
  rw [errorSyndrome, Nat.xor_mod_two_pow, Nat.xor_div_two_pow, hTimes_xor, xor_xor_xor_comm_nat, errorSyndrome, errorSyndrome]

theorem errorSyndrome_errorBits (e : Word) (c : Byte) : errorSyndrome (errorBits e c) = hTimes e.toNat ^^^ c.toNat := by
  have he := e.isLt
  rw [errorSyndrome, errorBits, Nat.add_mul_mod_self_left, Nat.mod_eq_of_lt he, Nat.add_mul_div_left _ _ (by decide),
    Nat.div_eq_of_lt he, Nat.zero_add]

theorem errorBits_lt (e : Word) (c : Byte) : errorBits e c < 2 ^ 40 := by
  have he := e.isLt
  have hc := c.isLt
  simp only [errorBits]
  omega

theorem popCount_errorBits (e : Word) (c : Byte) : popCount 40 (errorBits e c) = popCount 32 e.toNat + popCount 8 c.toNat :=
  popCount_add_two_pow_mul 32 8 _ _ e.isLt

theorem errorSyndrome_noErrors : errorSyndrome (errorBits 0#32 0#8) = 0 := by
  rw [errorSyndrome_errorBits]
  decide

/-- The syndromes of the 40 single errors: the columns of H and the unit vectors (03 R60). -/
theorem errorSyndromes_eq : (List.range 40).map (fun i => errorSyndrome (2 ^ i)) =
    [7, 14, 28, 56, 112, 224, 193, 131, 11, 22, 44, 88, 176, 97, 194, 133, 19, 38, 76, 152, 49, 98, 196, 137,
      21, 42, 84, 168, 81, 162, 69, 138, 1, 2, 4, 8, 16, 32, 64, 128] := by decide +kernel

theorem errorSyndrome_two_pow_mem {i : Nat} (hi : i < 40) :
    errorSyndrome (2 ^ i) ∈ (List.range 40).map fun i => errorSyndrome (2 ^ i) :=
  List.mem_map_of_mem (List.mem_range.mpr hi)

theorem errorSyndrome_two_pow_inj {i j : Nat} (hi : i < 40) (hj : j < 40) (h : errorSyndrome (2 ^ i) = errorSyndrome (2 ^ j)) :
    i = j := by
  have hnodup : ((List.range 40).map fun i => errorSyndrome (2 ^ i)).Nodup := by
    rw [errorSyndromes_eq]
    decide
  exact (List.getElem_inj (h₀ := by simpa using hi) (h₁ := by simpa using hj) hnodup).mp (by simpa using h)

/-- A single error has a syndrome of weight 1 or 3. -/
theorem popCount_errorSyndrome_two_pow {i : Nat} (hi : i < 40) :
    popCount 8 (errorSyndrome (2 ^ i)) = 1 ∨ popCount 8 (errorSyndrome (2 ^ i)) = 3 := by
  have hall : ∀ y ∈ (List.range 40).map fun i => errorSyndrome (2 ^ i), popCount 8 y = 1 ∨ popCount 8 y = 3 := by
    rw [errorSyndromes_eq]
    decide
  exact hall _ (errorSyndrome_two_pow_mem hi)

/-- On the poison code a single error has a syndrome of weight 5 or 7 (03 R64). -/
theorem popCount_poison_errorSyndrome {i : Nat} (hi : i < 40) :
    popCount 8 (errorSyndrome (2 ^ i) ^^^ 0xFF) = 5 ∨ popCount 8 (errorSyndrome (2 ^ i) ^^^ 0xFF) = 7 := by
  have hall : ∀ y ∈ (List.range 40).map fun i => errorSyndrome (2 ^ i), popCount 8 (y ^^^ 0xFF) = 5 ∨ popCount 8 (y ^^^ 0xFF) = 7 := by
    rw [errorSyndromes_eq]
    decide
  exact hall _ (errorSyndrome_two_pow_mem hi)

theorem errorSyndrome_lt {x : Nat} (hx : x < 2 ^ 40) : errorSyndrome x < 256 :=
  Nat.xor_lt_two_pow (n := 8) (hTimes_lt _) (by omega)

theorem errorSyndrome_two_pow_data {j : Nat} (hj : j < 32) : errorSyndrome (2 ^ j) = hColumn j := by
  have hlt : 2 ^ j < 2 ^ 32 := Nat.pow_lt_pow_right (by decide) hj
  rw [errorSyndrome, Nat.mod_eq_of_lt hlt, Nat.div_eq_of_lt hlt, Nat.xor_zero, hColumn]

/-- Two errors have a syndrome of weight 2, 4 or 6. -/
theorem popCount_errorSyndrome_two {i j : Nat} (hi : i < 40) (hj : j < 40) (hne : i ≠ j) :
    popCount 8 (errorSyndrome (2 ^ i ^^^ 2 ^ j)) ∈ [2, 4, 6] := by
  have hnot : popCount 8 (errorSyndrome (2 ^ i ^^^ 2 ^ j)) ≠ 0 := fun h => by
    have hzero := eq_zero_of_popCount_eq_zero (n := 8)
      (errorSyndrome_lt (Nat.xor_lt_two_pow (Nat.pow_lt_pow_right (by decide) hi) (Nat.pow_lt_pow_right (by decide) hj))) h
    rw [errorSyndrome_xor] at hzero
    exact hne (errorSyndrome_two_pow_inj hi hj (eq_of_xor_eq_zero hzero))
  rw [errorSyndrome_xor] at hnot ⊢
  have heven := popCount_mod_two_xor 8 (errorSyndrome (2 ^ i)) (errorSyndrome (2 ^ j))
  have hle := popCount_xor_le 8 (errorSyndrome (2 ^ i)) (errorSyndrome (2 ^ j))
  have hwi := popCount_errorSyndrome_two_pow hi
  have hwj := popCount_errorSyndrome_two_pow hj
  simp only [List.mem_cons, List.not_mem_nil, or_false]
  omega

/-! ## The judgement of a syndrome (03 R62) -/

theorem popCount_hColumn {j : Nat} (hj : j < 32) : popCount 8 (hColumn j) = 3 := by
  have hall : ∀ y ∈ ((List.range 40).map fun i => errorSyndrome (2 ^ i)).take 32, popCount 8 y = 3 := by
    rw [errorSyndromes_eq]
    decide
  refine hall _ (List.mem_iff_getElem.mpr ⟨j, by simpa using hj, ?_⟩)
  simp [errorSyndrome_two_pow_data hj]

theorem hColumn_inj {i j : Nat} (hi : i < 32) (hj : j < 32) (h : hColumn i = hColumn j) : i = j := by
  rw [← errorSyndrome_two_pow_data hi, ← errorSyndrome_two_pow_data hj] at h
  exact errorSyndrome_two_pow_inj (by omega) (by omega) h

section
variable {sig : Nat} {d : Word} {c : Byte}

theorem judge_of_syndrome_zero (h : syndrome sig d c = 0) : judge sig d c = .clean d := by
  simp [judge, h]

theorem judge_of_syndrome_poison (h : syndrome sig d c = 0xFF) : judge sig d c = .poison := by
  simp [judge, h]

theorem judge_of_syndrome_unit (h : popCount 8 (syndrome sig d c) = 1) : judge sig d c = .fixed d := by
  have hzero : syndrome sig d c ≠ 0 := fun h0 => by simp [h0] at h
  have hpoison : syndrome sig d c ≠ 0xFF := fun h0 => by simp [h0, popCount] at h
  simp [judge, hzero, hpoison, h]

theorem judge_of_syndrome_column {j : Nat} (hj : j < 32) (h : syndrome sig d c = hColumn j) :
    judge sig d c = .fixed (d ^^^ BitVec.ofNat 32 (2 ^ j)) := by
  have hweight := popCount_hColumn hj
  have hzero : hColumn j ≠ 0 := fun h0 => by simp [h0] at hweight
  have hpoison : hColumn j ≠ 0xFF := fun h0 => by simp [h0, popCount] at hweight
  have hfind : (List.range 32).find? (fun i => hColumn i == hColumn j) = some j := by
    refine List.find?_range_eq_some.mpr ⟨by simp, List.mem_range.mpr hj, fun i hi => ?_⟩
    have hne : hColumn i ≠ hColumn j := fun he => absurd (hColumn_inj (by omega) hj he) (by omega)
    simp [hne]
  simp [judge, h, hzero, hpoison, hweight, hfind]

theorem judge_bad (hzero : syndrome sig d c ≠ 0) (hpoison : syndrome sig d c ≠ 0xFF) (hunit : popCount 8 (syndrome sig d c) ≠ 1)
    (hcol : ∀ j < 32, syndrome sig d c ≠ hColumn j) : judge sig d c = .bad := by
  have hfind : (List.range 32).find? (fun j => hColumn j == syndrome sig d c) = none := by
    simpa [List.find?_eq_none] using fun j hj => (hcol j hj).symm
  simp [judge, hzero, hpoison, hunit, hfind]

/-- A syndrome whose weight is none of zero's, a unit vector's, a column's and the poison code's. -/
theorem judge_bad_of_weight (h : popCount 8 (syndrome sig d c) ∉ [0, 1, 3, 8]) : judge sig d c = .bad := by
  simp only [List.mem_cons, List.not_mem_nil, or_false, not_or] at h
  obtain ⟨h0, h1, h3, h8⟩ := h
  refine judge_bad (fun h => h0 (by simp [h])) (fun h => h8 (by simp [h, popCount])) h1 fun j hj h => ?_
  exact h3 (h ▸ popCount_hColumn hj)

end

/-! ## What is stored, and errors in it (03 R59, R62, R64) -/

/-- The poison code is what zero is stored with under the complement of the signature. -/
theorem poisonCheck_eq_encodeCheck (sig : Nat) : poisonCheck sig = encodeCheck (sig ^^^ 0xFF) 0#32 := by
  rw [poisonCheck, encodeCheck, BitVec.toNat_zero, hTimes_zero, Nat.zero_xor]

section
variable {sig : Nat} (hsig : sig < 256) (d e : Word) (c : Byte)
include hsig

/-- Of a stored word only the errors and the difference of the signatures show in the syndrome. -/
theorem syndrome_encodeCheck (sig' : Nat) :
    syndrome sig' (d ^^^ e) (encodeCheck sig d ^^^ c) = errorSyndrome (errorBits e c) ^^^ (sig ^^^ sig') := by
  rw [syndrome, errorSyndrome_errorBits, BitVec.toNat_xor, BitVec.toNat_xor, encodeCheck_toNat d hsig, hTimes_xor, xor_cancel_twice]

theorem syndrome_of_errors : syndrome sig (d ^^^ e) (encodeCheck sig d ^^^ c) = errorSyndrome (errorBits e c) := by
  rw [syndrome_encodeCheck hsig, Nat.xor_self, Nat.xor_zero]

theorem syndrome_of_moved (sig' : Nat) : syndrome sig' d (encodeCheck sig d) = sig ^^^ sig' := by
  have h := syndrome_encodeCheck hsig d 0#32 0#8 sig'
  rwa [BitVec.xor_zero, BitVec.xor_zero, errorSyndrome_noErrors, Nat.zero_xor] at h

theorem syndrome_of_poison : syndrome sig e (poisonCheck sig ^^^ c) = errorSyndrome (errorBits e c) ^^^ 0xFF := by
  have h := syndrome_encodeCheck (Nat.xor_lt_two_pow (n := 8) hsig (y := 0xFF) (by decide)) 0#32 e c sig
  rwa [BitVec.zero_xor, ← poisonCheck_eq_encodeCheck, Nat.xor_comm sig, Nat.xor_assoc, Nat.xor_self, Nat.xor_zero] at h

theorem judge_encodeCheck : judge sig d (encodeCheck sig d) = .clean d :=
  judge_of_syndrome_zero (by rw [syndrome_of_moved hsig, Nat.xor_self])

theorem syndrome_poisonCheck : syndrome sig 0 (poisonCheck sig) = 0xFF := by
  have h := syndrome_of_poison hsig 0#32 0#8
  rwa [BitVec.xor_zero, errorSyndrome_noErrors, Nat.zero_xor] at h

theorem judge_data_error {j : Nat} (hj : j < 32) (he : e.toNat = 2 ^ j) :
    judge sig (d ^^^ e) (encodeCheck sig d) = .fixed d := by
  have hsyn : syndrome sig (d ^^^ e) (encodeCheck sig d) = hColumn j := by
    have h := syndrome_of_errors hsig d e 0#8
    rwa [BitVec.xor_zero, errorSyndrome_errorBits, he, BitVec.toNat_zero, Nat.xor_zero] at h
  have hword : e = BitVec.ofNat 32 (2 ^ j) := by rw [← he, BitVec.ofNat_toNat, BitVec.setWidth_eq]
  rw [judge_of_syndrome_column hj hsyn, ← hword, BitVec.xor_assoc, BitVec.xor_self, BitVec.xor_zero]

theorem judge_check_error (h : popCount 8 c.toNat = 1) : judge sig d (encodeCheck sig d ^^^ c) = .fixed d := by
  have hsyn := syndrome_of_errors hsig d 0#32 c
  rw [BitVec.xor_zero, errorSyndrome_errorBits, BitVec.toNat_zero, hTimes_zero, Nat.zero_xor] at hsyn
  exact judge_of_syndrome_unit (hsyn ▸ h)

theorem judge_one_error (h : popCount 32 e.toNat + popCount 8 c.toNat = 1) :
    judge sig (d ^^^ e) (encodeCheck sig d ^^^ c) = .fixed d := by
  obtain ⟨he, hc⟩ | ⟨he, hc⟩ := Nat.add_eq_one_iff.mp h
  · have hnone : e = 0#32 := BitVec.eq_of_toNat_eq (eq_zero_of_popCount_eq_zero e.isLt he)
    rw [hnone, BitVec.xor_zero]
    exact judge_check_error hsig d c hc
  · have hnone : c = 0#8 := BitVec.eq_of_toNat_eq (eq_zero_of_popCount_eq_zero c.isLt hc)
    obtain ⟨j, hj, hplace⟩ := eq_two_pow_of_popCount_eq_one e.isLt he
    rw [hnone, BitVec.xor_zero]
    exact judge_data_error hsig d e hj hplace

theorem popCount_poison_one_error (h : popCount 32 e.toNat + popCount 8 c.toNat = 1) :
    popCount 8 (syndrome sig e (poisonCheck sig ^^^ c)) = 5 ∨ popCount 8 (syndrome sig e (poisonCheck sig ^^^ c)) = 7 := by
  obtain ⟨i, hi, hplace⟩ := eq_two_pow_of_popCount_eq_one (errorBits_lt e c) ((popCount_errorBits e c).trans h)
  rw [syndrome_of_poison hsig, hplace]
  exact popCount_poison_errorSyndrome hi

theorem judge_poison_one_error (h : popCount 32 e.toNat + popCount 8 c.toNat = 1) :
    judge sig e (poisonCheck sig ^^^ c) = .bad := by
  refine judge_bad_of_weight ?_
  obtain hw | hw := popCount_poison_one_error hsig e c h <;> simp [hw]

theorem judge_two_errors (h : popCount 32 e.toNat + popCount 8 c.toNat = 2) :
    judge sig (d ^^^ e) (encodeCheck sig d ^^^ c) = .bad := by
  obtain ⟨i, hi, j, hj, hne, hplaces⟩ := eq_two_pow_xor_of_popCount_eq_two (errorBits_lt e c) ((popCount_errorBits e c).trans h)
  have hweight := popCount_errorSyndrome_two hi hj hne
  refine judge_bad_of_weight ?_
  rw [syndrome_of_errors hsig, hplaces]
  simp only [List.mem_cons, List.not_mem_nil, or_false] at hweight ⊢
  omega

end

/-! ## The address signature (03 R61) -/

theorem sigWeight_cases (i : Nat) :
    i = 2 ∧ sigWeight i = 38 ∨ i = 26 ∧ sigWeight i = 39 ∨ i ≠ 2 ∧ i ≠ 26 ∧ sigWeight i = i + 1 := by
  by_cases h2 : i = 2
  · exact .inl ⟨h2, if_pos h2⟩
  · by_cases h26 : i = 26
    · exact .inr (.inl ⟨h26, (if_neg h2).trans (if_pos h26)⟩)
    · exact .inr (.inr ⟨h2, h26, (if_neg h2).trans (if_neg h26)⟩)

theorem sigWeight_lt (i : Nat) (hi : i < 37) : sigWeight i < 64 := by
  have h := sigWeight_cases i
  omega

theorem foldl_sigWeight_lt (l : List Nat) (hl : ∀ i ∈ l, i < 37) (a : Nat) (ha : a < 64) :
    l.foldl (fun s i => s ^^^ sigWeight i) a < 64 := by
  induction l generalizing a with
  | nil => exact ha
  | cons i l ih =>
    exact ih (fun k hk => hl k (List.mem_cons_of_mem _ hk)) _
      (Nat.xor_lt_two_pow (n := 6) ha (sigWeight_lt i (hl i List.mem_cons_self)))

/-- Every weight is below 64, so the sum never reaches bit 6 of the signature. -/
theorem sigSum_lt (w : Nat) : sigSum w < 64 :=
  foldl_sigWeight_lt _ (fun _ hi => List.mem_range.mp (List.mem_filter.mp hi).1) 0 (by decide)

theorem foldl_sigWeight_xor (l : List Nat) (w x a b : Nat) :
    (l.filter fun i => (w ^^^ x).testBit i).foldl (fun s i => s ^^^ sigWeight i) (a ^^^ b) =
      (l.filter fun i => w.testBit i).foldl (fun s i => s ^^^ sigWeight i) a ^^^
        (l.filter fun i => x.testBit i).foldl (fun s i => s ^^^ sigWeight i) b := by
  induction l generalizing a b with
  | nil => rfl
  | cons i l ih =>
    have hboth : a ^^^ sigWeight i ^^^ (b ^^^ sigWeight i) = a ^^^ b := by
      rw [xor_xor_xor_comm_nat, Nat.xor_self, Nat.xor_zero]
    have hleft : a ^^^ sigWeight i ^^^ b = a ^^^ b ^^^ sigWeight i := by ac_rfl
    have hright : a ^^^ (b ^^^ sigWeight i) = a ^^^ b ^^^ sigWeight i := by ac_rfl
    cases hw : w.testBit i <;> cases hx : x.testBit i <;>
      simp [Nat.testBit_xor, hw, hx, ← ih, hboth, hleft, hright]

theorem sigSum_xor (w x : Nat) : sigSum (w ^^^ x) = sigSum w ^^^ sigSum x := by
  simpa [sigSum, setBits] using foldl_sigWeight_xor (List.range 37) w x 0 0

theorem sigOf_mod (w : Nat) : sigOf w % 128 = sigSum w := by
  have h := sigSum_lt w
  simp only [sigOf]
  omega

theorem sigOf_lt (w : Nat) : sigOf w < 256 := by
  have h := parity_lt_two 7 (sigSum w)
  simp only [sigOf]
  omega

/-- The top bit of a signature makes its weight even. -/
theorem popCount_sigOf_even (w : Nat) : popCount 8 (sigOf w) % 2 = 0 := by
  have hall : ∀ n < 64, popCount 8 (parity 7 n * 128 + n % 128) % 2 = 0 := by decide
  exact hall _ (sigSum_lt w)

theorem popCount_sigOf_xor_ne_eight (w x : Nat) : popCount 8 (sigOf w ^^^ sigOf x) ≠ 8 := by
  have hsum : (sigOf w ^^^ sigOf x) % 2 ^ 7 < 2 ^ 6 := by
    rw [Nat.xor_mod_two_pow, sigOf_mod, sigOf_mod]
    exact Nat.xor_lt_two_pow (n := 6) (sigSum_lt w) (sigSum_lt x)
  have hall : ∀ y < 256, y % 2 ^ 7 < 2 ^ 6 → popCount 8 y ≠ 8 := by decide +kernel
  exact hall _ (Nat.xor_lt_two_pow (n := 8) (sigOf_lt w) (sigOf_lt x)) hsum

/-- A word read under another signature than it was stored with is uncorrectable: the signatures differ in an even number of bits, and
not in all. -/
theorem judge_other_signature {w x : Nat} (d : Word) (h : sigOf w ≠ sigOf x) :
    judge (sigOf x) d (encodeCheck (sigOf w) d) = .bad := by
  have heven := popCount_mod_two_xor 8 (sigOf w) (sigOf x)
  have hw := popCount_sigOf_even w
  have hx := popCount_sigOf_even x
  have hsome : popCount 8 (sigOf w ^^^ sigOf x) ≠ 0 := fun h0 =>
    h (eq_of_xor_eq_zero (eq_zero_of_popCount_eq_zero (n := 8) (Nat.xor_lt_two_pow (sigOf_lt w) (sigOf_lt x)) h0))
  have hall := popCount_sigOf_xor_ne_eight w x
  refine judge_bad_of_weight ?_
  rw [syndrome_of_moved (sigOf_lt w)]
  simp only [List.mem_cons, List.not_mem_nil, or_false]
  omega

/-! ## Addresses that differ little -/

theorem sigSum_two_pow {i : Nat} (hi : i < 37) : sigSum (2 ^ i) = sigWeight i := by
  have hall : ∀ i < 37, sigSum (2 ^ i) = sigWeight i := by decide +kernel
  exact hall i hi

theorem sigWeight_pos (i : Nat) : sigWeight i ≠ 0 := by
  have h := sigWeight_cases i
  omega

theorem sigWeight_inj {i j : Nat} (hi : i < 37) (hj : j < 37) (h : sigWeight i = sigWeight j) : i = j := by
  have hwi := sigWeight_cases i
  have hwj := sigWeight_cases j
  omega

/-- Addresses that differ in one or two bits. -/
theorem sigSum_of_few_bits {z : Nat} (hz : z < 2 ^ 37) (hne : z ≠ 0) (h : popCount 37 z ≤ 2) : sigSum z ≠ 0 := by
  have hsome : popCount 37 z ≠ 0 := fun h0 => hne (eq_zero_of_popCount_eq_zero hz h0)
  obtain h1 | h2 : popCount 37 z = 1 ∨ popCount 37 z = 2 := by omega
  · obtain ⟨i, hi, rfl⟩ := eq_two_pow_of_popCount_eq_one hz h1
    rw [sigSum_two_pow hi]
    exact sigWeight_pos i
  · obtain ⟨i, hi, j, hj, hij, rfl⟩ := eq_two_pow_xor_of_popCount_eq_two hz h2
    rw [sigSum_xor, sigSum_two_pow hi, sigSum_two_pow hj]
    exact fun h => hij (sigWeight_inj hi hj (eq_of_xor_eq_zero h))

/-- Addresses that differ in slice bits. -/
theorem sigSum_of_slice_bits {z : Nat} (hne : z ≠ 0) (h : z / 2 ^ 4 = 0) : sigSum z ≠ 0 := by
  have hall : ∀ z < 16, z ≠ 0 → sigSum z ≠ 0 := by decide +kernel
  exact hall z (by omega) hne

/-- Addresses that differ in bank bits. -/
theorem sigSum_of_bank_bits {z : Nat} (hne : z ≠ 0) (hlow : z % 2 ^ 23 = 0) (hhigh : z / 2 ^ 28 = 0) : sigSum z ≠ 0 := by
  have hall : ∀ k < 32, k ≠ 0 → sigSum (2 ^ 23 * k) ≠ 0 := by decide +kernel
  have hk := hall (z / 2 ^ 23) (by omega) (by omega)
  rwa [show 2 ^ 23 * (z / 2 ^ 23) = z by omega] at hk

theorem judge_near_address {w x : Nat} (d : Word) (hw : w < 2 ^ 37) (hx : x < 2 ^ 37) (hne : w ≠ x)
    (h : popCount 37 (w ^^^ x) ≤ 2 ∨ w / 2 ^ 4 = x / 2 ^ 4 ∨ (w % 2 ^ 23 = x % 2 ^ 23 ∧ w / 2 ^ 28 = x / 2 ^ 28)) :
    judge (sigOf x) d (encodeCheck (sigOf w) d) = .bad := by
  have hsome : w ^^^ x ≠ 0 := mt eq_of_xor_eq_zero hne
  have hsum : sigSum (w ^^^ x) ≠ 0 := by
    obtain hfew | hslice | ⟨hlow, hhigh⟩ := h
    · exact sigSum_of_few_bits (Nat.xor_lt_two_pow hw hx) hsome hfew
    · exact sigSum_of_slice_bits hsome (by rw [Nat.xor_div_two_pow, hslice, Nat.xor_self])
    · exact sigSum_of_bank_bits hsome (by rw [Nat.xor_mod_two_pow, hlow, Nat.xor_self])
        (by rw [Nat.xor_div_two_pow, hhigh, Nat.xor_self])
  refine judge_other_signature d fun heq => hsum ?_
  rw [sigSum_xor, ← sigOf_mod w, ← sigOf_mod x, heq, Nat.xor_self]

/-! ## What an access to a row leaves (03 R69, R71) -/

/-- What counting an activation changes: the counters of rows and the queue of swaps. -/
theorem MemSys.activate_eq (m : MemSys) (ch bank row : Nat) :
    ∃ acts swapq, m.activate ch bank row = { m with acts := acts, swapq := swapq } := by
  unfold MemSys.activate
  dsimp only
  split <;> split <;> exact ⟨_, _, rfl⟩

/-- What an access to a row changes: the open rows, their predictors and what an activation counts. -/
theorem MemSys.accessRow_eq (m : MemSys) (ch slice bank row : Nat) : ∃ preds rows acts swapq,
    m.accessRow ch slice bank row = { m with preds := preds, rows := rows, acts := acts, swapq := swapq } := by
  unfold MemSys.accessRow
  dsimp only
  by_cases hopen : aget? m.rows (sliceKey ch slice bank) = some row
  · rw [if_pos hopen]
    exact ⟨_, _, _, _, rfl⟩
  · rw [if_neg hopen, (MemSys.activate_eq _ ch bank row).choose_spec.choose_spec]
    exact ⟨_, _, _, _, rfl⟩

/-- An access to a word's row leaves every stored word, the registers of the stacks, the map of stacks and the LLC. -/
theorem MemSys.touch_eq (m : MemSys) (w : Nat) : ∃ preds rows acts swapq,
    m.touch w = { m with preds := preds, rows := rows, acts := acts, swapq := swapq } :=
  m.accessRow_eq _ _ _ _

section
variable (m : MemSys) (w x : Nat)

@[simp] theorem MemSys.touch_storedData : (m.touch w).storedData x = m.storedData x := by
  obtain ⟨_, _, _, _, h⟩ := m.touch_eq w
  rw [h]
  rfl

@[simp] theorem MemSys.touch_storedCheck : (m.touch w).storedCheck x = m.storedCheck x := by
  obtain ⟨_, _, _, _, h⟩ := m.touch_eq w
  rw [h]
  rfl

@[simp] theorem MemSys.touch_stackOf : (m.touch w).stackOf x = m.stackOf x := by
  obtain ⟨_, _, _, _, h⟩ := m.touch_eq w
  rw [h]
  rfl

@[simp] theorem MemSys.touch_stack : (m.touch w).stack x = m.stack x := by
  obtain ⟨_, _, _, _, h⟩ := m.touch_eq w
  rw [h]
  rfl

@[simp] theorem MemSys.touch_llc : (m.touch w).llc = m.llc := by
  obtain ⟨_, _, _, _, h⟩ := m.touch_eq w
  rw [h]

end

/-! ## The counts of a stack (03 R66, R78, R85) -/

@[simp] theorem MemSys.modStack_stackOf (m : MemSys) (p w : Nat) (f : Stack → Stack) : (m.modStack p f).stackOf w = m.stackOf w := rfl

@[simp] theorem MemSys.modStack_stack_same (m : MemSys) (p : Nat) (f : Stack → Stack) : (m.modStack p f).stack p = f (m.stack p) :=
  aget_amod_same _ _ _ _

@[simp] theorem State.postMbx_mem (s : State) (code src : Nat) (arg : Word) : (s.postMbx code src arg).mem = s.mem := by
  unfold State.postMbx
  dsimp only
  split
  · split <;> rfl
  · rfl

/-- An entry in the fault queue changes the queue and its overflow flag in the word's stack, and nothing else of the memory. -/
theorem State.plinthFault_mem (s : State) (kind w : Nat) : ∃ f : Stack → Stack,
    (s.plinthFault kind w).mem = s.mem.modStack (s.mem.stackOf w) f ∧ ∀ k, (f k).ce = k.ce ∧ (f k).ue = k.ue := by
  unfold State.plinthFault
  dsimp only
  split
  · exact ⟨_, State.postMbx_mem _ _ _ _, fun _ => ⟨rfl, rfl⟩⟩
  · exact ⟨_, rfl, fun _ => ⟨rfl, rfl⟩⟩

section
variable (s : State) (w : Nat)

theorem State.countCe_stack : ((s.countCe w).mem.stack (s.mem.stackOf w)) =
    { s.mem.stack (s.mem.stackOf w) with ce := satInc 0xFFFF (s.mem.stack (s.mem.stackOf w)).ce } :=
  MemSys.modStack_stack_same _ _ _

theorem State.countUe_ce : ((s.countUe w).mem.stack (s.mem.stackOf w)).ce = (s.mem.stack (s.mem.stackOf w)).ce := by
  obtain ⟨f, hmem, hf⟩ := State.plinthFault_mem (s.modMem fun m => m.modStack (m.stackOf w) fun k => { k with ue := satInc 0xFFFF k.ue }) 1 w
  simp only [State.modMem_mem, MemSys.modStack_stackOf] at hmem
  rw [State.countUe, hmem, MemSys.modStack_stack_same, (hf _).1, MemSys.modStack_stack_same]

theorem State.countUe_ue :
    ((s.countUe w).mem.stack (s.mem.stackOf w)).ue = satInc 0xFFFF (s.mem.stack (s.mem.stackOf w)).ue := by
  obtain ⟨f, hmem, hf⟩ := State.plinthFault_mem (s.modMem fun m => m.modStack (m.stackOf w) fun k => { k with ue := satInc 0xFFFF k.ue }) 1 w
  simp only [State.modMem_mem, MemSys.modStack_stackOf] at hmem
  rw [State.countUe, hmem, MemSys.modStack_stack_same, (hf _).2, MemSys.modStack_stack_same]

@[simp] theorem State.countCe_llc : (s.countCe w).mem.llc = s.mem.llc := rfl

@[simp] theorem State.countUe_llc : (s.countUe w).mem.llc = s.mem.llc := by
  obtain ⟨f, hmem, -⟩ := State.plinthFault_mem (s.modMem fun m => m.modStack (m.stackOf w) fun k => { k with ue := satInc 0xFFFF k.ue }) 1 w
  rw [State.countUe, hmem]
  rfl

end

/-! ## A read of a stored word (03 R62, R65) -/

section
variable {s : State} {w : Nat}

theorem State.readStored_clean {d : Word} (h : judge (sigOf w) (s.mem.storedData w) (s.mem.storedCheck w) = .clean d) :
    s.readStored w = (d, false, s.modMem fun m => m.touch w) := by
  simp [State.readStored, h]

theorem State.readStored_fixed {d : Word} (h : judge (sigOf w) (s.mem.storedData w) (s.mem.storedCheck w) = .fixed d) :
    s.readStored w = (d, false, (s.modMem fun m => m.touch w).countCe w) := by
  simp [State.readStored, h]

theorem State.readStored_poison (h : judge (sigOf w) (s.mem.storedData w) (s.mem.storedCheck w) = .poison) :
    s.readStored w = (s.mem.storedData w, true, s.modMem fun m => m.touch w) := by
  simp [State.readStored, h]

theorem State.readStored_bad (h : judge (sigOf w) (s.mem.storedData w) (s.mem.storedCheck w) = .bad) :
    s.readStored w = (s.mem.storedData w, true, (s.modMem fun m => m.touch w).countUe w) := by
  simp [State.readStored, h]

end

/-! ## Room in the LLC (03 R79; 05 R108) -/

@[simp] theorem State.llcJudge_llc (s : State) (w : Nat) (c : CWord) : (s.llcJudge w c).2.mem.llc = s.mem.llc := by
  unfold State.llcJudge
  split
  · rfl
  · exact State.countCe_llc s w
  · rfl
  · exact State.countUe_llc s w

@[simp] theorem State.writeStored_llc (s : State) (kid w : Nat) (d : Word) (psn : Bool) :
    (s.writeStored kid w d psn).mem.llc = s.mem.llc := by
  unfold State.writeStored
  dsimp only
  split <;> exact MemSys.touch_llc _ _

theorem foldl_keeps_llc {α : Type} {f : State → α → State} (hf : ∀ s a, (f s a).mem.llc = s.mem.llc) (l : List α) (s : State) :
    (l.foldl f s).mem.llc = s.mem.llc := by
  induction l generalizing s with
  | nil => rfl
  | cons a l ih => rw [List.foldl_cons, ih, hf]

theorem State.llcEvict_llc {s : State} {u : Nat} {x : CUnit} (h : aget? s.mem.llc u = some x) :
    (s.llcEvict u).mem.llc = adel s.mem.llc u := by
  simp only [State.llcEvict, h, State.modMem_mem]
  rw [foldl_keeps_llc]
  intro s p
  split
  · rw [State.writeStored_llc, State.llcJudge_llc]
  · rfl

/-- An eviction drops its unit and keeps the other units of the LLC. -/
theorem State.aget?_llcEvict (s : State) (u v : Nat) :
    aget? (s.llcEvict u).mem.llc v = if v = u then none else aget? s.mem.llc v := by
  cases h : aget? s.mem.llc u with
  | none =>
    have hsame : s.llcEvict u = s := by simp only [State.llcEvict, h]
    by_cases hv : v = u
    · rw [hsame, if_pos hv, hv, h]
    · rw [hsame, if_neg hv]
  | some x =>
    rw [State.llcEvict_llc h]
    by_cases hv : v = u
    · rw [if_pos hv, hv, aget?_adel_same]
    · rw [if_neg hv, aget?_adel_ne _ hv]

/-- Where room has been made for a unit, the LLC holds the unit under that key id or not at all. -/
theorem State.llcRoom_kid {s : State} {kid u : Nat} {x : CUnit} (h : aget? (s.llcRoom kid u).mem.llc u = some x) : x.kid = kid := by
  unfold State.llcRoom at h
  split at h
  next y hy =>
    split at h
    next hk =>
      rw [hy, Option.some.injEq] at h
      exact h ▸ hk
    next => simp [State.aget?_llcEvict] at h
  next hnone =>
    dsimp only at h
    split at h
    next => simp [hnone] at h
    next =>
      split at h
      next => simp [State.aget?_llcEvict, hnone] at h
      next => simp [hnone] at h

/-- A word that is put into the LLC is held there. -/
@[simp] theorem State.llcWord_llcPut (s : State) (kid w : Nat) (cls : EvClass) (c : CWord) :
    (s.llcPut kid w cls c).llcWord kid w = some c := by
  have hkid : (aget { kid := kid } (s.llcRoom kid (w / 64)).mem.llc (w / 64)).kid = kid := by
    rw [aget]
    cases h : aget? (s.llcRoom kid (w / 64)).mem.llc (w / 64) with
    | none => rfl
    | some x => exact State.llcRoom_kid h
  simpa [State.llcPut, State.llcWord, State.tick, amod] using hkid

theorem State.llcFill_miss {s : State} {kid w : Nat} (cls : EvClass) (h : s.llcWord kid w = none)
    (hpsn : ((s.llcRoom kid (w / 64)).readStored w).2.1 = true) :
    (s.llcFill kid w cls).llcWord kid w = some (poisonWord w .shared 15) := by
  simp [State.llcFill, h, hpsn]

/-! ## The parts of the statement -/

theorem hColumn_formula (j : Fin 32) : hColumn j.val = (if j.val < 8 then 2 ^ (j.val % 8) + 2 ^ ((j.val + 1) % 8) + 2 ^ ((j.val + 2) % 8)
    else if j.val < 16 then 2 ^ (j.val % 8) + 2 ^ ((j.val + 1) % 8) + 2 ^ ((j.val + 3) % 8)
    else if j.val < 24 then 2 ^ (j.val % 8) + 2 ^ ((j.val + 1) % 8) + 2 ^ ((j.val + 4) % 8)
    else 2 ^ (j.val % 8) + 2 ^ ((j.val + 2) % 8) + 2 ^ ((j.val + 4) % 8)) := by
  revert j
  decide +kernel

/-- The masks as the list that 03 R60 gives. -/
theorem hMask_of_mem {p : Nat × Nat} (hp : p ∈ [(0, 0x5191A1C1), (1, 0xA2234383), (2, 0x45468607), (3, 0x8A8C0D0E),
    (4, 0x15191A1C), (5, 0x2A323438), (6, 0x54646870), (7, 0xA8C8D0E0)]) : p.1 < 8 ∧ hMask p.1 = p.2 := by
  revert p
  decide

theorem readStored_delivers_and_counts (s : State) (w : Nat) :
    let r := s.readStored w
    let k := s.mem.stack (s.mem.stackOf w)
    let k' := r.2.2.mem.stack (s.mem.stackOf w)
    let j := judge (sigOf w) (s.mem.storedData w) (s.mem.storedCheck w)
    (∀ d, j = .clean d → r.1 = d ∧ r.2.1 = false ∧ k'.ce = k.ce ∧ k'.ue = k.ue)
    ∧ (∀ d, j = .fixed d → r.1 = d ∧ r.2.1 = false ∧ k'.ce = min 0xFFFF (k.ce + 1) ∧ k'.ue = k.ue)
    ∧ (j = .poison → r.2.1 = true ∧ k'.ce = k.ce ∧ k'.ue = k.ue)
    ∧ (j = .bad → r.2.1 = true ∧ k'.ce = k.ce ∧ k'.ue = min 0xFFFF (k.ue + 1)) := by
  have hce := State.countCe_stack (s.modMem fun m => m.touch w) w
  have hue := State.countUe_ue (s.modMem fun m => m.touch w) w
  have huece := State.countUe_ce (s.modMem fun m => m.touch w) w
  simp only [State.modMem_mem, MemSys.touch_stackOf, MemSys.touch_stack] at hce hue huece
  refine ⟨fun d h => ?_, fun d h => ?_, fun h => ?_, fun h => ?_⟩
  · simp [State.readStored_clean h]
  · simp [State.readStored_fixed h, hce, satInc]
  · simp [State.readStored_poison h]
  · simp [State.readStored_bad h, huece, hue, satInc]

/-- A word that is judged uncorrectable or poison is read as poisoned. -/
theorem readStored_poisoned {s : State} {w : Nat} (h : judge (sigOf w) (s.mem.storedData w) (s.mem.storedCheck w) = .bad
    ∨ judge (sigOf w) (s.mem.storedData w) (s.mem.storedCheck w) = .poison) : (s.readStored w).2.1 = true := by
  obtain h | h := h
  · rw [State.readStored_bad h]
  · rw [State.readStored_poison h]

/-- Settles O39: the code is linear, so an error, a moved word or the poison code shows in the syndrome as itself, and the judgement of a
syndrome turns on its weight. -/
theorem errorCode : Obligations.ErrorCode := by
  unfold Obligations.ErrorCode
  refine ⟨hColumn_formula, ?masks, ?judgement, readStored_delivers_and_counts, fun w d => judge_encodeCheck (sigOf_lt w) d,
    fun w d e c => judge_one_error (sigOf_lt w) d e c, fun w d e c => judge_two_errors (sigOf_lt w) d e c,
    fun w => ⟨poisonCheck_toNat (sigOf_lt w), syndrome_poisonCheck (sigOf_lt w)⟩,
    fun w e c h => ⟨popCount_poison_one_error (sigOf_lt w) e c h, judge_poison_one_error (sigOf_lt w) e c h⟩,
    fun w x d => judge_near_address d, fun w x d h => .inl (judge_other_signature d h), ?fill⟩
  case masks =>
    intro sig d hsig p hp
    obtain ⟨hlt, hmask⟩ := hMask_of_mem hp
    rw [getLsbD_encodeCheck d hsig hlt, hmask, parity]
  case judgement =>
    intro sig d c _
    exact ⟨judge_of_syndrome_zero, judge_of_syndrome_unit, fun j => judge_of_syndrome_column j.isLt, judge_of_syndrome_poison,
      fun hzero hunit hcol hpoison => judge_bad hzero hpoison hunit fun j hj => hcol ⟨j, hj⟩⟩
  case fill =>
    intro s kid w cls hmiss x hjudge
    exact ⟨_, State.llcFill_miss cls hmiss (readStored_poisoned hjudge), rfl, rfl⟩

end Sys2Proof.Machine
end

section
/-!
PROOFS. The predicates (07 R156; 16 R343, R345; 17 R355), which settles O52: the bits of the predicate registers after a write, the word that
PMOV.pr pushes, and the compares, the logic and the moves from the laws of their shared shapes.
-/

namespace Sys2Proof.Machine

/-! ## Predicate registers (07 R156) -/

theorem getLsbD_setBit {n : Nat} (x : BitVec n) (i j : Nat) (b : Bool) :
    (setBit x i b).getLsbD j = if j = i then decide (i < n) && b else x.getLsbD j := by
  by_cases hj : j < n
  · by_cases h : j = i
    · subst h
      cases b <;> simp [setBit, hj]
    · cases b <;> simp [setBit, h, hj]
  · have out (y : BitVec n) : y.getLsbD j = false := BitVec.getLsbD_of_ge y j (Nat.not_lt.mp hj)
    rw [out, out]
    split
    · next h => simp [← h, hj]
    · rfl

/-- p0 reads true, whatever its bit in the register. -/
theorem Thread.pred_zero (t : Thread) : t.pred 0 = true := rfl

/-- p0 reads unpoisoned, whatever its bit in the register. -/
theorem Thread.predPsn_zero (t : Thread) : t.predPsn 0 = false := rfl

theorem Thread.pred_of_ne_zero (t : Thread) {i : Fin 8} (h : i ≠ 0) : t.pred i = t.p.getLsbD i.val := by
  simp [Thread.pred, h]

theorem Thread.predPsn_of_ne_zero (t : Thread) {i : Fin 8} (h : i ≠ 0) : t.predPsn i = t.pp.getLsbD i.val := by
  simp [Thread.predPsn, h]

theorem Thread.setPred_zero (t : Thread) (v b : Bool) : t.setPred 0 v b = t := rfl

theorem Thread.setPred_of_ne_zero (t : Thread) {i : Fin 8} (v b : Bool) (h : i ≠ 0) :
    t.setPred i v b = { t with p := setBit t.p i.val v, pp := setBit t.pp i.val b } := by
  simp [Thread.setPred, h]

theorem Thread.pred_setPred (t : Thread) (i j : Fin 8) (v b : Bool) :
    (t.setPred i v b).pred j = if j = 0 then true else if j = i then v else t.pred j := by
  by_cases hj : j = 0
  · rw [if_pos hj, hj, Thread.pred_zero]
  · rw [if_neg hj]
    by_cases hi : i = 0
    · rw [hi, Thread.setPred_zero, if_neg hj]
    · rw [Thread.setPred_of_ne_zero t v b hi, Thread.pred_of_ne_zero _ hj, Thread.pred_of_ne_zero t hj, getLsbD_setBit]
      simp [Fin.ext_iff]

theorem Thread.predPsn_setPred (t : Thread) (i j : Fin 8) (v b : Bool) :
    (t.setPred i v b).predPsn j = if j = 0 then false else if j = i then b else t.predPsn j := by
  by_cases hj : j = 0
  · rw [if_pos hj, hj, Thread.predPsn_zero]
  · rw [if_neg hj]
    by_cases hi : i = 0
    · rw [hi, Thread.setPred_zero, if_neg hj]
    · rw [Thread.setPred_of_ne_zero t v b hi, Thread.predPsn_of_ne_zero _ hj, Thread.predPsn_of_ne_zero t hj, getLsbD_setBit]
      simp [Fin.ext_iff]

/-! ## The word of PMOV.pr (16 R345) -/

/-- The two registers stand one above the other, p0 as one and its poison bit as zero. -/
theorem Thread.predWord_eq_append (t : Thread) : t.predWord = ((t.pp &&& 0xFE) ++ (t.p ||| 1)).setWidth 64 := by
  apply BitVec.eq_of_toNat_eq
  have hlow := (t.p ||| 1).isLt
  rw [Thread.predWord, BitVec.toNat_ofNat, BitVec.toNat_setWidth, BitVec.toNat_append, ← Nat.shiftLeft_add_eq_or_of_lt hlow,
    Nat.shiftLeft_eq, Nat.add_comm, Nat.mul_comm]

theorem getLsbD_0xFE (i : Nat) : (0xFE : BitVec 8).getLsbD i = decide (0 < i ∧ i < 8) := by
  by_cases h : i < 8
  · exact (by decide : ∀ k : Fin 8, (0xFE : BitVec 8).getLsbD k.val = decide (0 < k.val ∧ k.val < 8)) ⟨i, h⟩
  · rw [BitVec.getLsbD_of_ge _ _ (Nat.not_lt.mp h), decide_eq_false fun hi => h hi.2]

theorem Thread.getLsbD_predWord (t : Thread) (i : Nat) :
    t.predWord.getLsbD i =
      (i == 0 || (decide (i < 8) && t.p.getLsbD i) || (decide (8 < i ∧ i < 16) && t.pp.getLsbD (i - 8))) := by
  rw [Thread.predWord_eq_append, BitVec.getLsbD_setWidth, BitVec.getLsbD_append]
  by_cases h : i < 8
  · have h64 : i < 64 := by omega
    have h8 : ¬(8 < i ∧ i < 16) := by omega
    simp [h, h64, h8, Bool.or_comm, Bool.beq_eq_decide_eq]
  · have h0 : i ≠ 0 := by omega
    have hmask : (0 < i - 8 ∧ i - 8 < 8) ↔ (8 < i ∧ i < 16) := by omega
    rw [if_neg h, BitVec.getLsbD_and, getLsbD_0xFE, decide_eq_decide.mpr hmask]
    by_cases h16 : 8 < i ∧ i < 16
    · have h64 : i < 64 := by omega
      simp [h, h0, h16, h64]
    · rw [decide_eq_false h16]
      simp [h, h0]

/-! ## Instructions -/

/-- All that a logic instruction of predicates does: it reads no value, so only the two predicates can poison the third. -/
theorem writesPred_predLogic {i : Instr} {pa ps pd : Fin 8} {f : Bool → Bool → Bool}
    (h : ∀ s, exec i s = .next (predLogic pa ps pd f s)) :
    WritesPred i [] pd fun l _ => (f (l.pre.pred pa) (l.pre.pred ps), l.pre.predPsn pa || l.pre.predPsn ps) :=
  acts_of_threads (g := fun _ l t => t.setPred pd (f (l.pre.pred pa) (l.pre.pred ps)) (l.pre.predPsn pa || l.pre.predPsn ps))
    fun s _ => h s

theorem pmovLane_step {s x : State} (h : s.Agree x) {l : Lane} {sa : Src} {ps pd : Fin 8} {vs : List Val}
    (hvs : readAll s l [sa] .none = .ok vs) :
    LaneStep x (pmovLane sa ps pd x l) l [sa] .none false {} fun t =>
      t.setPred pd ((argAt vs 0).getLsbD 0 && l.pre.pred ps) (anyPsn vs || (argAt vs 0).getLsbD 8 || l.pre.predPsn ps) := by
  rw [pmovLane, agree_readAll h, hvs]
  exact laneStep_write x l [sa] .none {} fun t =>
    t.setPred pd ((argAt vs 0).getLsbD 0 && l.pre.pred ps) (anyPsn vs || (argAt vs 0).getLsbD 8 || l.pre.predPsn ps)

/-- All that PMOV.rp does. -/
theorem writesPred_pmovRp (sa : Src) (ps pd : Fin 8) :
    WritesPred (.pmovRp sa ps pd) [sa] pd fun l vs =>
      ((argAt vs 0).getLsbD 0 && l.pre.pred ps, anyPsn vs || (argAt vs 0).getLsbD 8 || l.pre.predPsn ps) :=
  acts_of_lanes (F := fun _ => pmovLane sa ps pd) (fun _ _ => rfl) fun _ _ _ hx _ _ _ _ hvs => pmovLane_step hx hvs

/-- All that PMOV.pr does. -/
theorem acts_pmovPr : Acts .pmovPr [] .none true false (fun _ => True) (fun _ _ _ => {})
    (fun _ l _ t => t.pushed { v := l.pre.predWord }) :=
  acts_of_lanes (F := fun _ x l => x.push l.ref { v := l.pre.predWord }) (fun _ _ => rfl) fun _ _ x _ l _ _ _ _ =>
    laneStep_write x l [] .none {} fun t => t.pushed { v := l.pre.predWord }

/-- A compare of either width, with the condition and the flags of its relation. -/
theorem writesPredFp_fcmp_either {i j : Instr} {a b : Src} {ps pd : Fin 8} {r : FRel}
    (hi : ∀ s, exec i s = .next (s.forLanes (fcmpLane fmt32 r a b ps pd)))
    (hj : ∀ s, exec j s = .next (s.forLanes (fcmpLane fmt64 r a b ps pd))) (k : Instr) (f : Fmt)
    (hk : (k = i ∧ f = fmt32) ∨ (k = j ∧ f = fmt64)) :
    WritesPredFp k [a, b] pd
      (fun l vs => (r.holds (fpArg f l.pre vs 0) (fpArg f l.pre vs 1) && l.pre.pred ps, anyPsn vs || l.pre.predPsn ps))
      (fun l vs => r.flags (fpArg f l.pre vs 0) (fpArg f l.pre vs 1)) := by
  rcases hk with ⟨rfl, rfl⟩ | ⟨rfl, rfl⟩
  · exact writesPredFp_fcmp hi
  · exact writesPredFp_fcmp hj

/-! ## The parts of the statement -/

theorem exec_icmpNe (a b : Src) (ps pd : Fin 8) (s : State) :
    exec (.icmpNe a b ps pd) s = .next (compareOp a b ps pd (fun x y => decide (x ≠ y)) s) := by
  have hne : (fun x y : Dword => decide (x ≠ y)) = fun x y => x != y := by
    funext x y
    simp [bne, Bool.beq_eq_decide_eq]
  rw [hne]
  rfl

theorem predicateWrites : PredicateWrites := fun a b ps pd _ =>
  ⟨writesPred_compareOp (f := fun x y => decide (x = y)) fun _ => rfl,
    writesPred_compareOp (exec_icmpNe a b ps pd),
    writesPred_compareOp (f := fun x y => decide (x.toInt < y.toInt)) fun _ => rfl,
    writesPred_compareOp (f := fun x y => decide (x.toInt ≤ y.toInt)) fun _ => rfl,
    writesPred_compareOp (f := fun x y => decide (x.toNat < y.toNat)) fun _ => rfl,
    writesPred_compareOp (f := fun x y => decide (x.toNat ≤ y.toNat)) fun _ => rfl,
    writesPred_predLogic (f := fun x y => x && y) fun _ => rfl,
    writesPred_predLogic (f := fun x y => x || y) fun _ => rfl,
    writesPred_predLogic (f := fun x y => x ^^ y) fun _ => rfl,
    writesPred_predLogic (f := fun x y => x && !y) fun _ => rfl,
    writesPred_pmovRp a ps pd,
    Thread.predWord, acts_pmovPr, Thread.getLsbD_predWord⟩

theorem predicateRegisters : PredicateRegisters := fun t i j v b => ⟨t.pred_setPred i j v b, t.predPsn_setPred i j v b⟩

theorem floatCompares : FloatCompares := fun _ _ _ _ =>
  ⟨writesPredFp_fcmp_either (r := .eq) (fun _ => rfl) fun _ => rfl, writesPredFp_fcmp_either (r := .ne) (fun _ => rfl) fun _ => rfl,
    writesPredFp_fcmp_either (r := .lt) (fun _ => rfl) fun _ => rfl, writesPredFp_fcmp_either (r := .le) (fun _ => rfl) fun _ => rfl,
    writesPredFp_fcmp_either (r := .un) (fun _ => rfl) fun _ => rfl⟩

/-- Settles O52: each compare, logic instruction and move is an instance of the law of its shared shape, and a written predicate reads back
with its poison bit, but for p0. -/
theorem predicates : Obligations.Predicates := ⟨predicateWrites, predicateRegisters, floatCompares⟩

end Sys2Proof.Machine
end

section
/-!
PROOFS. The integer instructions (16 R338 to R342), which settles O51: the results with whole values, the rotation, the counts of bits, the
fields and the extensions bit by bit, and each instruction as an instance of the law of its number of sources.
-/

namespace Sys2Proof.Machine

/-! ## Instructions of one, two and three sources -/

theorem computes1_unOp {i : Instr} {a : Src} {d : Dst} {f g : Dword → Dword} (hexec : ∀ s, exec i s = .next (unOp a d f s))
    (hfg : ∀ x, f x = g x) : Computes1 i a d g := by
  obtain rfl : f = g := funext hfg
  exact computes_valueOp hexec

theorem computes2_binOp {i : Instr} {a b : Src} {d : Dst} {f g : Dword → Dword → Dword}
    (hexec : ∀ s, exec i s = .next (binOp a b d f s)) (hfg : ∀ x y, f x y = g x y) : Computes2 i a b d g := by
  obtain rfl : f = g := funext fun x => funext (hfg x)
  exact computes_valueOp hexec

theorem regSrc_eq_src (r : DReg) : regSrc r = r.src := by cases r <;> rfl

/-- The third source is the destination register (16 R338). -/
theorem computes3_triOp {i : Instr} {a b : Src} {r : DReg} {f : Dword → Dword → Dword → Dword}
    (hexec : ∀ s, exec i s = .next (triOp a b (regSrc r) (.reg r) f s)) : Computes3 i a b r.src (.reg r) f :=
  computes_valueOp (regSrc_eq_src r ▸ hexec)

/-! ## Whole values (16 R339, R340) -/

theorem divUnsigned_eq (x y : Dword) : divUnsigned x y = if y = 0 then 0xFFFFFFFFFFFFFFFF else x / y := by
  rw [divUnsigned, ← BitVec.udiv_def]
  rfl

theorem remUnsigned_eq (x y : Dword) : remUnsigned x y = if y = 0 then x else x % y := by
  rw [remUnsigned, ← BitVec.umod_def]

theorem ite_sle (x y u v : Dword) : (if x.sle y then u else v) = if x.toInt ≤ y.toInt then u else v := by
  simp only [BitVec.sle, decide_eq_true_eq]

theorem ite_msb (x u v : Dword) : (if x.msb then u else v) = if x.toInt < 0 then u else v := by
  simp only [BitVec.msb_eq_toInt, decide_eq_true_eq]

theorem rotateLeft_eq (x : Dword) {n : Nat} (hn : n < 64) : rotateLeft x n = x.rotateLeft n := by
  rw [rotateLeft, BitVec.rotateLeft_def, Nat.mod_eq_of_lt hn]
  by_cases h : n = 0
  · subst h
    rw [if_pos rfl, BitVec.shiftLeft_zero, BitVec.ushiftRight_eq_zero (Nat.le_refl 64), BitVec.or_zero]
  · rw [if_neg h]

/-! ## Counts of bits (16 R339) -/

theorem popCount_eq_length_filter (n x : Nat) : popCount n x = ((List.range n).filter x.testBit).length := by
  induction n generalizing x with
  | zero => rfl
  | succ n ih =>
    have hrest : x.testBit ∘ Nat.succ = (x / 2).testBit := funext fun i => Nat.testBit_succ x i
    rw [popCount, ih, List.range_succ_eq_map, List.filter_cons, List.filter_map, hrest, Nat.testBit_zero]
    by_cases h : x % 2 = 1
    · simp [h, Nat.add_comm]
    · simp [Nat.mod_two_ne_one.mp h]

theorem popCount_le (n x : Nat) : popCount n x ≤ n := by
  rw [popCount_eq_length_filter]
  exact Nat.le_trans (List.length_filter_le _ _) (Nat.le_of_eq List.length_range)

theorem toNat_popCount (x : Dword) :
    (BitVec.ofNat 64 (popCount 64 x.toNat)).toNat = ((List.range 64).filter fun i => x.getLsbD i).length := by
  have hle := popCount_le 64 x.toNat
  rw [BitVec.toNat_ofNat, Nat.mod_eq_of_lt (by omega), popCount_eq_length_filter]
  rfl

/-- The highest set bit stands at the logarithm. -/
theorem leadingZeros_spec {x : Dword} (h : x ≠ 0) :
    leadingZeros x < 64 ∧ x.getLsbD (63 - leadingZeros x) = true ∧ ∀ i, 63 - leadingZeros x < i → x.getLsbD i = false := by
  have hne : x.toNat ≠ 0 := BitVec.toNat_ne_iff_ne.mpr h
  have hlog : x.toNat.log2 < 64 := (Nat.log2_lt hne).mpr x.isLt
  have hplace : 63 - leadingZeros x = x.toNat.log2 := by
    rw [leadingZeros, if_neg h, log2]
    omega
  rw [hplace]
  refine ⟨?_, Nat.testBit_log2 hne, fun i hi => ?_⟩
  · rw [leadingZeros, if_neg h]
    omega
  · exact Nat.testBit_lt_two_pow (Nat.lt_of_lt_of_le Nat.lt_log2_self (Nat.pow_le_pow_right (by decide) hi))

theorem lowestSet_eq_find? (n i x : Nat) : lowestSet n i x = (List.range' i n).find? x.testBit := by
  induction n generalizing i with
  | zero => rfl
  | succ n ih =>
    rw [lowestSet, ih, List.range'_succ, List.find?_cons]
    cases x.testBit i <;> rfl

theorem trailingZeros_eq_find? (x : Dword) : trailingZeros x = ((List.range 64).find? x.toNat.testBit).getD 64 := by
  rw [trailingZeros, lowestSet_eq_find?, List.range_eq_range']

theorem trailingZeros_spec {x : Dword} (h : x ≠ 0) :
    trailingZeros x < 64 ∧ x.getLsbD (trailingZeros x) = true ∧ ∀ i, i < trailingZeros x → x.getLsbD i = false := by
  rw [trailingZeros_eq_find?]
  cases hfind : (List.range 64).find? x.toNat.testBit with
  | none =>
    refine absurd (BitVec.eq_of_getLsbD_eq fun i hi => ?_) h
    have hbit : x.getLsbD i = false := Bool.eq_false_iff.mpr (List.find?_eq_none.mp hfind i (List.mem_range.mpr hi))
    exact hbit.trans BitVec.getLsbD_zero.symm
  | some k =>
    obtain ⟨hset, hk, hbelow⟩ := List.find?_range_eq_some.mp hfind
    exact ⟨List.mem_range.mp hk, hset, fun i hi => Bool.not_eq_true' _ ▸ hbelow i hi⟩

/-! ## The bit reversal (16 R339) -/

/-- The fold of `bitReverse` puts each further bit below the ones before it. -/
theorem testBit_foldl_bits (f : Nat → Bool) (n i : Nat) :
    ((List.range n).foldl (fun x j => x * 2 + (if f j then 1 else 0)) 0).testBit i = (decide (i < n) && f (n - 1 - i)) := by
  induction n generalizing i with
  | zero => simp
  | succ n ih =>
    rw [List.range_succ, List.foldl_append, List.foldl_cons, List.foldl_nil]
    cases i with
    | zero => cases h : f n <;> simp [h]
    | succ i =>
      have hhalf (y : Nat) : (y * 2 + if f n then 1 else 0) / 2 = y := by split <;> omega
      rw [Nat.testBit_succ, hhalf, ih]
      simp [Nat.sub_sub, Nat.add_comm]

theorem getLsbD_bitReverse (x : Dword) {i : Nat} (hi : i < 64) : (bitReverse x).getLsbD i = x.getLsbD (63 - i) := by
  rw [bitReverse, BitVec.getLsbD_ofNat, testBit_foldl_bits, BitVec.testBit_toNat]
  simp [hi]

/-! ## Extensions (14 R308) -/

theorem signedOf_eq_toInt {n : Nat} (hn : 0 < n) (x : Dword) : signedOf n x.toNat = (x.setWidth n).toInt := by
  have heven : 2 ^ n = 2 * 2 ^ (n - 1) := by rw [← Nat.pow_succ']; congr 1; omega
  rw [signedOf, BitVec.toInt_eq_toNat_cond, BitVec.toNat_setWidth]
  have hsign : x.toNat % 2 ^ n < 2 ^ n / 2 ↔ 2 * (x.toNat % 2 ^ n) < 2 ^ n := by omega
  simp only [hsign]

theorem sext_eq_signExtend {n : Nat} (hn : 0 < n) (x : Dword) : sext n x = (x.setWidth n).signExtend 64 := by
  rw [sext, signedOf_eq_toInt hn]
  rfl

theorem getLsbD_sext {n : Nat} (hn : 0 < n) (x : Dword) {i : Nat} (hi : i < 64) :
    (sext n x).getLsbD i = x.getLsbD (min i (n - 1)) := by
  rw [sext_eq_signExtend hn, BitVec.getLsbD_signExtend, BitVec.msb_eq_getLsbD_last, BitVec.getLsbD_setWidth, BitVec.getLsbD_setWidth]
  by_cases h : i < n
  · rw [Nat.min_eq_left (by omega)]
    simp [hi, h]
  · have hlast : n - 1 < n := by omega
    rw [Nat.min_eq_right (by omega), if_neg h, decide_eq_true hi, decide_eq_true hlast, Bool.true_and, Bool.true_and]

theorem getLsbD_zext (n : Nat) (x : Dword) {i : Nat} (hi : i < 64) : (zext n x).getLsbD i = (decide (i < n) && x.getLsbD i) := by
  rw [zext, BitVec.getLsbD_ofNat, Nat.testBit_mod_two_pow, BitVec.testBit_toNat]
  simp [hi]

theorem extendBy_signed (k : Fin 3) : extendBy (BitVec.ofNat 8 k.val).toNat = sext (8 * 2 ^ k.val) := by
  have hcode : (BitVec.ofNat 8 k.val).toNat = k.val := Nat.mod_eq_of_lt (by omega)
  funext x
  rw [hcode, extendBy, if_pos (by omega)]

theorem extendBy_unsigned (k : Fin 3) : extendBy (BitVec.ofNat 8 (k.val + 4)).toNat = zext (8 * 2 ^ k.val) := by
  have hcode : (BitVec.ofNat 8 (k.val + 4)).toNat = k.val + 4 := Nat.mod_eq_of_lt (by omega)
  funext x
  rw [hcode, extendBy, if_neg (by omega), Nat.add_sub_cancel]

/-! ## Fields (16 R341) -/

theorem fieldWidth_eq (y : Dword) : fieldWidth y = min (y.toNat / 2 ^ 8 % 2 ^ 7) (64 - y.toNat % 64) := rfl

theorem fieldPos_add_fieldWidth_le (y : Dword) : fieldPos y + fieldWidth y ≤ 64 := by
  rw [fieldPos, fieldWidth_eq]
  omega

theorem getLsbD_fieldMask (y : Dword) (i : Nat) :
    (fieldMask y).getLsbD i = decide (fieldPos y ≤ i ∧ i < fieldPos y + fieldWidth y) := by
  have hle := fieldPos_add_fieldWidth_le y
  rw [fieldMask, BitVec.getLsbD_ofNat, Nat.testBit_mul_two_pow, Nat.testBit_two_pow_sub_one, ← Bool.decide_and, ← Bool.decide_and,
    decide_eq_decide]
  omega

theorem getLsbD_extractUnsigned (x y : Dword) (i : Nat) :
    (extractUnsigned x y).getLsbD i = (decide (i < fieldWidth y) && x.getLsbD (fieldPos y + i)) := by
  rw [extractUnsigned, BitVec.getLsbD_ushiftRight, BitVec.getLsbD_and, getLsbD_fieldMask, Bool.and_comm]
  simp

theorem getLsbD_extractSigned (x y : Dword) {i : Nat} (hi : i < 64) :
    (extractSigned x y).getLsbD i = (fieldWidth y != 0 && x.getLsbD (fieldPos y + min i (fieldWidth y - 1))) := by
  rw [extractSigned]
  by_cases h : fieldWidth y = 0
  · simp [h]
  · have hin : min i (fieldWidth y - 1) < fieldWidth y := by omega
    rw [if_neg h, getLsbD_sext (Nat.pos_of_ne_zero h) _ hi, getLsbD_extractUnsigned, decide_eq_true hin, bne_iff_ne.mpr h]

theorem getLsbD_insertField (x y z : Dword) {i : Nat} (hi : i < 64) :
    (insertField x y z).getLsbD i =
      if fieldPos y ≤ i ∧ i < fieldPos y + fieldWidth y then x.getLsbD (i - fieldPos y) else z.getLsbD i := by
  rw [insertField, BitVec.getLsbD_or, BitVec.getLsbD_and, BitVec.getLsbD_and, BitVec.getLsbD_not, BitVec.getLsbD_shiftLeft,
    getLsbD_fieldMask]
  by_cases h : fieldPos y ≤ i ∧ i < fieldPos y + fieldWidth y
  · rw [if_pos h, decide_eq_true h]
    simp [hi, Nat.not_lt.mpr h.1]
  · rw [if_neg h, decide_eq_false h]
    simp [hi]

/-! ## The parts of the statement -/

/-- Where nothing else is said, the model's arm is the shared shape with the function that the statement names. -/
theorem integerArithmetic : IntegerArithmetic := by
  intro a b d r imm
  refine ⟨?iadd, ?isub, ?imul, ?imulhI64, ?imulhW64, ?imad, ?idivI64, ?idivW64, ?iremI64, ?iremW64, ?iminI64, ?iminW64, ?imaxI64,
    ?imaxW64, ?iabs, ?lea, ?iaddi⟩
  case imad => exact computes3_triOp fun _ => rfl
  case idivW64 => exact computes2_binOp (fun _ => rfl) divUnsigned_eq
  case iremW64 => exact computes2_binOp (fun _ => rfl) remUnsigned_eq
  case iminI64 => exact computes2_binOp (fun _ => rfl) fun x y => ite_sle x y x y
  case imaxI64 => exact computes2_binOp (fun _ => rfl) fun x y => ite_sle x y y x
  case iabs => exact computes1_unOp (fun _ => rfl) fun x => ite_msb x (-x) x
  all_goals exact computes_valueOp fun _ => rfl

theorem logicAndShifts : LogicAndShifts := by
  intro a b d imm n
  refine ⟨?and, ?or, ?xor, ?andn, ?shl, ?shr, ?sar, ?rol, ?andImm, ?orImm, ?xorImm, ?andnImm, ?shlImm, ?shrImm, ?sarImm, ?rolImm⟩
  case rol => exact computes2_binOp (fun _ => rfl) fun x y => rotateLeft_eq x (Nat.mod_lt y.toNat (by decide))
  case rolImm => exact computes1_unOp (fun _ => rfl) fun x => rotateLeft_eq x n.isLt
  all_goals exact computes_valueOp fun _ => rfl

theorem bitFields : BitFields := by
  refine ⟨fun a d => ⟨fun x => BitVec.ofNat 64 (popCount 64 x.toNat), computes_valueOp fun _ => rfl, toNat_popCount⟩,
    fun a d => ⟨fun x => BitVec.ofNat 64 (leadingZeros x), computes_valueOp fun _ => rfl, ?clz⟩,
    fun a d => ⟨fun x => BitVec.ofNat 64 (trailingZeros x), computes_valueOp fun _ => rfl, ?ctz⟩,
    fun a d => ⟨bitReverse, computes_valueOp fun _ => rfl, fun x _ => getLsbD_bitReverse x⟩,
    fun a b d => ⟨extractUnsigned, computes_valueOp fun _ => rfl, fun x y i _ => getLsbD_extractUnsigned x y i⟩,
    fun a b d => ⟨extractSigned, computes_valueOp fun _ => rfl, fun x y _ => getLsbD_extractSigned x y⟩,
    fun a b r => ⟨insertField, computes3_triOp fun _ => rfl, fun x y z _ => getLsbD_insertField x y z⟩,
    fun a d k => ⟨sext (8 * 2 ^ k.val), zext (8 * 2 ^ k.val), ?signed, ?unsigned, ?bits⟩⟩
  case clz =>
    refine fun x => ⟨fun h => by rw [h]; rfl, fun h => ?_⟩
    obtain ⟨hlt, hset, habove⟩ := leadingZeros_spec h
    rw [BitVec.toNat_ofNat, Nat.mod_eq_of_lt (by omega)]
    exact ⟨hlt, hset, habove⟩
  case ctz =>
    refine fun x => ⟨fun h => by rw [h]; rfl, fun h => ?_⟩
    obtain ⟨hlt, hset, hbelow⟩ := trailingZeros_spec h
    rw [BitVec.toNat_ofNat, Nat.mod_eq_of_lt (by omega)]
    exact ⟨hlt, hset, hbelow⟩
  case signed => exact computes1_unOp (fun _ => rfl) fun x => congrFun (extendBy_signed k) x
  case unsigned => exact computes1_unOp (fun _ => rfl) fun x => congrFun (extendBy_unsigned k) x
  case bits => exact fun x i hi => ⟨getLsbD_sext (Nat.mul_pos (by decide) (Nat.two_pow_pos k.val)) x hi, getLsbD_zext _ x hi⟩

/-- Settles O51: each instruction is an instance of the law of its number of sources, and what is left is its function on values, bit by bit
for the counts, the fields and the extensions. -/
theorem integerInstructions : Obligations.IntegerInstructions := ⟨integerArithmetic, logicAndShifts, bitFields⟩

end Sys2Proof.Machine
end
